-- ==== Sys2Proof/Word.lean ====
section
/-! DEFINITION. The word types: a byte, and the 32-bit word of check values and drain tags (R6, R118). -/

namespace Sys2Proof

/-- A byte of a record or of the chunk buffer. -/
abbrev Byte := BitVec 8

/-- A 32-bit word: the check register (R6), the wrapping drain tag counter (R118) and the wrapping interval number (R169). -/
abbrev Word := BitVec 32

end Sys2Proof
end

