-- ==== Sys2Proof/Config.lean ====
section
/-! DEFINITION. The sizes the data sheet fixes (00_scope.md, Device Summary) and the free values it leaves open. -/

namespace Sys2Proof

/-- Chunk size in bytes (R2); also the size of a slot (R79). -/
def Config.chunkSize : Nat := 65536
/-- Bytes of a chunk buffer word that carries one ECC (R88). -/
def Config.wordBytes : Nat := 8
/-- Places in a lane's ingress queue and credits at lane up (R36, R41). -/
def Config.laneCredits : Nat := 32
/-- Places in a lane's output queue (R36). -/
def Config.outputDepth : Nat := 8
/-- Places in the command queue and in the response queue (R161). -/
def Config.commandDepth : Nat := 16
/-- Places in the event queue (R164). -/
def Config.eventDepth : Nat := 256
/-- Records the offered list and the drain map hold together (R116). -/
def Config.drainDepth : Nat := 128
/-- Most slots that may be retired (R92). -/
def Config.retiredLimit : Nat := 64
/-- Most ranges of a chunk record (R57). -/
def Config.rangeLimit : Nat := 8
/-- Outcomes the outcome history keeps (R19). -/
def Config.historyLimit : Nat := 8
/-- Longest payload of a segment (R46). -/
def Config.payloadLimit : Nat := 9216
/-- One past the largest stream offset, 2^48 (R1). -/
def Config.offsetLimit : Nat := 281474976710656
/-- Largest cap_chunks, 2^32 (R16). -/
def Config.capLimit : Nat := 4294967296
/-- The value at which a 32-bit count saturates (R22, R168). -/
def Config.countMax : Nat := 4294967295
/-- The value at which a 64-bit count saturates (R168), and the last value of the device time (R165). -/
def Config.count64Max : Nat := 18446744073709551615

/-- FREE VALUE (log 4): the device time one millisecond after 2^64 - 1, which R165 does not state.
Its argument is State's counter of free values. -/
opaque Config.timeAfterLast : Nat → Nat

/-- FREE VALUE (log 16): the 4 bytes QUERY gives for a window record whose chunk index is 2^32 or more,
an index R2 says no chunk has while R52 lets a record describe it. -/
opaque Config.wideChunkIndex : Nat → Nat

end Sys2Proof
end

