-- ==== Sys2Proof/Syntax.lean ====
section
/-! DEFINITION. The commands of the block: one constructor for each row of spec/opcode_table.json, with its operands. -/

namespace Sys2Proof

/-- One of segment lanes 0 to 3 (R36). -/
abbrev LaneId := Fin 4

/-- A stream index, 2·row + way (R13). -/
abbrev StreamIndex := Fin 512

/-- The link status of a lane, the partner's report (R36). -/
inductive LinkStatus where
  | down | up
  deriving DecidableEq, Repr

/-- The writer's signal at the drain port (R120). -/
inductive WriterSignal where
  | offline | ready
  deriving DecidableEq, Repr

/-- What the device samples from its partners at a reset: each lane's link as the partner reports it (R36) and the
writer's signal (R120). -/
structure ResetSample where
  links : Vector LinkStatus 4
  signal : WriterSignal
  deriving DecidableEq, Repr

/-- A command to the block, one constructor for each row of the table.
The rows that take a host command (`openCmd` to `unknownCommand`) find its parameters in the record at the head of
the command queue (R162). -/
inductive Instr where
  /-- PUSH_SEGMENT (R42): the bytes of the record as the lane's framing gives them. -/
  | pushSegment (lane : LaneId) (record : List Byte)
  /-- LINK_UP (R37). -/
  | linkUp (lane : LaneId)
  /-- LINK_DOWN (R37, R50). -/
  | linkDown (lane : LaneId)
  /-- LANE_RESET (R37, R50). -/
  | laneReset (lane : LaneId)
  /-- NOTICE_TAKE (R44). -/
  | noticeTake (lane : LaneId)
  /-- SEGMENT_TAKE (R45). -/
  | segmentTake (lane : LaneId)
  /-- NOTICE_PLACEMENT (R142). -/
  | noticePlacement (lane : LaneId)
  /-- TAKE (R123). -/
  | take
  /-- READ (R124): the 12 bytes of the request. -/
  | read (record : List Byte)
  /-- COMPLETE (R125): the 12 bytes of the completion. -/
  | complete (record : List Byte)
  /-- WRITER_SIGNAL (R120). -/
  | writerSignal (signal : WriterSignal)
  /-- PORT_RESET (R122). -/
  | portReset
  /-- ARBITER_TURN (R117). -/
  | arbiterTurn
  /-- DRAIN_TIMEOUT (R132): the drain tag of the record whose expiry is reached. -/
  | drainTimeout (tag : Word)
  /-- ENGINE_TAKE (R98). -/
  | engineTake
  /-- VERIFY_COMPLETION (R100). -/
  | verifyCompletion
  /-- COMMAND_WRITE (R161): the 48 bytes of the command record. -/
  | commandWrite (record : List Byte)
  /-- OPEN (R25). -/
  | openCmd
  /-- CLOSE (R26). -/
  | closeCmd
  /-- ABORT (R27). -/
  | abortCmd
  /-- RELEASE (R28). -/
  | releaseCmd
  /-- SALVAGE (R29). -/
  | salvageCmd
  /-- EXTEND (R30). -/
  | extendCmd
  /-- FLUSH (R31). -/
  | flushCmd
  /-- QUERY (R173). -/
  | queryCmd
  /-- LANE (R39). -/
  | laneCmd
  /-- CONFIGURE (R171). -/
  | configureCmd
  /-- COUNTERS (R170). -/
  | countersCmd
  /-- CLEAR_ERRORS (R167). -/
  | clearErrorsCmd
  /-- STATUS (R172). -/
  | statusCmd
  /-- RESET (R175): the levels the partners show at that moment. -/
  | resetCmd (sample : ResetSample)
  /-- UNKNOWN_COMMAND (R162). -/
  | unknownCommand
  /-- RESPONSE_QUEUE_READ (R161). -/
  | responseQueueRead
  /-- EVENT_QUEUE_READ (R164). -/
  | eventQueueRead
  /-- POWER_ON_RESET (R175): the levels the partners show at that moment. -/
  | powerOnReset (sample : ResetSample)
  /-- BUFFER_WALK (R174): the buffer words that read back wrong or with an ECC error. -/
  | bufferWalk (badWords : List Nat)
  /-- STREAM_TABLE_TEST (R174): the entries that read back wrong or with bad parity. -/
  | streamTableTest (badEntries : List Nat)
  /-- KNOWN_ANSWER (R174): the bits of the engine's result that a fault of the engine inverts, 0 for a sound engine. -/
  | knownAnswer (flips : Word)
  /-- SCRUB (R32). -/
  | scrub
  /-- IDLE_EXPIRY (R159): the stream whose idle expiry is reached. -/
  | idleExpiry (stream : StreamIndex)
  /-- INTERVAL_EXPIRY (R169). -/
  | intervalExpiry
  deriving DecidableEq, Repr

end Sys2Proof
end

