-- ==== Sys2Proof/Machine/State.lean ====
section
/-! DEFINITION. The state of the HX-6120, as plain data: every block of the Block Overview (00_scope.md) with what it
holds, the model's own queues, the reasons a step can stop, and the machine right after power-on reset (R175). -/

namespace Sys2Proof.Machine

/-- A slot number, 0 to 2,047 (R79). -/
abbrev Slot := Fin 2048

/-- A number of bytes of a chunk, 0 to 65,536 (R4). -/
abbrev ChunkLen := Fin 65537

/-! ## Codes -/

/-- The live stream states (R23); FREE is an entry without a context (R13). -/
inductive StreamState where
  | opened | hold | complete | aborted | salvaging | releasing
  deriving DecidableEq, Repr

/-- The cause of a stream's end (R24). -/
inductive Cause where
  | hostAbort | chunkUnrecoverable | pathUnreliable | storeFailed | storeFull | contextError
  deriving DecidableEq, Repr

/-- The chunk states (R18). -/
inductive ChunkState where
  | empty | filling | queued | verifying | verified | offered | taken | stored
  deriving DecidableEq, Repr

/-- A verify outcome in the outcome history (R19). -/
inductive Verdict where
  | pass | fail
  deriving DecidableEq, Repr

/-- The lane states (R36). -/
inductive LaneState where
  | down | active | quiesced
  deriving DecidableEq, Repr

/-- The causes of a lane's change of state (R40). -/
inductive LaneCause where
  | linkUp | linkDown | laneReset | deviceReady | host
  deriving DecidableEq, Repr

/-- The writer states (R120). -/
inductive WriterState where
  | offline | ready
  deriving DecidableEq, Repr

/-- The causes of a change of writer state (R120). -/
inductive WriterCause where
  | writerSignal | portReset | deviceReady
  deriving DecidableEq, Repr

/-- The pool states (R86). -/
inductive PoolState where
  | ok | low
  deriving DecidableEq, Repr

/-- The steps of the self-test (R174). -/
inductive SelfTest where
  | bufferWalk | tableTest | knownAnswer
  deriving DecidableEq, Repr

/-- The device states with the self-test step they carry (R174). -/
inductive DeviceState where
  | starting (step : SelfTest) | ready | failed (step : SelfTest)
  deriving DecidableEq, Repr

/-- The drop reasons, in the order of the table of R168. -/
inductive DropReason where
  | laneDown | noCredit | laneLost | badLength | emptyNotLast | offsetRange | contextError | unknownTag
  | streamStopped | endConflict | oldData | beyondCapacity | beyondEnd | beyondWindow | noSlot | fragmentLimit
  deriving DecidableEq, Repr

/-- The device counters (R168). -/
inductive Counter where
  | received (lane : LaneId) | drop (reason : DropReason)
  | chunksVerified | chunksFailed | patternErrors
  | chunksCommitted | rewrites | strayCompletions | timeouts
  | correctedErrors | uncorrectableErrors | retiredSlots | tableParityErrors | eventsLost
  deriving DecidableEq, Repr

/-- The kinds of device-level error (R166). -/
inductive ErrorKind where
  | tableParity | bufferUncorrected | commandOverrun | eventsLost
  deriving DecidableEq, Repr

/-- The statuses of a response (R161). -/
inductive Status where
  | done | notReady | noStream | tagInUse | rowFull | noSpace | wrongState | badParam | contextError | unknownCommand
  deriving DecidableEq, Repr

/-- The ECC condition of a buffer word (R88, R89): sound, with a single-bit error, or uncorrectable. A word written in
the poisoned form of R88 is uncorrectable. -/
inductive WordCondition where
  | sound | correctable | uncorrectable
  deriving DecidableEq, Repr

/-- The condition of a slot (R79); an ASSIGNED slot carries the stream index and window position it is assigned to. -/
inductive SlotUse where
  | free | assigned (stream : StreamIndex) (pos : Nat) | retired
  deriving DecidableEq, Repr

/-! ## Stream contexts -/

/-- The chunk-local byte range [start, stop) (R57). -/
structure Range where
  start : Nat
  stop : Nat
  deriving DecidableEq, Repr

/-- A chunk record (R18). -/
structure ChunkRecord where
  index : Nat
  slot : Option Slot
  state : ChunkState
  ranges : List Range
  failures : Nat
  offers : Nat
  check : Option Word
  deriving DecidableEq, Repr

/-- The pending notice set (R21): no duplicates by its form; `gaps` holds window positions, strictly rising. -/
structure NoticeSet where
  resync : Bool
  gaps : List Nat
  commit : Bool
  ended : Bool
  stop : Bool
  deriving DecidableEq, Repr

/-- The stream's own counters (R22). -/
structure StreamCounters where
  acceptedBytes : Nat
  duplicateBytes : Nat
  oldBytes : Nat
  streamStopped : Nat
  endConflict : Nat
  beyondCapacity : Nat
  beyondEnd : Nat
  beyondWindow : Nat
  noSlot : Nat
  fragmentLimit : Nat
  failures : Nat
  gapsSent : Nat
  rewrites : Nat
  patternErrors : Nat
  deriving DecidableEq, Repr

/-- A stream context (R16 to R22, R24). -/
structure Context where
  state : StreamState
  cause : Option Cause
  tag : Nat
  w : Nat
  b : Nat
  t : Nat
  pattern : Bool
  target : Nat
  base : Nat
  cap : Nat
  reserve : Nat
  committed : Nat
  final : Option Nat
  window : List ChunkRecord
  history : List Verdict
  holdFailures : Nat
  streaming : Bool
  flushPending : Bool
  earlyWarningIssued : Bool
  capacityReached : Bool
  idleReported : Bool
  lastArrival : Nat
  notices : NoticeSet
  replyLane : Option LaneId
  counts : StreamCounters
  deriving DecidableEq, Repr

/-- An entry of the Stream Table (R13): its parity, and its context when it is live. -/
structure Entry where
  parityGood : Bool
  ctx : Option Context
  deriving DecidableEq, Repr

/-- A FREE entry with good parity (R15); what an unlisted entry of the table is. -/
def Entry.free : Entry := ⟨true, none⟩

/-! ## Lanes -/

/-- The kind of a notice with its fields (R138). -/
inductive Notice where
  | commit (tag committed advertised : Nat)
  | gap (tag start length : Nat)
  | resync (tag resendFrom : Nat)
  | ended (tag final : Nat)
  | stop (tag committed : Nat) (cause : Option Cause)
  | pool (state : PoolState)
  | credit
  deriving DecidableEq, Repr

/-- A notice record in an output queue: the notice, its credits-returned count, and the stream index it was placed for
(R138). -/
structure NoticeRecord where
  notice : Notice
  credits : Nat
  stream : Option StreamIndex
  deriving DecidableEq, Repr

/-- A lane (R36) with the Notice Generator's flag and round-robin position for it (R140). -/
structure Lane where
  state : LaneState
  link : LinkStatus
  ingress : List (List Byte)
  credit : Nat
  owed : Nat
  output : List NoticeRecord
  flag : Option PoolState
  turn : StreamIndex
  deriving DecidableEq, Repr

/-- A lane after power-on reset and device reset, with its link status as sampled (R36, R140). -/
def Lane.reset (link : LinkStatus) : Lane := ⟨.down, link, [], 0, 0, [], none, 511⟩

/-! ## Slot Pool, Check Unit, Drain Controller -/

/-- The Slot Pool (R79 to R93): an unlisted slot is FREE, an unlisted mark is clear. -/
structure Pool where
  freeList : List Slot
  uses : List (Slot × SlotUse)
  marks : List (Slot × Bool)
  reserve : Nat
  state : PoolState
  deriving DecidableEq, Repr

/-- A chunk named by stream index and window position: a verify queue entry (R94). -/
structure ChunkName where
  stream : StreamIndex
  pos : Nat
  deriving DecidableEq, Repr

/-- The operation the check engine holds while BUSY (R97). -/
structure EngineOp where
  stream : StreamIndex
  pos : Nat
  index : Nat
  slot : Slot
  len : ChunkLen
  pattern : Bool
  deriving DecidableEq, Repr

/-- An offer in the offered list (R116): its chunk's stream index and window position, and the content the writer
receives at TAKE. -/
structure Offer where
  stream : StreamIndex
  pos : Nat
  drainTag : Word
  tag : Nat
  index : Nat
  target : Nat
  block : Nat
  len : Nat
  check : Word
  deriving DecidableEq, Repr

/-- A drain map record (R116). -/
structure DrainRecord where
  drainTag : Word
  stream : StreamIndex
  pos : Nat
  expiry : Nat
  deriving DecidableEq, Repr

/-! ## Control Port and Counter Block -/

/-- An event with the fields its kind carries (R164). -/
inductive Event where
  | streamFinished (stream : StreamIndex) (tag final : Nat)
  | streamAborted (stream : StreamIndex) (tag : Nat) (cause : Cause) (committed : Nat)
  | streamReleased (stream : StreamIndex) (tag : Nat) (cause : Option Cause) (committed : Nat)
  | streamHold (stream : StreamIndex) (tag committed fails : Nat)
  | streamResumed (stream : StreamIndex) (tag committed : Nat)
  | earlyWarning (stream : StreamIndex) (tag ew merged : Nat)
  | capacityReached (stream : StreamIndex) (tag capacityEnd firstDropped : Nat)
  | streamIdle (stream : StreamIndex) (tag committed lastArrival : Nat)
  | pool (state : PoolState) (free reserve spare retired : Nat)
  | laneChanged (lane : LaneId) (state : LaneState) (cause : LaneCause)
  | writerChanged (state : WriterState) (cause : WriterCause)
  | deviceError (kind : ErrorKind) (stream : Option StreamIndex) (tag : Option Nat) (slot : Option Slot)
      (chunk : Option Nat)
  | interval (number : Word) (elapsed : Nat)
  deriving DecidableEq, Repr

/-- An event record in the event queue: the device time of its raising and the event (R164). -/
structure EventRecord where
  time : Nat
  event : Event
  deriving DecidableEq, Repr

/-- A response record (R161). -/
structure Response where
  code : Nat
  status : Status
  id : Nat
  data : List Byte
  deriving DecidableEq, Repr

/-- The first-error record when it is filled (R166). -/
structure FirstError where
  kind : ErrorKind
  stream : Option StreamIndex
  slot : Option Slot
  chunk : Option Nat
  deriving DecidableEq, Repr

/-- The error summary (R166). -/
structure ErrorSummary where
  tableParity : Bool
  bufferUncorrected : Bool
  commandOverrun : Bool
  eventsLost : Bool
  first : Option FirstError
  deriving DecidableEq, Repr

/-- The error summary after CLEAR_ERRORS and after every reset (R166). -/
def ErrorSummary.clear : ErrorSummary := ⟨false, false, false, false, none⟩

/-- The device settings (R171). -/
structure Settings where
  low : Nat
  high : Nat
  drainTimeout : Nat
  idleLimit : Nat
  intervalLength : Nat
  enables : BitVec 14
  deriving DecidableEq, Repr

/-- The defaults after power-on reset and device reset (R171). -/
def Settings.default : Settings := ⟨64, 192, 2000, 0, 1, 0x3fff⟩

/-- A device counter with its saturation mark (R168). -/
structure Count where
  value : Nat
  mark : Bool
  deriving DecidableEq, Repr

/-- A set of the 32 device counters (R168). -/
abbrev CounterSet := Vector Count 32

/-- Every counter 0 and every mark clear (R168). -/
def CounterSet.zero : CounterSet := Vector.replicate 32 ⟨0, false⟩

/-! ## The model's own fields -/

/-- What each port last delivered to its partner, in the bytes of 11_record_layouts.md (none: no record), and how often
the device has signalled a lane reset on every lane (R38). MODEL'S OWN, log 19. -/
structure Ports where
  notice : Vector (Option (List Byte)) 4
  takeAnswer : Option (List Byte)
  readAnswer : Option (List Byte)
  response : Option (List Byte)
  event : Option (List Byte)
  laneResetSignals : Nat
  deriving DecidableEq, Repr

/-- Nothing delivered yet. -/
def Ports.reset : Ports := ⟨Vector.replicate 4 none, none, none, none, none, 0⟩

/-- An upset of the physical world (log 3): an entry whose content no longer fits its parity, a word with a single-bit
error, a word with an uncorrectable error and the bytes it now reads as. MODEL'S OWN. -/
inductive Disturbance where
  | entry (stream : StreamIndex) (content : Option Context)
  | correctable (word : Fin 16777216)
  | uncorrectable (word : Fin 16777216) (bytes : Vector Byte 8)
  deriving DecidableEq, Repr

/-- The state of the device. -/
structure State where
  /-- Device state and step code (R174). -/
  device : DeviceState
  /-- Device time in ms (R165). -/
  time : Nat
  /-- Device settings (R171). -/
  settings : Settings
  /-- Error summary and first-error record (R166). -/
  errors : ErrorSummary
  /-- Command queue, oldest first: the bytes of each record (R161). -/
  commands : List (List Byte)
  /-- Response queue, oldest first (R161). -/
  responses : List Response
  /-- Event queue, oldest first (R164). -/
  events : List EventRecord
  /-- Live device counters and marks (R168). -/
  live : CounterSet
  /-- Snapshot counters and marks (R168). -/
  snapshot : CounterSet
  /-- Elapsed time of the snapshot in ms (R170). -/
  snapshotElapsed : Nat
  /-- Interval number (R169). -/
  intervalNumber : Word
  /-- Device time at which the current interval began (R169). -/
  intervalStart : Nat
  /-- The four lanes (R36, R140). -/
  lanes : Vector Lane 4
  /-- The Stream Table: an unlisted entry is FREE with good parity (R13, R15). -/
  table : List (StreamIndex × Entry)
  /-- Scrub position (R32). -/
  scrubPosition : StreamIndex
  /-- The Slot Pool (R79 to R93). -/
  pool : Pool
  /-- The chunk buffer (R79): an unlisted byte is 0 (log 8). -/
  buffer : List Host.Cell
  /-- ECC conditions by word number, buffer byte div 8: an unlisted word is sound (R88, R89). -/
  words : List (Nat × WordCondition)
  /-- Verify queue, oldest first (R94). -/
  verifyQueue : List ChunkName
  /-- Check engine: none is IDLE (R97). -/
  engine : Option EngineOp
  /-- Offered list, oldest first (R116). -/
  offered : List Offer
  /-- Drain map, in the order the records were taken (R116, R121). -/
  drainMap : List DrainRecord
  /-- Drain tag counter (R118). -/
  tagCounter : Word
  /-- The arbiter's round-robin position (R117). -/
  arbiter : StreamIndex
  /-- The writer's latest signal (R120). -/
  signal : WriterSignal
  /-- MODEL'S OWN: what the ports delivered (log 19). -/
  ports : Ports
  /-- MODEL'S OWN: upsets waiting to strike, first in, first out (log 3). -/
  disturbances : List Disturbance
  /-- MODEL'S OWN: free values used so far (log 4). -/
  freeCount : Nat
  /-- MODEL'S OWN: the queue of commands, first in, first out. -/
  pending : List Instr
  deriving DecidableEq, Repr

/-- Reasons to stop with a fault: none. Every row of the table has an effect in every state, or is turned away as its
rule states, so no meaning answers with a fault. -/
inductive Fault where
  deriving DecidableEq, Repr

/-- Reasons to refuse. -/
inductive Refusal where
  /-- A command without a meaning, raised by exec's arm for it alone; safe. No arm answers so. -/
  | notModelled (mnemonic : String)
  deriving DecidableEq, Repr

/-- The Slot Pool after power-on reset (R93). -/
def Pool.reset : Pool := ⟨List.finRange 2048, [], [], 0, .ok⟩

/-- The machine right after power-on reset (R175): STARTING with the buffer walk begun. The partners' levels sampled
at it are links down and the writer offline (log 7). -/
def State.reset : State where
  device := .starting .bufferWalk
  time := 0
  settings := .default
  errors := .clear
  commands := []
  responses := []
  events := []
  live := .zero
  snapshot := .zero
  snapshotElapsed := 0
  intervalNumber := 0
  intervalStart := 0
  lanes := Vector.replicate 4 (.reset .down)
  table := []
  scrubPosition := 0
  pool := .reset
  buffer := []
  words := []
  verifyQueue := []
  engine := none
  offered := []
  drainMap := []
  tagCounter := 0
  arbiter := 511
  signal := .offline
  ports := .reset
  disturbances := []
  freeCount := 0
  pending := []

end Sys2Proof.Machine
end

