-- ==== Sys2Proof/Machine/Cells.lean ====
section
/-! DEFINITION. Sparse data by key in one canonical form: a list of pairs, keys strictly rising, no pair equal to what an
unlisted key reads as. The chunk buffer, its ECC conditions, the slots and the Stream Table are held so. -/

namespace Sys2Proof.Machine

/-- What a key reads as; `d` for an unlisted key. -/
def cellGet {κ α : Type} [LinearOrder κ] (d : α) : List (κ × α) → κ → α
  | [], _ => d
  | c :: rest, k => if k = c.1 then c.2 else cellGet d rest k

/-- Write a key, keeping the canonical form: writing `d` removes the pair. -/
def cellPut {κ α : Type} [LinearOrder κ] [DecidableEq α] (d : α) : List (κ × α) → κ → α → List (κ × α)
  | [], k, v => if v = d then [] else [(k, v)]
  | c :: rest, k, v =>
    if k < c.1 then (if v = d then c :: rest else (k, v) :: c :: rest)
    else if k = c.1 then (if v = d then rest else (k, v) :: rest)
    else c :: cellPut d rest k v

/-- The canonical form: keys strictly rising, no pair equal to what an unlisted key reads as. -/
abbrev CellsWF {κ α : Type} [LinearOrder κ] [DecidableEq α] (d : α) (m : List (κ × α)) : Prop :=
  m.Pairwise (fun a b => a.1 < b.1) ∧ ∀ c ∈ m, c.2 ≠ d

/-- What a byte of the chunk buffer that nothing has written reads as (R57, R93 leave it open).
DESIGN CHOICE, log 8, unsafe. -/
def unwrittenByte : Byte := 0

/-- Bytes of the chunk buffer (R79). -/
def bufferBytes : Nat := 134217728

/-- The chunk buffer's canonical form, every address in the buffer. -/
abbrev Memory.wf (m : List Host.Cell) : Prop :=
  CellsWF unwrittenByte m ∧ ∀ c ∈ m, c.1 < bufferBytes

end Sys2Proof.Machine
end

