-- ==== Sys2Proof/Machine/Operands.lean ====
section
/-! DEFINITION. Reading the records partners send (11_record_layouts.md, R177): least significant byte first; bytes the
record does not carry read as 0 (log 18). -/

namespace Sys2Proof.Machine

/-- A number stored least significant byte first (00_scope.md, Byte order). -/
def leNat : List Byte → Nat
  | [] => 0
  | b :: rest => b.toNat + 256 * leNat rest

/-- The field of `n` bytes at offset `off` of a record. -/
def fieldAt (record : List Byte) (off n : Nat) : Nat := leNat ((record.drop off).take n)

/-- A segment record's header fields and payload (11.2). -/
structure Segment where
  tag : Nat
  offset : Nat
  length : Nat
  last : Bool
  payload : List Byte
  deriving DecidableEq, Repr

/-- Bytes of a segment record's header (11.2). -/
def segmentHeader : Nat := 16

/-- A segment record as the device reads it; none when its total size is below the header's 16 bytes (R177). -/
def parseSegment (record : List Byte) : Option Segment :=
  if record.length < segmentHeader then none
  else some {
    tag := fieldAt record 0 4
    offset := fieldAt record 4 6
    length := fieldAt record 10 2
    last := decide (fieldAt record 12 1 % 2 = 1)
    payload := record.drop segmentHeader }

/-- A READ request (11.3). -/
structure ReadRequest where
  drainTag : Word
  start : Nat
  length : Nat
  deriving DecidableEq, Repr

/-- The fields of a READ record (11.3). -/
def parseRead (record : List Byte) : ReadRequest :=
  ⟨BitVec.ofNat 32 (fieldAt record 0 4), fieldAt record 4 4, fieldAt record 8 4⟩

/-- The completion statuses (R125). -/
inductive CompletionStatus where
  | stored | writeFailed | targetFull | poisoned
  deriving DecidableEq, Repr

/-- A completion (11.3). -/
structure Completion where
  drainTag : Word
  status : CompletionStatus
  check : Word
  deriving DecidableEq, Repr

/-- The status a status byte names; a byte outside the four is WRITE_FAILED (R125, R177). -/
def completionStatus (code : Nat) : CompletionStatus :=
  if code = 1 then .stored else if code = 3 then .targetFull else if code = 4 then .poisoned else .writeFailed

/-- The fields of a COMPLETE record (11.3). -/
def parseCompletion (record : List Byte) : Completion :=
  ⟨BitVec.ofNat 32 (fieldAt record 0 4), completionStatus (fieldAt record 4 1), BitVec.ofNat 32 (fieldAt record 8 4)⟩

/-- The command code of a command record (11.4). -/
def commandCode (record : List Byte) : Nat := fieldAt record 0 1

/-- The command identifier of a command record (11.4). -/
def commandId (record : List Byte) : Nat := fieldAt record 2 2

/-- The stream tag of a command record (11.4). -/
def commandTag (record : List Byte) : Nat := fieldAt record 4 4

/-- The parameters of OPEN (11.4). -/
structure OpenParams where
  tag : Nat
  w : Nat
  b : Nat
  t : Nat
  pattern : Bool
  target : Nat
  base : Nat
  cap : Nat
  reserve : Nat
  start : Nat
  deriving DecidableEq, Repr

/-- The parameter bytes of OPEN (11.4). -/
def parseOpen (record : List Byte) : OpenParams where
  tag := fieldAt record 4 4
  w := fieldAt record 8 1
  b := fieldAt record 9 1
  t := fieldAt record 10 1
  pattern := decide (fieldAt record 11 1 % 2 = 1)
  target := fieldAt record 12 4
  base := fieldAt record 16 6
  cap := fieldAt record 24 8
  reserve := fieldAt record 32 8
  start := fieldAt record 40 8

/-- The value of a CONFIGURE setting, none when its presence bit is clear (11.4, R171). -/
def configureField (record : List Byte) (bit off : Nat) : Option Nat :=
  if (fieldAt record 4 2).testBit bit then some (fieldAt record off 2) else none

end Sys2Proof.Machine
end

