-- ==== Sys2Proof/Machine/Format.lean ====
section
/-! DEFINITION. The backup transfer format (01_the_backup_transfer_format.md): chunks, lengths, the check value, the
pattern; the ring of chunk records (R52) and the range lists (R57, R70). -/

namespace Sys2Proof.Machine

/-! ## Chunks (R2 to R4) -/

/-- Index of the final chunk when F is known and above 0 (R3). -/
def finalIndex (f : Nat) : Nat := (f - 1) / Config.chunkSize

/-- len_k (R4): the final chunk's length for the final chunk, 65,536 for every other. -/
def chunkLength (final : Option Nat) (k : Nat) : Nat :=
  match final with
  | none => Config.chunkSize
  | some f => if 0 < f ∧ k = finalIndex f then f - Config.chunkSize * k else Config.chunkSize

theorem chunkLength_le (final : Option Nat) (k : Nat) : chunkLength final k ≤ 65536 := by
  unfold chunkLength finalIndex Config.chunkSize
  split
  · exact Nat.le_refl _
  · split <;> omega

/-- len_k with its bound, as the check engine holds it (R97). -/
def chunkLen (final : Option Nat) (k : Nat) : ChunkLen := ⟨chunkLength final k, Nat.lt_succ_of_le (chunkLength_le final k)⟩

/-- The head, committed offset div 65,536 (R17). -/
def Context.head (c : Context) : Nat := c.committed / Config.chunkSize

/-- The window position of chunk k (R52). -/
def Context.posOf (c : Context) (k : Nat) : Nat := k % c.w

/-- The capacity end (R16). -/
def Context.capacityEnd (c : Context) : Nat := Config.chunkSize * c.cap

/-- The early-warning point ew (R16, R55). -/
def Context.earlyWarningPoint (c : Context) : Nat := Config.chunkSize * (c.cap - c.reserve)

/-- The window end e (R53). -/
def Context.windowEnd (c : Context) : Nat :=
  let e := min (c.committed + Config.chunkSize * c.w) c.capacityEnd
  match c.final with
  | none => e
  | some f => min e f

/-- The chunk records in chunk order, each with its window position: chunks head to head + W - 1 (R52). -/
def Context.ring (c : Context) : List (Nat × ChunkRecord) :=
  (List.range c.w).filterMap fun j =>
    let p := c.posOf (c.head + j)
    (c.window[p]?).map fun r => (p, r)

/-- The head chunk's record holds no slot (R81). -/
def Context.headSlotless (c : Context) : Bool :=
  match c.window[c.posOf c.head]? with
  | some r => r.slot.isNone
  | none => true

/-- Receiving: OPEN or HOLD. -/
def StreamState.receiving (st : StreamState) : Bool := decide (st = .opened ∨ st = .hold)

/-- A chunk record just written for chunk k (R18). -/
def ChunkRecord.fresh (k : Nat) : ChunkRecord := ⟨k, none, .empty, [], 0, 0, none⟩

/-! ## Range lists (R57, R70) -/

/-- The union of a range list and a piece, ranges that overlap or touch joined into one (R70). -/
def insertRange (piece : Range) : List Range → List Range
  | [] => [piece]
  | r :: rest =>
    if piece.stop < r.start then piece :: r :: rest
    else if r.stop < piece.start then r :: insertRange piece rest
    else insertRange ⟨min piece.start r.start, max piece.stop r.stop⟩ rest

/-- The bytes of a piece that a range list holds (R70). -/
def heldOf (piece : Range) (ranges : List Range) : Nat :=
  (ranges.map fun r => min piece.stop r.stop - max piece.start r.start).sum

/-- Whether a chunk-local offset is held. -/
def holds (ranges : List Range) (y : Nat) : Bool := ranges.any fun r => decide (r.start ≤ y ∧ y < r.stop)

/-- The held bytes of a record (R57). -/
def heldBytes (ranges : List Range) : Nat := (ranges.map fun r => r.stop - r.start).sum

/-- Complete: the list is the single range [0, len) (R57). -/
def isComplete (ranges : List Range) (len : Nat) : Bool := decide (ranges = [⟨0, len⟩])

/-- The highest held end H (R54). -/
def Context.highestHeld (c : Context) : Nat :=
  (c.window.filterMap fun r => r.ranges.getLast?.map fun g => Config.chunkSize * r.index + g.stop).foldl max c.committed

/-! ## The check value (R5, R6, R7) -/

/-- The constant 82F63B78 hex (R6). -/
def checkConstant : Word := 0x82F63B78

/-- One bit enters the register (R6). -/
def checkBit (reg : Word) (bit : Bool) : Word :=
  if bit = reg.getLsbD 0 then reg >>> 1 else (reg >>> 1) ^^^ checkConstant

/-- A byte enters as eight bits, least significant first (R6). -/
def checkByte (reg : Word) (byte : Byte) : Word :=
  (List.range 8).foldl (fun r j => checkBit r (byte.getLsbD j)) reg

/-- The check of R6 over bytes as they enter. -/
def checkOf (bytes : List Byte) : Word := ~~~ (bytes.foldl checkByte 0xFFFFFFFF)

/-- The check value of a chunk: its last four bytes taken as zero (R6). -/
def chunkCheck (bytes : List Byte) : Word := checkOf (bytes.take (bytes.length - 4) ++ List.replicate 4 0)

/-- The chunk number in a chunk's trailer (R5). -/
def trailerNumber (bytes : List Byte) : Nat := fieldAt bytes (bytes.length - 8) 4

/-- The check value in a chunk's trailer (R5). -/
def trailerCheck (bytes : List Byte) : Word := BitVec.ofNat 32 (fieldAt bytes (bytes.length - 4) 4)

/-- The nine bytes of the ASCII characters 1 to 9 (R7). -/
def knownAnswerInput : List Byte := [0x31, 0x32, 0x33, 0x34, 0x35, 0x36, 0x37, 0x38, 0x39]

/-- The known answer of the check function (R7). -/
def knownAnswerValue : Word := 0xE3069283

/-! ## The pattern (R10) -/

/-- P(x) = (x mod 251) XOR ((x div 65,536) mod 256). -/
def patternByte (x : Nat) : Byte := BitVec.ofNat 8 ((x % 251) ^^^ ((x / Config.chunkSize) % 256))

end Sys2Proof.Machine
end

