-- ==== Sys2Proof/Machine/Ops.lean ====
section
/-! DEFINITION. Named operations over the state: entries and contexts of the Stream Table, lanes, counters. Every read
and write of these goes through them. -/

namespace Sys2Proof.Machine

/-! ## Stream Table (R13, R33) -/

/-- The entry at a stream index. -/
def State.entry (s : State) (i : StreamIndex) : Entry := cellGet Entry.free s.table i

/-- Write an entry as it is given. -/
def State.setEntry (s : State) (i : StreamIndex) (e : Entry) : State :=
  { s with table := cellPut Entry.free s.table i e }

/-- The context of a live entry. -/
def State.ctx? (s : State) (i : StreamIndex) : Option Context := (s.entry i).ctx

/-- Write a context; the write recomputes the entry's parity (R33). -/
def State.setCtx (s : State) (i : StreamIndex) (c : Context) : State := s.setEntry i ⟨true, some c⟩

/-- Change the context of a live entry; a FREE entry is left as it is. -/
def State.modifyCtx (s : State) (i : StreamIndex) (f : Context → Context) : State :=
  match s.ctx? i with
  | some c => s.setCtx i (f c)
  | none => s

/-- The entry becomes FREE with good parity. -/
def State.freeEntry (s : State) (i : StreamIndex) : State := s.setEntry i Entry.free

/-- Every stream index, ascending. -/
def streamIndices : List StreamIndex := List.finRange 512

/-- Stream indices in turn order: starting after a position and wrapping from 511 to 0, the position itself last
(R117, R143). -/
def turnOrder (pos : StreamIndex) : List StreamIndex :=
  (List.range 512).map fun j => Fin.ofNat 512 (pos.val + 1 + j)

/-- The row of a tag's two entries (R13). -/
def wayOf (tag way : Nat) : StreamIndex := Fin.ofNat 512 (2 * (tag % 256) + way)

/-- Change the chunk record at a window position. -/
def Context.modifyChunk (c : Context) (pos : Nat) (f : ChunkRecord → ChunkRecord) : Context :=
  { c with window := c.window.modify pos f }

/-- Change a stream's own counters (R22). -/
def Context.count (c : Context) (f : StreamCounters → StreamCounters) : Context := { c with counts := f c.counts }

/-- Change a stream's pending notice set (R21). -/
def Context.notify (c : Context) (f : NoticeSet → NoticeSet) : Context := { c with notices := f c.notices }

/-- A saturating 32-bit addition (R22). -/
def satAdd (a n : Nat) : Nat := min (a + n) Config.countMax

/-- A saturating 64-bit addition (R168). -/
def satAdd64 (a n : Nat) : Nat := min (a + n) Config.count64Max

/-! ## The pending notice set (R21) -/

/-- The empty set. -/
def NoticeSet.none : NoticeSet := ⟨false, [], false, false, false⟩

/-- Add a window position to a strictly rising list; one already there leaves it unchanged. -/
def insertPos (p : Nat) : List Nat → List Nat
  | [] => [p]
  | q :: rest => if p < q then p :: q :: rest else if p = q then q :: rest else q :: insertPos p rest

def NoticeSet.addResync (n : NoticeSet) : NoticeSet := { n with resync := true }
def NoticeSet.addCommit (n : NoticeSet) : NoticeSet := { n with commit := true }
def NoticeSet.addEnd (n : NoticeSet) : NoticeSet := { n with ended := true }
def NoticeSet.addStop (n : NoticeSet) : NoticeSet := { n with stop := true }
def NoticeSet.addGap (n : NoticeSet) (p : Nat) : NoticeSet := { n with gaps := insertPos p n.gaps }
def NoticeSet.removeGap (n : NoticeSet) (p : Nat) : NoticeSet := { n with gaps := n.gaps.filter (· ≠ p) }

/-- RESYNC and every GAP item removed (R62, R134, R150). -/
def NoticeSet.dropRequests (n : NoticeSet) : NoticeSet := { n with resync := false, gaps := [] }

/-- At least one item is pending. -/
def NoticeSet.nonempty (n : NoticeSet) : Bool := n.resync || !n.gaps.isEmpty || n.commit || n.ended || n.stop

/-! ## Lanes -/

/-- The four lanes, ascending. -/
def laneIds : List LaneId := [0, 1, 2, 3]

def State.lane (s : State) (l : LaneId) : Lane := s.lanes[l]

def State.setLane (s : State) (l : LaneId) (v : Lane) : State := { s with lanes := s.lanes.set l v }

def State.modifyLane (s : State) (l : LaneId) (f : Lane → Lane) : State := s.setLane l (f (s.lane l))

/-- The lowest-numbered ACTIVE lane (R21, R146). -/
def State.lowestActive (s : State) : Option LaneId := laneIds.find? fun l => decide ((s.lane l).state = .active)

/-! ## Device counters (R168) -/

/-- A drop reason's place in the table of R168. -/
def DropReason.place : DropReason → Fin 16
  | .laneDown => 0 | .noCredit => 1 | .laneLost => 2 | .badLength => 3 | .emptyNotLast => 4 | .offsetRange => 5
  | .contextError => 6 | .unknownTag => 7 | .streamStopped => 8 | .endConflict => 9 | .oldData => 10
  | .beyondCapacity => 11 | .beyondEnd => 12 | .beyondWindow => 13 | .noSlot => 14 | .fragmentLimit => 15

/-- A counter's place in the order of the table of R168. -/
def Counter.place : Counter → Fin 32
  | .received l => ⟨l.val, by omega⟩
  | .drop r => ⟨4 + r.place.val, by omega⟩
  | .chunksVerified => 20 | .chunksFailed => 21 | .patternErrors => 22
  | .chunksCommitted => 23 | .rewrites => 24 | .strayCompletions => 25 | .timeouts => 26
  | .correctedErrors => 27 | .uncorrectableErrors => 28
  | .retiredSlots => 29 | .tableParityErrors => 30 | .eventsLost => 31

/-- An addition to a counter: past the maximum it stops there and sets its mark (R168). -/
def Count.add (c : Count) (n : Nat) : Count :=
  if Config.countMax < c.value + n then ⟨Config.countMax, true⟩ else ⟨c.value + n, c.mark⟩

/-- Add to a live device counter (R168). -/
def State.count (s : State) (k : Counter) (n : Nat) : State :=
  { s with live := s.live.set k.place ((s.live[k.place]).add n) }

/-- Count one segment dropped under a reason (R51, R76). -/
def State.countDrop (s : State) (r : DropReason) : State := s.count (.drop r) 1

/-! ## Writer state (R120) -/

/-- READY while the device is READY and the latest signal is ready, OFFLINE otherwise. -/
def State.writerState (s : State) : WriterState :=
  if s.device = .ready ∧ s.signal = .ready then .ready else .offline

end Sys2Proof.Machine
end

