-- ==== Sys2Proof/Machine/Flags.lean ====
section
/-! DEFINITION. The event queue (R164), the error summary (R166) and the interrupt line (R163). -/

namespace Sys2Proof.Machine

/-- The code of an event's kind (11_record_layouts.md, 11.6). -/
def Event.kindCode : Event → Nat
  | .streamFinished .. => 1 | .streamAborted .. => 2 | .streamReleased .. => 3 | .streamHold .. => 4
  | .streamResumed .. => 5 | .earlyWarning .. => 6 | .capacityReached .. => 7 | .streamIdle .. => 8
  | .pool .ok .. => 10 | .pool .low .. => 9 | .laneChanged .. => 11 | .writerChanged .. => 12
  | .deviceError .. => 13 | .interval .. => 14

/-- The enable of an event's kind: bit n - 1 for kind code n (11.4). -/
def Event.enabled (e : Event) (enables : BitVec 14) : Bool := enables.getLsbD (e.kindCode - 1)

/-- Set the sticky flag of a kind (R166). -/
def ErrorSummary.flag (e : ErrorSummary) : ErrorKind → ErrorSummary
  | .tableParity => { e with tableParity := true }
  | .bufferUncorrected => { e with bufferUncorrected := true }
  | .commandOverrun => { e with commandOverrun := true }
  | .eventsLost => { e with eventsLost := true }

/-- A device-level error: its flag is set and an empty first-error record is filled (R166). -/
def State.noteError (s : State) (kind : ErrorKind) (stream : Option StreamIndex) (slot : Option Slot)
    (chunk : Option Nat) : State :=
  { s with errors := { s.errors.flag kind with first := s.errors.first.or (some ⟨kind, stream, slot, chunk⟩) } }

/-- A block raises an event (R164): queued with the device time when its kind is enabled and there is room, counted
and flagged as lost when there is none, discarded when its kind is disabled. -/
def State.raise (s : State) (e : Event) : State :=
  if e.enabled s.settings.enables then
    if s.events.length < Config.eventDepth then { s with events := s.events ++ [⟨s.time, e⟩] }
    else (s.count .eventsLost 1).noteError .eventsLost none none none
  else s

/-- The interrupt line: asserted while the response queue or the event queue holds a record (R163). -/
def State.interruptLine (s : State) : Bool := !s.responses.isEmpty || !s.events.isEmpty

end Sys2Proof.Machine
end

