-- ==== Sys2Proof/Machine/SlotPool.lean ====
section
/-! DEFINITION. The Slot Pool (05_the_slot_pool_and_chunk_buffer.md): grants, freeings, retirement, the watermark test. -/

namespace Sys2Proof.Machine

/-- The condition of a slot (R79). -/
def Pool.use (p : Pool) (slot : Slot) : SlotUse := cellGet .free p.uses slot

/-- The error mark of a slot (R89). -/
def Pool.mark (p : Pool) (slot : Slot) : Bool := cellGet false p.marks slot

/-- The number of free slots (R79). -/
def Pool.free (p : Pool) : Nat := p.freeList.length

/-- The retired count (R92). -/
def Pool.retiredCount (p : Pool) : Nat := (p.uses.filter fun c => decide (c.2 = .retired)).length

/-- The spare slots, free less R (R82). -/
def Pool.spare (p : Pool) : Nat := p.free - p.reserve

/-- The slot recorded as assigned to a stream index and window position (R79, R85). -/
def Pool.slotOf (p : Pool) (i : StreamIndex) (pos : Nat) : Option Slot :=
  (p.uses.find? fun c => decide (c.2 = .assigned i pos)).map (·.1)

/-- The slots recorded as assigned to a stream index, with their window positions (R156). -/
def Pool.slotsOf (p : Pool) (i : StreamIndex) : List (Slot × Nat) :=
  p.uses.filterMap fun c =>
    match c.2 with
    | .assigned j pos => if j = i then some (c.1, pos) else none
    | _ => none

/-- Set a slot's error mark (R89). -/
def Pool.setMark (p : Pool) (slot : Slot) : Pool := { p with marks := cellPut false p.marks slot true }

/-- Assign the slot at the head of the free list (R80, R83); none when the list is empty. -/
def Pool.assign (p : Pool) (i : StreamIndex) (pos : Nat) : Option (Slot × Pool) :=
  match p.freeList with
  | [] => none
  | slot :: rest => some (slot, { p with freeList := rest, uses := cellPut .free p.uses slot (.assigned i pos) })

/-- A slot request (R83): a head request is granted whenever a slot is free and lowers R, a non-head request while
spare is 1 or more. -/
def Pool.request (p : Pool) (i : StreamIndex) (pos : Nat) (head : Bool) : Option (Slot × Pool) :=
  if head then (p.assign i pos).map fun g => (g.1, { g.2 with reserve := g.2.reserve - 1 })
  else if 1 ≤ p.spare then p.assign i pos else none

/-- An ASSIGNED slot joins the tail of the free list, its error mark cleared (R85). -/
def Pool.release (p : Pool) (slot : Slot) : Pool :=
  { p with freeList := p.freeList ++ [slot], uses := cellPut .free p.uses slot .free,
           marks := cellPut false p.marks slot false }

/-- An ASSIGNED slot joins the retired set with its error mark (R91). -/
def Pool.retire (p : Pool) (slot : Slot) : Pool := { p with uses := cellPut .free p.uses slot .retired }

/-- The two conditions of retirement (R91), `rise` being what the retirement itself adds to R. -/
def Pool.mayRetire (p : Pool) (rise : Nat) : Bool :=
  decide (p.retiredCount < Config.retiredLimit ∧ p.reserve + rise ≤ p.free)

/-- Add to the head reserve (R81). -/
def State.raiseReserve (s : State) (n : Nat) : State := { s with pool := { s.pool with reserve := s.pool.reserve + n } }

/-- Take 1 from the head reserve (R81). -/
def State.lowerReserve (s : State) : State := { s with pool := { s.pool with reserve := s.pool.reserve - 1 } }

/-- Retire a slot and report it to the retired slot counter (R91, R92). -/
def State.retireSlot (s : State) (slot : Slot) : State :=
  ({ s with pool := s.pool.retire slot }).count .retiredSlots 1

/-- A slot is given up: freed, or retired in place of freeing when it is marked (or `force`d, for POISONED) and
retirement handling allows it (R85, R91). -/
def State.giveUp (s : State) (slot : Slot) (force : Bool) : State :=
  if (s.pool.mark slot || force) && s.pool.mayRetire 0 then s.retireSlot slot
  else { s with pool := s.pool.release slot }

/-- The slot recorded for a stream index and window position is given up; when none is recorded, nothing (R85). -/
def State.giveUpAt (s : State) (i : StreamIndex) (pos : Nat) (force : Bool) : State :=
  match s.pool.slotOf i pos with
  | some slot => s.giveUp slot force
  | none => s

/-- A stream's head chunk is the one at this window position, and the stream is in OPEN or HOLD (R81). -/
def State.isReceivingHead (s : State) (i : StreamIndex) (pos : Nat) : Bool :=
  match s.ctx? i with
  | some c => c.state.receiving && decide (c.posOf c.head = pos)
  | none => false

/-- Retirement handling for a chunk that a failure has emptied (R91, R105, R129): the slot is retired and the record
becomes slotless, R rising by 1 for the head chunk of a stream in OPEN or HOLD; or the chunk keeps it. -/
def State.retireFromChunk (s : State) (i : StreamIndex) (pos : Nat) : State :=
  match s.pool.slotOf i pos with
  | none => s
  | some slot =>
    let rise := if s.isReceivingHead i pos then 1 else 0
    if s.pool.mayRetire rise then
      ((s.retireSlot slot).modifyCtx i fun c => c.modifyChunk pos fun r => { r with slot := none }).raiseReserve rise
    else s

/-- Retirement handling for the chunk at a window position, when an event asks for it. -/
def State.retireGiven (s : State) (i : StreamIndex) : Option Nat → State
  | some pos => s.retireFromChunk i pos
  | none => s

/-- The pool state that a test against spare leaves (R86). -/
def Pool.tested (p : Pool) (low high : Nat) : PoolState :=
  match p.state with
  | .ok => if p.spare < low then .low else .ok
  | .low => if high ≤ p.spare then .ok else .low

/-- The device notice flag of every ACTIVE lane takes the pool state's name (R86, R141). -/
def flagActive (st : PoolState) (v : Lane) : Lane := if v.state = .active then { v with flag := some st } else v

/-- The watermark test (R86), made while the device is READY: a change of pool state raises its event with the figures
as they stand and flags a notice on every ACTIVE lane. -/
def State.poolTest (s : State) : State :=
  let st := s.pool.tested s.settings.low s.settings.high
  if s.device = .ready ∧ st ≠ s.pool.state then
    ({ s with pool := { s.pool with state := st }, lanes := s.lanes.map (flagActive st) }).raise
      (.pool st s.pool.free s.pool.reserve s.pool.spare s.pool.retiredCount)
  else s

end Sys2Proof.Machine
end

