-- ==== Sys2Proof/Machine/Buffer.lean ====
section
/-! DEFINITION. The chunk buffer and its ECC (R79, R88 to R90). -/

namespace Sys2Proof.Machine

/-- The buffer byte of a slot's byte (R79). -/
def bufferAddress (slot : Slot) (y : Nat) : Nat := Config.chunkSize * slot.val + y

/-- The number of the ECC word that holds a slot's byte (R88). -/
def bufferWord (slot : Slot) (w : Nat) : Nat := Config.chunkSize / Config.wordBytes * slot.val + w

/-- One byte of the chunk buffer. -/
def State.byteAt (s : State) (a : Nat) : Byte := cellGet unwrittenByte s.buffer a

/-- The ECC condition of a word of a slot. -/
def State.condition (s : State) (slot : Slot) (w : Nat) : WordCondition := cellGet .sound s.words (bufferWord slot w)

/-- Write one byte of a slot; an offset outside the slot is no byte of it and writes nothing. -/
def State.writeByte (s : State) (slot : Slot) (y : Nat) (b : Byte) : State :=
  if y < Config.chunkSize then { s with buffer := cellPut unwrittenByte s.buffer (bufferAddress slot y) b } else s

/-- Write a word's ECC condition. -/
def State.setCondition (s : State) (slot : Slot) (w : Nat) (c : WordCondition) : State :=
  { s with words := cellPut .sound s.words (bufferWord slot w) c }

/-- The bytes of a slot at offsets start to start + n - 1. -/
def State.slotBytes (s : State) (slot : Slot) (start n : Nat) : List Byte :=
  (List.range n).map fun j => s.byteAt (bufferAddress slot (start + j))

/-- The words of a slot that hold a byte at offsets start to start + n - 1 (R8, R124). -/
def wordsOf (start n : Nat) : List Nat :=
  if n = 0 then [] else (List.range ((start + n - 1) / Config.wordBytes - start / Config.wordBytes + 1)).map
    fun j => start / Config.wordBytes + j

/-- How many of some words of a slot are in a condition. -/
def State.countWords (s : State) (slot : Slot) (ws : List Nat) (c : WordCondition) : Nat :=
  (ws.filter fun w => decide (s.condition slot w = c)).length

/-- An operation that read some words of a slot reports what their ECC showed (R89, R90): corrected words are counted;
uncorrectable words are counted, mark the slot, set BUFFER_UNCORRECTED, fill the first-error record, and raise
DEVICE_ERROR once for the operation. -/
def State.reportRead (s : State) (slot : Slot) (ws : List Nat) (stream : StreamIndex) (chunk : Nat) : State :=
  let s1 := s.count .correctedErrors (s.countWords slot ws .correctable)
  let bad := s.countWords slot ws .uncorrectable
  if bad = 0 then s1
  else
    ((({ s1 with pool := s1.pool.setMark slot }).count .uncorrectableErrors bad).noteError .bufferUncorrected
      (some stream) (some slot) (some chunk)).raise
      (.deviceError .bufferUncorrected (some stream) none (some slot) (some chunk))

/-- The new offsets of a piece: those its range list does not hold (R70). -/
def newOffsets (piece : Range) (held : List Range) : List Nat :=
  ((List.range (piece.stop - piece.start)).map (piece.start + ·)).filter fun y => !holds held y

/-- The condition a word is left in by a write (R88): sound when all its bytes are new or when its read found no
uncorrectable error; poisoned when that read found one. -/
def writtenCondition (allNew : Bool) (c : WordCondition) : WordCondition :=
  if allNew then .sound
  else match c with
    | .uncorrectable => .uncorrectable
    | _ => .sound

/-- All 8 bytes of a word are among the new offsets. -/
def wordAllNew (fresh : List Nat) (w : Nat) : Bool :=
  (List.range Config.wordBytes).all fun j => fresh.contains (Config.wordBytes * w + j)

/-- Write the new bytes of a piece into its slot (R70, R88); `bytes` begins at the piece's first byte. The whole write is
one operation in the sense of R90, whose partial words raise one DEVICE_ERROR together (DESIGN CHOICE, log 35). -/
def State.writePiece (s : State) (slot : Slot) (piece : Range) (held : List Range) (bytes : List Byte)
    (stream : StreamIndex) (chunk : Nat) : State :=
  let fresh := newOffsets piece held
  let touched := (wordsOf piece.start (piece.stop - piece.start)).filter fun w =>
    fresh.any fun y => decide (y / Config.wordBytes = w)
  let partials := touched.filter fun w => !wordAllNew fresh w
  let s1 := s.reportRead slot partials stream chunk
  let s2 := touched.foldl (fun t w => t.setCondition slot w (writtenCondition (wordAllNew fresh w) (t.condition slot w))) s1
  fresh.foldl (fun t y => t.writeByte slot y (bytes.getD (y - piece.start) 0)) s2

end Sys2Proof.Machine
end

