-- ==== Sys2Proof/Machine/Streams.lean ====
section
/-! DEFINITION. What happens to a stream as a whole, shared by every row that touches one: parity errors (R33 to R35),
withdrawal (R119), the drain flags (R114), abort (R150), release (R154, R156), the end of salvage (R153), ordered commit
(R133, R134). -/

namespace Sys2Proof.Machine

/-! ## Chunk records -/

/-- A chunk emptied: EMPTY, its range list cleared, its slot kept (R96, R104). -/
def ChunkRecord.emptied (r : ChunkRecord) : ChunkRecord := { r with state := .empty, ranges := [] }

/-- A chunk that gives its slot up while its stream is RELEASING (R110, R130). -/
def ChunkRecord.givenUp (r : ChunkRecord) : ChunkRecord := { r.emptied with slot := none }

/-- A chunk whose offer is withdrawn: back to VERIFIED, its offers count lowered (R119). -/
def ChunkRecord.withdrawn (r : ChunkRecord) : ChunkRecord := { r with state := .verified, offers := r.offers - 1 }

/-- A chunk of a RELEASING stream whose offer is withdrawn from the drain map: its offers count is lowered as at every
withdrawal, but it gives its slot up in place of the return to VERIFIED (R119). -/
def ChunkRecord.withdrawnGivenUp (r : ChunkRecord) : ChunkRecord := r.withdrawn.givenUp

/-- Change one chunk of a stream. -/
def State.modifyChunk (s : State) (i : StreamIndex) (pos : Nat) (f : ChunkRecord → ChunkRecord) : State :=
  s.modifyCtx i fun c => c.modifyChunk pos f

/-! ## Drain readiness (R113 to R115) -/

/-- A chunk state of the drain frontier (R113). -/
def ChunkState.notHandedOver (st : ChunkState) : Bool :=
  decide (st = .empty ∨ st = .filling ∨ st = .queued ∨ st = .verifying ∨ st = .verified)

/-- The window from the drain frontier upward (R113). -/
def Context.fromFrontier (c : Context) : List (Nat × ChunkRecord) := c.ring.dropWhile fun x => !x.2.state.notHandedOver

/-- The drain frontier with its window position (R113). -/
def Context.frontier (c : Context) : Option (Nat × ChunkRecord) := c.fromFrontier.head?

/-- The ready run (R113). -/
def Context.readyRun (c : Context) : List (Nat × ChunkRecord) :=
  c.fromFrontier.takeWhile fun x => decide (x.2.state = .verified ∧ x.2.offers < 4)

/-- The ready run includes the final chunk (R113). -/
def Context.runHasFinal (c : Context) : Bool :=
  match c.final with
  | some f => decide (0 < f) && c.readyRun.any fun x => decide (x.2.index = finalIndex f)
  | none => false

/-- The frontier chunk is VERIFIED (R114). -/
def Context.frontierVerified (c : Context) : Bool := c.frontier.any fun x => decide (x.2.state = .verified)

/-- A chunk of the stream is OFFERED or TAKEN (R114). -/
def Context.inWritersHands (c : Context) : Bool :=
  c.window.any fun r => decide (r.state = .offered ∨ r.state = .taken)

/-- The tests that clear streaming and flush pending (R114). -/
def Context.testDrainFlags (c : Context) : Context :=
  { c with streaming := c.streaming && (c.frontierVerified || c.inWritersHands)
           flushPending := c.flushPending && c.frontierVerified }

/-- Offerable (R115). -/
def Context.offerable (c : Context) : Bool :=
  match c.state with
  | .opened | .hold =>
    decide (c.b ≤ c.readyRun.length ∧ 1 ≤ c.readyRun.length) || c.runHasFinal ||
      ((c.flushPending || c.streaming) && decide (1 ≤ c.readyRun.length))
  | .salvaging => decide (1 ≤ c.readyRun.length)
  | _ => false

/-! ## Withdrawal and the verify queue -/

/-- Every offer of a stream in the offered list is withdrawn (R119). -/
def State.withdrawOffers (s : State) (i : StreamIndex) : State :=
  let mine := (s.offered.filter fun o => decide (o.stream = i)).map (·.pos)
  (mine.foldl (fun t p => t.modifyChunk i p ChunkRecord.withdrawn) s) |> fun t =>
    { t with offered := t.offered.filter fun o => !decide (o.stream = i) }

/-- Every verify queue entry of a stream is removed and its chunk emptied (R96). -/
def State.clearQueue (s : State) (i : StreamIndex) : State :=
  let mine := (s.verifyQueue.filter fun q => decide (q.stream = i)).map (·.pos)
  (mine.foldl (fun t p => t.modifyChunk i p ChunkRecord.emptied) s) |> fun t =>
    { t with verifyQueue := t.verifyQueue.filter fun q => !decide (q.stream = i) }

/-- Every chunk in FILLING or QUEUED is emptied (R107, R150). -/
def Context.emptyUnverified (c : Context) : Context :=
  { c with window := c.window.map fun r => if r.state = .filling ∨ r.state = .queued then r.emptied else r }

/-! ## Release (R154, R156) -/

/-- A chunk of the stream counts as VERIFYING or TAKEN: the engine or a drain map record names the stream (R156). -/
def State.inFlight (s : State) (i : StreamIndex) : Bool :=
  (s.engine.any fun o => decide (o.stream = i)) || s.drainMap.any fun r => decide (r.stream = i)

/-- The order in which an entry's slots are given back (R80): ascending chunk index of the records, or ascending
window position for a detached entry. -/
def Context.slotKey (c : Context) (pos : Nat) : Nat :=
  if c.cause = some .contextError then pos
  else match c.window[pos]? with
    | some r => r.index
    | none => pos

/-- The slots recorded for a stream, with their window positions, in the order of R80. -/
def State.slotsInOrder (s : State) (i : StreamIndex) (c : Context) : List (Slot × Nat) :=
  (s.pool.slotsOf i).insertionSort fun a b => c.slotKey a.2 ≤ c.slotKey b.2

/-- Give several slots up in order; retirement handling is always applied to the one at the `forced` window position. -/
def State.giveUpAll (s : State) (forced : Option Nat) : List (Slot × Nat) → State
  | [] => s
  | x :: rest => (s.giveUp x.1 (decide (forced = some x.2))).giveUpAll forced rest

/-- The entry of a RELEASING stream returns to FREE (R156): every slot of the stream is given up, in the one order of
R80 whichever chunk ended last; `forced` is that chunk's position when POISONED ended it (R130). -/
def State.toFree (s : State) (i : StreamIndex) (c : Context) (forced : Option Nat) : State :=
  ((s.giveUpAll forced (s.slotsInOrder i c)).raise (.streamReleased i c.tag c.cause c.committed)).freeEntry i

/-- The test of R156: a RELEASING entry with nothing VERIFYING or TAKEN returns to FREE. -/
def State.testFree (s : State) (i : StreamIndex) : State :=
  match s.ctx? i with
  | some c => if c.state = .releasing ∧ s.inFlight i = false then s.toFree i c none else s
  | none => s

/-- A verification or a drain map record of a chunk of a RELEASING stream has ended (R110, R130): the chunk gives its slot
up, and with it, when nothing of the stream is left in flight, every other slot and the entry (R156). `force` applies
retirement handling to the chunk's slot whatever its mark. -/
def State.endInFlight (s : State) (i : StreamIndex) (pos : Nat) (force : Bool) : State :=
  let t := s.modifyChunk i pos ChunkRecord.givenUp
  match t.ctx? i with
  | none => t
  | some c => if t.inFlight i then t.giveUpAt i pos force else t.toFree i c (if force then some pos else none)

/-- Entry to RELEASING (R154) with a cause; the test for FREE follows where the event ends. -/
def State.enterReleasing (s : State) (i : StreamIndex) (cause : Option Cause) : State :=
  (s.modifyCtx i fun c => { c with state := .releasing, cause := cause, notices := .none }).withdrawOffers i

/-- Salvage has nothing left (R153): not offerable, and no chunk VERIFYING, OFFERED or TAKEN. -/
def Context.salvageDone (c : Context) : Bool :=
  decide (c.state = .salvaging) && !c.offerable && !c.inWritersHands &&
    !c.window.any fun r => decide (r.state = .verifying)

/-- The tests made after every other effect of an event on a stream: the drain flags (R114), the end of salvage (R153),
the return to FREE (R156). -/
def State.settle (s : State) (i : StreamIndex) : State :=
  let s1 := s.modifyCtx i Context.testDrainFlags
  let s2 := match s1.ctx? i with
    | some c => if c.salvageDone then s1.enterReleasing i c.cause else s1
    | none => s1
  s2.testFree i

/-- Settle several streams in order. -/
def State.settleAll (s : State) : List StreamIndex → State
  | [] => s
  | i :: rest => (s.settle i).settleAll rest

/-! ## Parity errors (R33 to R35) -/

/-- The flag, the first-error record and the counter of a table parity error (R34, R35). -/
def State.noteParity (s : State) (i : StreamIndex) : State :=
  (s.noteError .tableParity (some i) none none).count .tableParityErrors 1

/-- R35: a parity error in a live entry. An entry already RELEASING raises DEVICE_ERROR alone, and so does one that is
detached already and fails again (log 28). Which fields of a damaged entry are believed is log 13. The closing tests, the
return to FREE among them, follow where the handling ends. -/
def State.detach (s : State) (i : StreamIndex) (c : Context) : State :=
  let s1 := (s.setCtx i { c with state := .releasing, cause := some .contextError, notices := .none }).noteParity i
  let s2 := s1.raise (.deviceError .tableParity (some i) (some c.tag) none none)
  let s3 := if c.state = .releasing then s2 else s2.raise (.streamAborted i c.tag .contextError c.committed)
  let s4 := if c.state.receiving && c.headSlotless then s3.lowerReserve else s3
  (s4.withdrawOffers i).clearQueue i

/-- An entry that fails its parity is handled by R34 when it is FREE and by R35 when it is live. Which of the two it is, is
taken as the damaged entry reads (DESIGN CHOICE): a live entry that an upset made read FREE follows R34 (log 30), a FREE one
that an upset made read as a context follows R35 (log 37). -/
def State.handleParity (s : State) (i : StreamIndex) : State :=
  if (s.entry i).parityGood then s
  else match s.ctx? i with
    | none => (s.freeEntry i).noteParity i
    | some c => s.detach i c

/-- Handle several entries in order; their closing tests are left to the event. -/
def State.handleAll (s : State) : List StreamIndex → State
  | [] => s
  | i :: rest => (s.handleParity i).handleAll rest

/-- A read of an entry checks its parity (R33); a failing one is handled, closing tests included, before the access goes
on. -/
def State.checkParity (s : State) (i : StreamIndex) : State :=
  if (s.entry i).parityGood then s else (s.handleParity i).settle i

/-- Check the parity of several entries in order. -/
def State.checkAll (s : State) : List StreamIndex → State
  | [] => s
  | i :: rest => (s.checkParity i).checkAll rest

/-- One event reads these entries. Those that fail their parity are handled in ascending order, in whatever order they
were read, so that their records of one kind join the event queue by ascending stream index (R164, log 32). -/
def State.checkRead (s : State) (read : List StreamIndex) : State :=
  s.checkAll (streamIndices.filter fun i => !(s.entry i).parityGood && read.contains i)

/-- A turn over the entries in this order (R117, R143): they are read up to the first with sound parity that may be
served, and that one is found. A failing entry becomes FREE or RELEASING, so a turn passes it by. -/
def State.turn (s : State) (order : List StreamIndex) (serves : StreamIndex → Bool) : State × Option StreamIndex :=
  let found := fun i => (s.entry i).parityGood && serves i
  (s.checkRead (order.takeWhile fun i => !found i), order.find? found)

/-- The outcome of a lookup by tag (R14). -/
inductive Lookup where
  | contextError
  | notFound
  | found (i : StreamIndex) (c : Context)
  deriving DecidableEq, Repr

/-- A context that a lookup of the tag finds: live, holding the tag, not detached (R14). -/
def Context.matchesTag (c : Context) (tag : Nat) : Bool :=
  decide (c.tag = tag) && decide (tag ≠ 0) && !decide (c.state = .releasing ∧ c.cause = some .contextError)

/-- A way of the tag's row, when a lookup finds it there. -/
def State.matchAt (s : State) (tag : Nat) (i : StreamIndex) : Option (StreamIndex × Context) :=
  match s.ctx? i with
  | some c => if c.matchesTag tag then some (i, c) else none
  | none => none

/-- A lookup by tag (R14): both entries of the row are read and checked; a failing one is handled and ends the lookup. -/
def State.lookup (s : State) (tag : Nat) : State × Lookup :=
  let i := wayOf tag 0
  let j := wayOf tag 1
  if (s.entry i).parityGood && (s.entry j).parityGood then
    match (s.matchAt tag i).or (s.matchAt tag j) with
    | some x => (s, .found x.1 x.2)
    | none => (s, .notFound)
  else ((s.checkParity i).checkParity j, .contextError)

/-! ## Abort (R150) -/

/-- Entry to ABORTED with a cause (R150), in the order of its list. `retiring` is the window position of a chunk whose
slot the same event sends to retirement handling (R105, R129): it finds the stream ABORTED and out of the head reserve,
and comes before the watermark test, whose record carries the figures after the event (R86). The history and the hold
failures are left as they are (log 29). -/
def State.enterAborted (s : State) (i : StreamIndex) (cause : Cause) (retiring : Option Nat) : State :=
  match s.ctx? i with
  | none => s
  | some c =>
    let s1 := s.modifyCtx i fun d => { d with state := .aborted, cause := some cause }
    let s2 := ((if c.headSlotless then s1.lowerReserve else s1).retireGiven i retiring).poolTest
    let s3 := (s2.withdrawOffers i).clearQueue i
    let s4 := s3.modifyCtx i fun d => d.emptyUnverified.notify fun n => n.dropRequests.addStop
    s4.raise (.streamAborted i c.tag cause c.committed)

/-! ## Ordered commit (R133, R134) -/

/-- The committed offset after the head chunk commits: 65,536 further, or F for the final chunk (R133). -/
def Context.nextCommitted (c : Context) : Nat :=
  match c.final with
  | some f => if 0 < f ∧ c.head = finalIndex f then f else c.committed + Config.chunkSize
  | none => c.committed + Config.chunkSize

/-- The context after one commit step: the record reset for chunk head + W, the committed offset advanced (R133). -/
def Context.afterCommit (c : Context) : Context :=
  { c with window := c.window.set (c.posOf c.head) (.fresh (c.head + c.w)), committed := c.nextCommitted }

/-- One commit step (R133): the record and offset, the head reserve of a stream that stays in OPEN or HOLD (R81), the
slot, the counter. -/
def State.commitStep (s : State) (i : StreamIndex) (c : Context) : State :=
  let d := c.afterCommit
  let stays := d.state.receiving && !decide (d.final = some d.committed)
  let s1 := s.setCtx i d
  let s2 := if stays && d.headSlotless then s1.raiseReserve 1 else s1
  (s2.giveUpAt i (c.posOf c.head) false).count .chunksCommitted 1

/-- The head chunk is STORED (R133). -/
def Context.headStored (c : Context) : Bool :=
  match c.window[c.posOf c.head]? with
  | some r => decide (r.state = .stored)
  | none => false

/-- Commit steps in chunk order while the head chunk is STORED; at most W, since each leaves an EMPTY record. -/
def State.commitSteps (s : State) (i : StreamIndex) : Nat → State
  | 0 => s
  | n + 1 =>
    match s.ctx? i with
    | some c => if c.headStored then (s.commitStep i c).commitSteps i n else s
    | none => s

/-- The stream becomes COMPLETE (R62, R134): RESYNC and GAP items removed, END added, STREAM_FINISHED raised. The history
and the hold failures of a stream that leaves HOLD this way are left as they are (log 29). -/
def State.completeStream (s : State) (i : StreamIndex) (c : Context) (f : Nat) : State :=
  (s.modifyCtx i fun d => { d.notify fun n => n.dropRequests.addEnd with state := .complete }).raise
    (.streamFinished i c.tag f)

/-- R134: a commit that brought a stream in OPEN or HOLD to F completes it. -/
def State.testComplete (s : State) (i : StreamIndex) : State :=
  match s.ctx? i with
  | some c =>
    if c.state.receiving ∧ c.final = some c.committed then s.completeStream i c c.committed else s
  | none => s

/-- Ordered commit (R133 to R135) at the event that may have made the head chunk STORED. -/
def State.orderedCommit (s : State) (i : StreamIndex) : State :=
  match s.ctx? i with
  | some c =>
    if c.headStored && (c.state.receiving || decide (c.state = .aborted ∨ c.state = .salvaging)) then
      (((s.commitSteps i c.w).modifyCtx i fun d => d.notify .addCommit)).testComplete i
    else s
  | none => s

end Sys2Proof.Machine
end

