-- ==== Sys2Proof/Machine/Notices.lean ====
section
/-! DEFINITION. NOTICE_PLACEMENT: the Notice Generator (08_notices_to_the_network_side.md). -/

namespace Sys2Proof.Machine

/-! ## Notices of a stream (R138, R139, R144) -/

/-- One past the end of the highest chunk of the window whose record holds a slot; 0 when none does (R139). -/
def Context.slottedEnd (c : Context) : Nat :=
  (c.window.filterMap fun r => if r.slot.isSome then some (Config.chunkSize * (r.index + 1)) else none).foldl max 0

/-- The reduced advertised end of POOL_LOW (R139). -/
def Context.reducedEnd (c : Context) : Nat :=
  let e := min (max (c.committed + Config.chunkSize) c.slottedEnd) c.capacityEnd
  match c.final with
  | some f => min e f
  | none => e

/-- The advertised end of a COMMIT notice (R139). -/
def Context.advertisedEnd (c : Context) (pool : PoolState) : Nat :=
  if c.state.receiving then
    match pool with
    | .ok => c.windowEnd
    | .low => c.reducedEnd
  else c.committed

/-- The chunk a window position describes (R52). -/
def Context.chunkAt (c : Context) (pos : Nat) : Nat :=
  match c.window[pos]? with
  | some r => r.index
  | none => pos

/-- The item a stream emits at its turn (R144): the notice with the fields of R138, and the set without the item. -/
def Context.nextNotice (c : Context) (pool : PoolState) : Option (Notice × NoticeSet) :=
  let n := c.notices
  if n.resync then some (.resync c.tag c.committed, { n with resync := false })
  else match n.gaps with
    | p :: rest =>
      let k := c.chunkAt p
      some (.gap c.tag (Config.chunkSize * k) (chunkLength c.final k), { n with gaps := rest })
    | [] =>
      if n.commit then some (.commit c.tag c.committed (c.advertisedEnd pool), { n with commit := false })
      else if n.ended then some (.ended c.tag (c.final.getD c.committed), { n with ended := false })
      else if n.stop then some (.stop c.tag c.committed c.cause, { n with stop := false })
      else none

/-- The GAPs-sent count of a stream rises at each GAP placement (R138). -/
def StreamCounters.gapSent (k : StreamCounters) : Notice → StreamCounters
  | .gap .. => { k with gapsSent := satAdd k.gapsSent 1 }
  | _ => k

/-! ## Placement (R142 to R145) -/

/-- A record joins the tail of a lane's output queue with every owed credit (R44). -/
def Lane.place (v : Lane) (n : Notice) (stream : Option StreamIndex) : Lane :=
  { v with output := v.output ++ [⟨n, v.owed, stream⟩], credit := v.credit + v.owed, owed := 0 }

/-- A stream the lane's round robin may serve (R143). -/
def State.servable (s : State) (l : LaneId) (i : StreamIndex) : Bool :=
  match s.ctx? i with
  | some c => decide (c.replyLane = some l ∧ c.state ≠ .releasing) && c.notices.nonempty
  | none => false

/-- A standalone CREDIT record is called for (R145). -/
def Lane.creditDue (v : Lane) : Bool := decide (8 ≤ v.owed ∨ (1 ≤ v.owed ∧ v.ingress = []))

/-- The stream found by a turn emits one item (R143, R144). -/
def State.serveStream (s : State) (l : LaneId) (i : StreamIndex) : State :=
  match s.ctx? i with
  | none => s
  | some c =>
    match c.nextNotice s.pool.state with
    | none => s
    | some x =>
      (s.setCtx i { c with notices := x.2, counts := c.counts.gapSent x.1 }).modifyLane l fun v =>
        { v.place x.1 (some i) with turn := i }

/-- The second and third choice of R142: a stream turn (R143), and a standalone CREDIT when it finds no stream. -/
def State.placeStreamOrCredit (s : State) (l : LaneId) : State :=
  let r := s.turn (turnOrder (s.lane l).turn) (s.servable l)
  match r.2 with
  | some i => r.1.serveStream l i
  | none => if (s.lane l).creditDue then r.1.modifyLane l fun v => v.place .credit none else r.1

/-- NOTICE_PLACEMENT (R142): an ACTIVE lane with room and something to place makes one placement. A COMMIT placed at a turn
whose own parity handling frees slots advertises by the pool state before the event's watermark test (R139, log 10). -/
def execNoticePlacement (lane : LaneId) (s : State) : Host.Outcome State Fault Refusal :=
  let v := s.lane lane
  if v.state = .active ∧ v.output.length < Config.outputDepth then
    match v.flag with
    | some st => .next (s.setLane lane { v.place (.pool st) none with flag := none })
    | none =>
      if v.creditDue || streamIndices.any (s.servable lane) then .next (s.placeStreamOrCredit lane).poolTest
      else .next s
  else .next s

end Sys2Proof.Machine
end

