-- ==== Sys2Proof/Machine/Placement.lean ====
section
/-! DEFINITION. SEGMENT_TAKE: the Lane Interface's take of a segment record (R43, R45 to R49) and the ten stages of the
Placement Unit (R58 to R76). -/

namespace Sys2Proof.Machine

/-! ## Counting (R76) -/

/-- The stream's count for a stream-chargeable reason rises by 1 (R22, R51, R76). -/
def StreamCounters.drop (n : StreamCounters) : DropReason → StreamCounters
  | .streamStopped => { n with streamStopped := satAdd n.streamStopped 1 }
  | .endConflict => { n with endConflict := satAdd n.endConflict 1 }
  | .beyondCapacity => { n with beyondCapacity := satAdd n.beyondCapacity 1 }
  | .beyondEnd => { n with beyondEnd := satAdd n.beyondEnd 1 }
  | .beyondWindow => { n with beyondWindow := satAdd n.beyondWindow 1 }
  | .noSlot => { n with noSlot := satAdd n.noSlot 1 }
  | .fragmentLimit => { n with fragmentLimit := satAdd n.fragmentLimit 1 }
  | _ => n

/-- Old bytes of a stream (R62, R64, R67). -/
def State.addOld (s : State) (i : StreamIndex) (n : Nat) : State :=
  s.modifyCtx i fun c => c.count fun k => { k with oldBytes := satAdd64 k.oldBytes n }

/-! ## Stage 10: bookkeeping (R49, R74, R75) -/

/-- The bookkeeping of an accepted segment; `merged` is the highest merged end m of R75, none when no piece merged. -/
def State.bookkeep (s : State) (i : StreamIndex) (lane : LaneId) (merged : Option Nat) : State :=
  let fromActive := decide ((s.lane lane).state = .active)
  let s1 := s.modifyCtx i fun c =>
    { c with lastArrival := s.time, idleReported := false
             replyLane := if fromActive then some lane else c.replyLane }
  match merged, s1.ctx? i with
  | some m, some c =>
    if c.earlyWarningPoint < m ∧ c.earlyWarningIssued = false then
      (s1.modifyCtx i fun d => { d with earlyWarningIssued := true }).raise
        (.earlyWarning i c.tag c.earlyWarningPoint m)
    else s1
  | _, _ => s1

/-- The end of a segment's handling (R74, R76). `lost` lists the reasons under which it lost bytes, lowest byte first:
each counts once for the stream; a segment not accepted counts once for the device under the first. -/
def State.finishSegment (s : State) (i : StreamIndex) (lane : LaneId) (accepted : Bool) (merged : Option Nat)
    (lost : List DropReason) : State :=
  let s1 := s.modifyCtx i fun c => c.count fun n => lost.dedup.foldl StreamCounters.drop n
  if accepted then s1.bookkeep i lane merged
  else match lost with
    | r :: _ => s1.countDrop r
    | [] => s1

/-! ## Stage 2: the LAST flag (R59 to R62) -/

/-- The proposed final end is refused (R59). -/
def Context.refusesFinal (c : Context) (f : Nat) : Bool :=
  decide ((1 ≤ f % Config.chunkSize ∧ f % Config.chunkSize ≤ 7) ∨ f < c.committed ∨ f < c.highestHeld ∨ c.capacityEnd < f)

/-- The final chunk already holding exactly [0, len_k) becomes QUEUED (R61). -/
def State.queueFinalChunk (s : State) (i : StreamIndex) (f : Nat) : State :=
  match s.ctx? i with
  | none => s
  | some c =>
    let k := finalIndex f
    let pos := c.posOf k
    if 0 < f ∧ c.head ≤ k ∧ k < c.head + c.w ∧
        (c.window[pos]?).any (fun r => decide (r.state = .filling) && isComplete r.ranges (chunkLength (some f) k)) then
      let s1 := s.modifyChunk i pos fun r => { r with state := .queued }
      { s1 with verifyQueue := s1.verifyQueue ++ [⟨i, pos⟩] }
    else s

/-- Give the slots of records wholly beyond F back, in chunk order, and remove their GAP items (R61). -/
def State.freeBeyond (s : State) (i : StreamIndex) : List (Nat × ChunkRecord) → State
  | [] => s
  | x :: rest =>
    let s1 := s.modifyCtx i fun c =>
      (c.modifyChunk x.1 fun r => { r with slot := none }).notify fun n => n.removeGap x.1
    (if x.2.slot.isSome then s1.giveUpAt i x.1 false else s1).freeBeyond i rest

/-- Acceptance of a new F (R61), and the completion it makes when F equals the committed offset (R62). -/
def State.acceptFinal (s : State) (i : StreamIndex) (c : Context) (f : Nat) : State :=
  let s1 := s.modifyCtx i fun d => { d with final := some f }
  let s2 := if f = c.committed ∧ c.headSlotless then s1.lowerReserve else s1
  let s3 := s2.queueFinalChunk i f
  let beyond := c.ring.filter fun x => decide ((f + 65535) / Config.chunkSize ≤ x.2.index)
  let s4 := s3.freeBeyond i beyond
  if f = c.committed then s4.completeStream i c f else s4

/-! ## Stages 4 and 5: what lies beyond (R65, R66) -/

/-- The class of a byte at or beyond the window end (R65). -/
def Context.beyondClass (c : Context) (x : Nat) : DropReason :=
  if c.capacityEnd ≤ x then .beyondCapacity
  else match c.final with
    | some f => if f ≤ x then .beyondEnd else .beyondWindow
    | none => .beyondWindow

/-- Bytes dropped under a class from offset x: the capacity report of R66. -/
def State.noteBeyond (s : State) (i : StreamIndex) (cls : DropReason) (x : Nat) : State :=
  match s.ctx? i with
  | some c =>
    if cls = .beyondCapacity ∧ c.capacityReached = false then
      (s.modifyCtx i fun d => { d with capacityReached := true }).raise (.capacityReached i c.tag c.capacityEnd x)
    else s
  | none => s

/-! ## Stages 7 to 9: slot, merge, completion (R69 to R73) -/

/-- A piece merged into a record in EMPTY or FILLING (R70, R73). -/
def State.mergeInto (s : State) (i : StreamIndex) (pos : Nat) (r : ChunkRecord) (slot : Slot) (piece : Range)
    (bytes : List Byte) (len : Nat) : State :=
  let merged := insertRange piece r.ranges
  let dup := heldOf piece r.ranges
  let fresh := piece.stop - piece.start - dup
  let done := isComplete merged len
  let s1 := (s.writePiece slot piece r.ranges bytes i r.index).modifyCtx i fun c =>
    (c.modifyChunk pos fun x => { x with ranges := merged, state := if done then .queued else .filling }).count fun k =>
      { k with acceptedBytes := satAdd64 k.acceptedBytes fresh, duplicateBytes := satAdd64 k.duplicateBytes dup }
  if done then { s1 with verifyQueue := s1.verifyQueue ++ [⟨i, pos⟩] } else s1

/-- The merge of a piece at a record that holds a slot (R70 to R72); the reason when the piece is dropped. -/
def State.mergePiece (s : State) (i : StreamIndex) (pos : Nat) (r : ChunkRecord) (slot : Slot) (piece : Range)
    (bytes : List Byte) (len : Nat) : State × Option DropReason :=
  if r.state = .empty ∨ r.state = .filling then
    if Config.rangeLimit < (insertRange piece r.ranges).length then (s, some .fragmentLimit)
    else (s.mergeInto i pos r slot piece bytes len, none)
  else
    (s.modifyCtx i fun c => c.count fun k =>
      { k with duplicateBytes := satAdd64 k.duplicateBytes (piece.stop - piece.start) }, none)

/-- One piece, stream offsets [x, y), through stages 7 to 9; the reason when it is dropped. -/
def State.placePiece (s : State) (i : StreamIndex) (x y : Nat) (bytes : List Byte) : State × Option DropReason :=
  match s.ctx? i with
  | none => (s, some .noSlot)
  | some c =>
    let k := x / Config.chunkSize
    let pos := c.posOf k
    let piece : Range := ⟨x - Config.chunkSize * k, y - Config.chunkSize * k⟩
    let len := chunkLength c.final k
    match c.window[pos]? with
    | none => (s, some .noSlot)
    | some r =>
      match r.slot with
      | some slot => s.mergePiece i pos r slot piece bytes len
      | none =>
        match s.pool.request i pos (decide (k = c.head)) with
        | none => (s, some .noSlot)
        | some g =>
          let s1 := { s with pool := g.2 }.modifyChunk i pos fun q => { q with slot := some g.1 }
          s1.mergePiece i pos { r with slot := some g.1 } g.1 piece bytes len

/-- The pieces of the placed region [x, t), lower first (R68). -/
def piecesOf (x t : Nat) : List (Nat × Nat) :=
  let m := Config.chunkSize * (x / Config.chunkSize + 1)
  if t ≤ x then [] else if t ≤ m then [(x, t)] else [(x, m), (m, t)]

/-- The result of placing some pieces: the state, the highest merged end, and the reasons of dropped pieces in order. -/
structure Placed where
  state : State
  merged : Option Nat
  lost : List DropReason

/-- Place pieces in order; `payload` begins at stream offset `o`. -/
def State.placePieces (s : State) (i : StreamIndex) (o : Nat) (payload : List Byte) : List (Nat × Nat) → Placed
  | [] => ⟨s, none, []⟩
  | p :: rest =>
    let r := s.placePiece i p.1 p.2 (payload.drop (p.1 - o))
    let q := r.1.placePieces i o payload rest
    match r.2 with
    | some reason => ⟨q.state, q.merged, reason :: q.lost⟩
    | none => ⟨q.state, some (q.merged.getD p.2), q.lost⟩

/-! ## Stages 3 to 9 for a segment with bytes (R64 to R73) -/

/-- Stages 3 to 10 of a segment with L above 0; `lastAccepted` when stage 2 accepted its LAST flag. -/
def State.placeBytes (s : State) (i : StreamIndex) (c : Context) (lane : LaneId) (g : Segment) (lastAccepted : Bool) :
    State :=
  let stop := g.offset + g.length
  let e := c.windowEnd
  if stop ≤ c.committed then
    ((s.addOld i g.length).modifyCtx i fun d => d.notify .addCommit).countDrop .oldData
  else if e ≤ g.offset then
    let cls := c.beyondClass g.offset
    (s.noteBeyond i cls g.offset).finishSegment i lane lastAccepted none [cls]
  else
    let x := max g.offset c.committed
    let t := min stop e
    let s1 := s.addOld i (x - g.offset)
    let tail := if t < stop then [c.beyondClass t] else []
    let s2 := if t < stop then s1.noteBeyond i (c.beyondClass t) t else s1
    let placed := s2.placePieces i g.offset g.payload (piecesOf x t)
    placed.state.finishSegment i lane (lastAccepted || placed.merged.isSome) placed.merged (placed.lost ++ tail)

/-- What follows stage 2 (R63): a bare LAST goes to the bookkeeping, other segments to stage 3. -/
def State.placeRest (s : State) (i : StreamIndex) (lane : LaneId) (g : Segment) (lastAccepted : Bool) : State :=
  match s.ctx? i with
  | none => s
  | some c =>
    if g.length = 0 then s.finishSegment i lane lastAccepted none []
    else s.placeBytes i c lane g lastAccepted

/-- The Placement Unit's handling of a segment of a stream in OPEN or HOLD (R58), stage 2 first. -/
def State.placeSegment (s : State) (i : StreamIndex) (c : Context) (lane : LaneId) (g : Segment) : State :=
  let f := g.offset + g.length
  if g.last then
    match c.final with
    | none =>
      if c.refusesFinal f then s.finishSegment i lane false none [.endConflict]
      else if f = c.committed then ((s.acceptFinal i c f).addOld i g.length).finishSegment i lane true none []
      else (s.acceptFinal i c f).placeRest i lane g true
    | some f0 =>
      if f = f0 then s.placeRest i lane g true else s.finishSegment i lane false none [.endConflict]
  else s.placeRest i lane g false

/-! ## The lane's side (R45 to R48) -/

/-- A segment of a stopped stream (R48): dropped, and the last word about the stream repeated. -/
def State.dropStopped (s : State) (i : StreamIndex) : State :=
  (s.modifyCtx i fun c =>
    (c.count fun n => n.drop .streamStopped).notify fun n =>
      match c.state with
      | .complete => n.addEnd
      | .aborted | .salvaging => n.addStop
      | _ => n).countDrop .streamStopped

/-- A well-formed record after its lookup (R47). -/
def State.routeSegment (s : State) (lane : LaneId) (g : Segment) : State :=
  let l := s.lookup g.tag
  match l.2 with
  | .contextError => l.1.countDrop .contextError
  | .notFound => l.1.countDrop .unknownTag
  | .found i c =>
    if c.state.receiving then (l.1.placeSegment i c lane g).settle i else l.1.dropStopped i

/-- The form checks of R46, in order; none for a well-formed record. -/
def Segment.formFault (g : Segment) : Option DropReason :=
  if Config.payloadLimit < g.length ∨ g.payload.length ≠ g.length then some .badLength
  else if g.length = 0 ∧ g.last = false then some .emptyNotLast
  else if Config.offsetLimit < g.offset + g.length then some .offsetRange
  else none

/-- A record's handling, whole at its take (R45). -/
def State.handleSegment (s : State) (lane : LaneId) (record : List Byte) : State :=
  match parseSegment record with
  | none => s.countDrop .badLength
  | some g =>
    match g.formFault with
    | some r => s.countDrop r
    | none => s.routeSegment lane g

/-- A record leaves the ingress queue and earns a credit: owed on an ACTIVE lane, withheld on a QUIESCED one (R43). -/
def Lane.afterTake (v : Lane) (rest : List (List Byte)) : Lane :=
  { v with ingress := rest, owed := if v.state = .active then v.owed + 1 else v.owed }

/-- SEGMENT_TAKE (R45): on an ACTIVE or QUIESCED lane whose ingress queue is not empty. -/
def execSegmentTake (lane : LaneId) (s : State) : Host.Outcome State Fault Refusal :=
  let v := s.lane lane
  match v.state, v.ingress with
  | .down, _ => .next s
  | _, [] => .next s
  | _, record :: rest => .next ((s.setLane lane (v.afterTake rest)).handleSegment lane record).poolTest

end Sys2Proof.Machine
end

