-- ==== Sys2Proof/Machine/Records.lean ====
section
/-! DEFINITION. The records the device sends, in the bytes of 11_record_layouts.md (R176): unused bytes and absent values
are 0, numbers least significant byte first. -/

namespace Sys2Proof.Machine

/-- A number in n bytes, least significant first. -/
def le : Nat → Nat → List Byte
  | 0, _ => []
  | n + 1, v => BitVec.ofNat 8 v :: le n (v / 256)

/-- A flag in 1 byte (R176). -/
def flagByte (b : Bool) : List Byte := [if b then 1 else 0]

/-- An optional item of n bytes: presence byte, then the value or zeros (R176). -/
def optional (n : Nat) : Option Nat → List Byte
  | some v => 1 :: le n v
  | none => 0 :: le n 0

/-! ## Codes (11.6) -/

def Cause.code : Cause → Nat
  | .hostAbort => 1 | .chunkUnrecoverable => 2 | .pathUnreliable => 3 | .storeFailed => 4 | .storeFull => 5
  | .contextError => 6

def Status.code : Status → Nat
  | .done => 0 | .notReady => 1 | .noStream => 2 | .tagInUse => 3 | .rowFull => 4 | .noSpace => 5 | .wrongState => 6
  | .badParam => 7 | .contextError => 8 | .unknownCommand => 9

def ErrorKind.code : ErrorKind → Nat
  | .tableParity => 1 | .bufferUncorrected => 2 | .commandOverrun => 3 | .eventsLost => 4

def LaneState.code : LaneState → Nat
  | .down => 0 | .active => 1 | .quiesced => 2

def LaneCause.code : LaneCause → Nat
  | .linkUp => 1 | .linkDown => 2 | .laneReset => 3 | .deviceReady => 4 | .host => 5

def linkCode : LinkStatus → Nat
  | .down => 0 | .up => 1

def WriterState.code : WriterState → Nat
  | .offline => 0 | .ready => 1

def WriterCause.code : WriterCause → Nat
  | .writerSignal => 1 | .portReset => 2 | .deviceReady => 3

def DeviceState.code : DeviceState → Nat
  | .starting _ => 0 | .ready => 1 | .failed _ => 2

/-- The step code of STATUS (R174). -/
def SelfTest.code : SelfTest → Nat
  | .bufferWalk => 1 | .tableTest => 2 | .knownAnswer => 3

def DeviceState.stepCode : DeviceState → Nat
  | .starting t => t.code | .ready => 0 | .failed t => t.code

/-- A live stream state's code; FREE is 0. -/
def StreamState.code : StreamState → Nat
  | .opened => 1 | .hold => 2 | .complete => 3 | .aborted => 4 | .salvaging => 5 | .releasing => 6

def ChunkState.code : ChunkState → Nat
  | .empty => 0 | .filling => 1 | .queued => 2 | .verifying => 3 | .verified => 4 | .offered => 5 | .taken => 6
  | .stored => 7

def PoolState.code : PoolState → Nat
  | .ok => 0 | .low => 1

/-- An optional cause as a code byte, 0 when absent (R176). -/
def causeByte (c : Option Cause) : Nat :=
  match c with
  | some x => x.code
  | none => 0

/-! ## Lane and drain port records (11.2, 11.3) -/

/-- A notice's kind code, cause, stream tag, first and second value (11.2). -/
def Notice.fields : Notice → Nat × Nat × Nat × Nat × Nat
  | .commit tag c a => (1, 0, tag, c, a)
  | .gap tag start n => (2, 0, tag, start, n)
  | .resync tag x => (3, 0, tag, x, 0)
  | .ended tag f => (4, 0, tag, f, 0)
  | .stop tag c cause => (5, causeByte cause, tag, c, 0)
  | .pool .low => (6, 0, 0, 0, 0)
  | .pool .ok => (7, 0, 0, 0, 0)
  | .credit => (8, 0, 0, 0, 0)

/-- The 24 bytes of a notice record; the stream index is not part of it (11.2). -/
def NoticeRecord.bytes (r : NoticeRecord) : List Byte :=
  let f := r.notice.fields
  le 1 f.1 ++ le 1 r.credits ++ le 1 f.2.1 ++ le 1 0 ++ le 4 f.2.2.1 ++ le 8 f.2.2.2.1 ++ le 8 f.2.2.2.2

/-- The 32 bytes of an offer (11.3). -/
def Offer.bytes (o : Offer) : List Byte :=
  le 4 o.drainTag.toNat ++ le 4 o.tag ++ le 4 o.index ++ le 4 o.target ++ le 8 o.block ++ le 4 o.len ++
    le 4 o.check.toNat

/-- A TAKE answer without an offer: NONE is 2, OFFLINE is 3 (11.3); the offer's 32 bytes are 0 (R176). -/
def takeAnswerPlain (code : Nat) : List Byte := le 1 code ++ le 3 0 ++ le 32 0

/-- The TAKE answer that carries an offer (11.3). -/
def takeAnswerOffer (o : Offer) : List Byte := le 1 1 ++ le 3 0 ++ o.bytes

/-- A READ answer: DATA is 1, STALE 2, RANGE 3 (11.3). -/
def readAnswerBytes (code : Nat) (invalid : Bool) (data : List Byte) : List Byte :=
  le 1 code ++ flagByte invalid ++ le 2 0 ++ le 4 data.length ++ data

/-! ## Control port records (11.4) -/

/-- A response record (11.4). -/
def Response.bytes (r : Response) : List Byte :=
  le 1 r.code ++ le 1 r.status.code ++ le 2 r.id ++ le 2 r.data.length ++ le 2 0 ++ r.data

/-- The fields of an event record after its device time (11.4). -/
structure EventFields where
  first : Nat := 0
  second : Nat := 0
  lane : Nat := 0
  stream : Nat := 0
  presence : Nat := 0
  tag : Nat := 0
  valueA : List Byte := le 8 0
  valueB : Nat := 0
  slot : Nat := 0
  chunk : Nat := 0

/-- The presence byte of DEVICE_ERROR (11.4). -/
def presenceBits (a b c d : Bool) : Nat :=
  (if a then 1 else 0) + (if b then 2 else 0) + (if c then 4 else 0) + (if d then 8 else 0)

/-- The fields each event kind fills (11.4). -/
def Event.fields : Event → EventFields
  | .streamFinished i tag f => { stream := i.val, tag := tag, valueA := le 8 f }
  | .streamAborted i tag cause c => { first := cause.code, stream := i.val, tag := tag, valueA := le 8 c }
  | .streamReleased i tag cause c => { first := causeByte cause, stream := i.val, tag := tag, valueA := le 8 c }
  | .streamHold i tag c fails => { stream := i.val, tag := tag, valueA := le 8 c, valueB := fails }
  | .streamResumed i tag c => { stream := i.val, tag := tag, valueA := le 8 c }
  | .earlyWarning i tag ew m => { stream := i.val, tag := tag, valueA := le 8 ew, valueB := m }
  | .capacityReached i tag e x => { stream := i.val, tag := tag, valueA := le 8 e, valueB := x }
  | .streamIdle i tag c t => { stream := i.val, tag := tag, valueA := le 8 c, valueB := t }
  | .pool _ free reserve spare retired => { valueA := le 2 free ++ le 2 reserve ++ le 2 spare ++ le 2 retired }
  | .laneChanged l st cause => { first := st.code, second := cause.code, lane := l.val }
  | .writerChanged st cause => { first := st.code, second := cause.code }
  | .deviceError kind stream tag slot chunk =>
    { first := kind.code
      presence := presenceBits stream.isSome tag.isSome slot.isSome chunk.isSome
      stream := (stream.map (·.val)).getD 0
      tag := tag.getD 0
      slot := (slot.map (·.val)).getD 0
      chunk := chunk.getD 0 }
  | .interval n t => { valueA := le 8 n.toNat, valueB := t }

/-- The 48 bytes of an event record (11.4). -/
def EventRecord.bytes (r : EventRecord) : List Byte :=
  let f := r.event.fields
  le 1 r.event.kindCode ++ le 1 f.first ++ le 1 f.second ++ le 1 f.lane ++ le 8 r.time ++ le 2 f.stream ++
    le 1 f.presence ++ le 1 0 ++ le 4 f.tag ++ f.valueA ++ le 8 f.valueB ++ le 2 f.slot ++ le 2 0 ++ le 4 f.chunk ++
    le 4 0

/-- The 12 bytes of the error summary (11.4, CLEAR_ERRORS). -/
def ErrorSummary.bytes (e : ErrorSummary) : List Byte :=
  let flags := presenceBits e.tableParity e.bufferUncorrected e.commandOverrun e.eventsLost
  match e.first with
  | none => le 1 flags ++ le 11 0
  | some f =>
    le 1 flags ++ le 1 f.kind.code ++ le 1 (presenceBits f.stream.isSome f.slot.isSome f.chunk.isSome false) ++ le 1 0 ++
      le 2 ((f.stream.map (·.val)).getD 0) ++ le 2 ((f.slot.map (·.val)).getD 0) ++ le 4 (f.chunk.getD 0)

/-- The 12 bytes of the settings (11.4, CONFIGURE). -/
def Settings.bytes (g : Settings) : List Byte :=
  le 2 g.low ++ le 2 g.high ++ le 2 g.drainTimeout ++ le 2 g.idleLimit ++ le 2 g.intervalLength ++ le 2 g.enables.toNat

/-- The marks of a counter set: bit n for counter n (11.4). -/
def CounterSet.markBits (v : CounterSet) : Nat :=
  ((v.toList.zipIdx).map fun x => if x.1.mark then 2 ^ x.2 else 0).sum

/-- The 148 bytes of the COUNTERS data (11.4, R170). -/
def State.countersData (s : State) : List Byte :=
  (s.snapshot.toList.flatMap fun c => le 4 c.value) ++ le 4 (CounterSet.markBits s.snapshot) ++
    le 4 s.intervalNumber.toNat ++ le 8 s.snapshotElapsed ++ le 2 s.pool.retiredCount ++ le 2 0

/-- How many entries are in a live state (R172). -/
def State.entriesIn (s : State) (st : StreamState) : Nat :=
  (s.table.filter fun x => x.2.ctx.any fun c => decide (c.state = st)).length

/-- How many entries are live (R172). -/
def State.liveEntries (s : State) : Nat := (s.table.filter fun x => x.2.ctx.isSome).length

/-- A lane's entry in STATUS (R172). Of "the record counts of both its queues" the ingress queue's comes first (log 33). -/
def Lane.statusBytes (v : Lane) : List Byte :=
  le 1 v.state.code ++ le 1 (linkCode v.link) ++ le 1 v.credit ++ le 1 v.owed ++ le 2 v.ingress.length ++
    le 2 v.output.length

/-- The STATUS data, its items in the order of R172, encoded as R176 states. -/
def State.statusData (s : State) : List Byte :=
  le 1 s.device.code ++ le 1 s.device.stepCode ++ le 8 s.time ++
    le 2 s.pool.free ++ le 2 s.pool.reserve ++ le 2 s.pool.spare ++ le 2 s.pool.retiredCount ++ le 1 s.pool.state.code ++
    le 2 s.verifyQueue.length ++ flagByte s.engine.isSome ++
    le 1 s.writerState.code ++ le 2 s.offered.length ++ le 2 s.drainMap.length ++
    le 1 4 ++ (laneIds.flatMap fun l => (s.lane l).statusBytes) ++
    le 2 (512 - s.liveEntries) ++ le 2 (s.entriesIn .opened) ++ le 2 (s.entriesIn .hold) ++ le 2 (s.entriesIn .complete) ++
    le 2 (s.entriesIn .aborted) ++ le 2 (s.entriesIn .salvaging) ++ le 2 (s.entriesIn .releasing) ++ s.errors.bytes

/-- A chunk index in 4 bytes; one of 2^32 or more is a FREE VALUE (log 16). -/
def chunkIndexBytes (k : Nat) : List Byte :=
  if k < Config.capLimit then le 4 k else le 4 (Config.wideChunkIndex k)

/-- A window position in QUERY (R176). -/
def ChunkRecord.queryBytes (r : ChunkRecord) : List Byte :=
  chunkIndexBytes r.index ++ le 1 r.state.code ++ flagByte r.slot.isSome ++ le 4 (heldBytes r.ranges) ++
    le 1 r.ranges.length ++ le 1 r.failures ++ le 1 r.offers ++ optional 4 (r.check.map (·.toNat))

/-- The pending items in QUERY, each its notice kind and window position, in the order of R144 (log 15). -/
def NoticeSet.items (n : NoticeSet) : List (Nat × Nat) :=
  (if n.resync then [(3, 0)] else []) ++ n.gaps.map (fun p => (2, p)) ++ (if n.commit then [(1, 0)] else []) ++
    (if n.ended then [(4, 0)] else []) ++ (if n.stop then [(5, 0)] else [])

/-- An outcome in QUERY: 1 for a pass, 2 for a fail (R176). -/
def Verdict.code : Verdict → Nat
  | .pass => 1 | .fail => 2

/-- The counters of R22 in its order. -/
def StreamCounters.bytes (n : StreamCounters) : List Byte :=
  le 8 n.acceptedBytes ++ le 8 n.duplicateBytes ++ le 8 n.oldBytes ++ le 4 n.streamStopped ++ le 4 n.endConflict ++
    le 4 n.beyondCapacity ++ le 4 n.beyondEnd ++ le 4 n.beyondWindow ++ le 4 n.noSlot ++ le 4 n.fragmentLimit ++
    le 4 n.failures ++ le 4 n.gapsSent ++ le 4 n.rewrites ++ le 4 n.patternErrors

/-- The QUERY data, its items in the order of R173, encoded as R176 states. -/
def Context.queryData (c : Context) : List Byte :=
  le 1 c.state.code ++ optional 1 (c.cause.map (·.code)) ++ le 1 c.w ++ le 1 c.b ++ le 1 c.t ++ flagByte c.pattern ++
    le 8 c.cap ++ le 8 c.reserve ++ le 8 c.committed ++ optional 8 c.final ++ optional 1 (c.replyLane.map (·.val)) ++
    flagByte c.streaming ++ flagByte c.flushPending ++ flagByte c.earlyWarningIssued ++ flagByte c.capacityReached ++
    flagByte c.idleReported ++ le 1 c.history.length ++ (c.history.flatMap fun v => le 1 v.code) ++ le 1 c.holdFailures ++
    le 1 c.notices.items.length ++ (c.notices.items.flatMap fun x => le 1 x.1 ++ le 1 x.2) ++ le 8 c.lastArrival ++
    c.counts.bytes ++ le 1 c.window.length ++ c.window.flatMap ChunkRecord.queryBytes

end Sys2Proof.Machine
end

