-- ==== Sys2Proof/Machine/Lanes.lean ====
section
/-! DEFINITION. The Segment Lanes (03_segment_lanes.md): PUSH_SEGMENT, LINK_UP, LINK_DOWN, LANE_RESET, NOTICE_TAKE, and
what the LANE command and the entry to READY share with them: a lane's changes of state (R37 to R43, R50), the redirect
of reply lanes (R146) and the put-back of lost notices (R147). -/

namespace Sys2Proof.Machine

/-! ## Reply lanes (R146) -/

/-- Every live stream among these whose reply lane is `old` takes `new`; each entry is read with its parity checked
(R33, log 12). -/
def State.redirect (s : State) (old new : Option LaneId) : List StreamIndex → State
  | [] => s
  | i :: rest =>
    ((s.checkParity i).modifyCtx i fun c => if c.replyLane = old then { c with replyLane := new } else c).redirect
      old new rest

/-! ## A lane becomes ACTIVE or leaves ACTIVE -/

/-- A lane that begins a credit period (R37, R41), told the pool state (R141). -/
def Lane.up (v : Lane) (pool : PoolState) : Lane :=
  { v with state := .active, credit := Config.laneCredits, owed := 0, flag := some pool }

/-- A QUIESCED lane that returns to ACTIVE: every withheld credit is owed again (R43). -/
def Lane.resumed (v : Lane) (pool : PoolState) : Lane :=
  { v with state := .active, owed := Config.laneCredits - v.credit - v.ingress.length, flag := some pool }

/-- An ACTIVE lane that becomes QUIESCED: its owed credits are withheld (R43), its flag is none (R141). -/
def Lane.quieted (v : Lane) : Lane := { v with state := .quiesced, owed := 0, flag := none }

/-- A lost lane (R50); its round-robin position is kept (R140). -/
def Lane.lost (v : Lane) : Lane :=
  { v with state := .down, link := .down, ingress := [], credit := 0, owed := 0, output := [], flag := none }

/-- A lane has become ACTIVE, as `v`: LANE_CHANGED (R40), before the records of entries that fail their parity at the
redirect (log 34); streams without a reply lane take it (R146). -/
def State.laneActive (s : State) (l : LaneId) (v : Lane) (cause : LaneCause) : State :=
  ((s.setLane l v).raise (.laneChanged l .active cause)).redirect none (some l) streamIndices

/-- An ACTIVE lane becomes QUIESCED (R39): LANE_CHANGED, before the records of entries that fail their parity at the
redirect (log 34), and its streams are redirected (R146). -/
def State.laneQuiesced (s : State) (l : LaneId) : State :=
  let s1 := (s.setLane l (s.lane l).quieted).raise (.laneChanged l .quiesced .host)
  s1.redirect (some l) s1.lowestActive streamIndices

/-! ## The loss of a lane (R50, R147) -/

/-- The item a lost record puts back into its stream's set, when the stream's entry lets it (R147). A COMPLETE stream takes
END and COMMIT alone back (R149), whichever lane is lost (log 36); an ABORTED one takes a GAP too (R150). -/
def Context.putBack (c : Context) : Notice → Context
  | .commit .. => c.notify .addCommit
  | .gap _ start _ =>
    let k := start / Config.chunkSize
    if c.state ≠ .complete ∧ c.head ≤ k ∧
        (c.window[c.posOf k]?).any (fun r => decide (r.index = k ∧ (r.state = .empty ∨ r.state = .filling))) then
      c.notify fun n => n.addGap (c.posOf k)
    else c
  | .resync .. => if c.state.receiving then c.notify .addResync else c
  | .ended .. => if c.state = .complete then c.notify .addEnd else c
  | .stop .. => if c.state = .aborted ∨ c.state = .salvaging then c.notify .addStop else c
  | .pool _ => c
  | .credit => c

/-- The stream tag a notice carries; none for POOL_LOW, POOL_OK and CREDIT (R138). -/
def Notice.tag? : Notice → Option Nat
  | .commit tag _ _ => some tag
  | .gap tag _ _ => some tag
  | .resync tag _ => some tag
  | .ended tag _ => some tag
  | .stop tag _ _ => some tag
  | .pool _ => none
  | .credit => none

/-- One lost record is put back into the entry it was placed for, or discarded (R147). -/
def State.putBackOne (s : State) (r : NoticeRecord) : State :=
  match r.stream, r.notice.tag? with
  | some i, some tag => s.modifyCtx i fun c => if c.tag = tag ∧ c.state ≠ .releasing then c.putBack r.notice else c
  | _, _ => s

/-- Several lost records are put back, in order. -/
def State.putBackEach (s : State) : List NoticeRecord → State
  | [] => s
  | r :: rest => (s.putBackOne r).putBackEach rest

/-- The records of a lost lane's output queue, oldest first (R147). The entries they name are read with their parity
checked; one that fails is FREE or RELEASING afterwards, so its records are discarded. -/
def State.putBackAll (s : State) (records : List NoticeRecord) : State :=
  (s.checkRead (records.filterMap (·.stream))).putBackEach records

/-- The link of a lane goes down, by a link down or a lane reset (R37): an ACTIVE or QUIESCED lane is lost (R50).
LANE_CHANGED comes after the records of entries that fail their parity at the redirect and the put-back (log 34). -/
def State.linkLost (s : State) (l : LaneId) (cause : LaneCause) : State :=
  let v := s.lane l
  if v.state = .down then s.setLane l { v with link := .down }
  else
    let s1 := (s.count (.drop .laneLost) v.ingress.length).setLane l v.lost
    let s2 := if v.state = .active then s1.redirect (some l) s1.lowestActive streamIndices else s1
    (s2.putBackAll v.output).raise (.laneChanged l .down cause)

/-! ## The rows -/

/-- PUSH_SEGMENT (R42). -/
def execPushSegment (lane : LaneId) (record : List Byte) (s : State) : Host.Outcome State Fault Refusal :=
  let v := s.lane lane
  if v.state = .down then .next (if s.device = .ready then s.countDrop .laneDown else s)
  else if 1 ≤ v.credit then
    .next ((s.setLane lane { v with ingress := v.ingress ++ [record], credit := v.credit - 1 }).count (.received lane) 1)
  else .next (s.countDrop .noCredit)

/-- LINK_UP (R37): the link status is up; a DOWN lane becomes ACTIVE if the device is READY. -/
def execLinkUp (lane : LaneId) (s : State) : Host.Outcome State Fault Refusal :=
  let v : Lane := { s.lane lane with link := .up }
  if v.state = .down ∧ s.device = .ready then
    .next (s.laneActive lane (v.up s.pool.state) .linkUp).poolTest
  else .next (s.setLane lane v)

/-- LINK_DOWN (R37, R50). -/
def execLinkDown (lane : LaneId) (s : State) : Host.Outcome State Fault Refusal :=
  .next (s.linkLost lane .linkDown).poolTest

/-- LANE_RESET (R37, R50). -/
def execLaneReset (lane : LaneId) (s : State) : Host.Outcome State Fault Refusal :=
  .next (s.linkLost lane .laneReset).poolTest

/-- NOTICE_TAKE (R44): the partner receives the oldest record; from an empty queue none. -/
def execNoticeTake (lane : LaneId) (s : State) : Host.Outcome State Fault Refusal :=
  match (s.lane lane).output with
  | [] => .next { s with ports := { s.ports with notice := s.ports.notice.set lane none } }
  | r :: rest =>
    .next { s.modifyLane lane fun v => { v with output := rest } with
            ports := { s.ports with notice := s.ports.notice.set lane (some r.bytes) } }

end Sys2Proof.Machine
end

