-- ==== Sys2Proof/Machine/Control.lean ====
section
/-! DEFINITION. The Control Port's queues (10_control_port_counters_and_start_up.md): COMMAND_WRITE, the take of a
command (R162), the two reads, and the commands LANE, CONFIGURE, COUNTERS, CLEAR_ERRORS, STATUS, UNKNOWN_COMMAND; the
idle test (R159) and the interval's end (R169), which CONFIGURE shares with the timers. -/

namespace Sys2Proof.Machine

/-! ## The queues (R161, R164) -/

/-- COMMAND_WRITE (R161, R166). -/
def execCommandWrite (record : List Byte) (s : State) : Host.Outcome State Fault Refusal :=
  if s.commands.length < Config.commandDepth then .next { s with commands := s.commands ++ [record] }
  else
    let s1 := s.noteError .commandOverrun none none none
    .next (if s.errors.commandOverrun then s1 else s1.raise (.deviceError .commandOverrun none none none none))

/-- RESPONSE_QUEUE_READ (R161): the host receives the oldest record; from an empty queue none. -/
def execResponseQueueRead (s : State) : Host.Outcome State Fault Refusal :=
  match s.responses with
  | [] => .next { s with ports := { s.ports with response := none } }
  | r :: rest => .next { s with responses := rest, ports := { s.ports with response := some r.bytes } }

/-- EVENT_QUEUE_READ (R164). -/
def execEventQueueRead (s : State) : Host.Outcome State Fault Refusal :=
  match s.events with
  | [] => .next { s with ports := { s.ports with event := none } }
  | r :: rest => .next { s with events := rest, ports := { s.ports with event := some r.bytes } }

/-! ## The take of a command (R162) -/

/-- The response to a command record joins the tail of the response queue, with the record's code and identifier. -/
def State.respond (s : State) (record : List Byte) (status : Status) (data : List Byte) : State :=
  { s with responses := s.responses ++ [⟨commandCode record, status, commandId record, data⟩] }

/-- The Control Port's take of the head of the command queue when its code is one that `accepts` allows and the
response queue has room (R162); `body` gets the state without the record. Otherwise nothing is taken. -/
def State.takeWhen (s : State) (accepts : Nat → Bool) (body : State → List Byte → State) : State :=
  match s.commands with
  | [] => s
  | record :: rest =>
    if accepts (commandCode record) && decide (s.responses.length < Config.commandDepth) then
      body { s with commands := rest } record
    else s

/-- A command that the device answers NOT_READY unless it is READY (R162). The watermark test ends the event (R86). -/
def State.takeCommand (s : State) (code : Nat) (body : State → List Byte → State) : State :=
  s.takeWhen (fun c => decide (c = code)) fun t record =>
    if t.device = .ready then (body t record).poolTest else t.respond record .notReady []

/-- A command code names a command (R162, 11.6). -/
def namesCommand (code : Nat) : Bool := decide (1 ≤ code ∧ code ≤ 14)

/-- UNKNOWN_COMMAND (R162): answered in every device state. -/
def execUnknownCommand (s : State) : Host.Outcome State Fault Refusal :=
  .next (s.takeWhen (fun c => !namesCommand c) fun t record => t.respond record .unknownCommand [])

/-! ## COUNTERS, CLEAR_ERRORS, STATUS -/

/-- COUNTERS (R170). -/
def execCounters (s : State) : Host.Outcome State Fault Refusal :=
  .next (s.takeCommand 11 fun t record => t.respond record .done t.countersData)

/-- CLEAR_ERRORS (R167): answered with the summary as it stood, which is then cleared. -/
def execClearErrors (s : State) : Host.Outcome State Fault Refusal :=
  .next (s.takeCommand 12 fun t record => { t.respond record .done t.errors.bytes with errors := .clear })

/-- STATUS (R172): answered in every device state. -/
def execStatus (s : State) : Host.Outcome State Fault Refusal :=
  .next (s.takeWhen (fun c => decide (c = 13)) fun t record => t.respond record .done t.statusData)

/-! ## LANE (R39) -/

/-- The state a LANE record requests: the ACTIVE or the QUIESCED code (R39, R177). -/
def requestedLaneState (record : List Byte) : Option LaneState :=
  let code := fieldAt record 5 1
  if code = 1 then some .active else if code = 2 then some .quiesced else none

/-- LANE for an existing lane (R39, R43). -/
def State.laneCommand (s : State) (record : List Byte) (l : LaneId) (wanted : LaneState) : State :=
  let v := s.lane l
  match v.state, wanted with
  | .down, _ => s.respond record .wrongState []
  | .active, .quiesced => (s.laneQuiesced l).respond record .done []
  | .quiesced, .active =>
    if v.link = .up then (s.laneActive l (v.resumed s.pool.state) .host).respond record .done []
    else s.respond record .wrongState []
  | .active, _ => s.respond record .done []
  | .quiesced, _ => s.respond record .done []

/-- LANE (R39). -/
def execLane (s : State) : Host.Outcome State Fault Refusal :=
  .next (s.takeCommand 9 fun t record =>
    match requestedLaneState record with
    | none => t.respond record .badParam []
    | some wanted =>
      if h : fieldAt record 4 1 < 4 then t.laneCommand record ⟨fieldAt record 4 1, h⟩ wanted
      else t.respond record .badParam [])

/-! ## The idle timer (R159, R160) -/

/-- A stream's idle expiry has been reached and is tested (R159): in OPEN or HOLD, its flag clear. -/
def Context.idleDue (c : Context) (limit time : Nat) : Bool :=
  c.state.receiving && !c.idleReported && decide (c.lastArrival + 1000 * limit ≤ time)

/-- The idle timer's action at a stream whose expiry is reached (R159): the entry is read with its parity checked; a
failing one is handled and nothing else is done. That the expiry is reached is judged by the fields as they read, before
the check (log 22). -/
def State.idleTest (s : State) (i : StreamIndex) : State :=
  match s.ctx? i with
  | none => s
  | some c =>
    if c.idleDue s.settings.idleLimit s.time then
      if (s.entry i).parityGood then
        (s.setCtx i { c with idleReported := true }).raise (.streamIdle i c.tag c.committed c.lastArrival)
      else s.checkParity i
    else s

/-- The idle test of several streams in order. -/
def State.idleTests (s : State) : List StreamIndex → State
  | [] => s
  | i :: rest => (s.idleTest i).idleTests rest

/-! ## The interval (R169) -/

/-- The current interval's expiry is at or before the device time (R169). -/
def State.intervalDue (s : State) : Bool := decide (s.intervalStart + 1000 * s.settings.intervalLength ≤ s.time)

/-- The interval expires (R169): the live set is copied to the snapshot and zeroed, the interval number rises, INTERVAL
is raised, the next interval begins. -/
def State.endInterval (s : State) : State :=
  let elapsed := s.time - s.intervalStart
  { s with snapshot := s.live, live := .zero, intervalNumber := s.intervalNumber + 1, snapshotElapsed := elapsed,
           intervalStart := s.time }.raise (.interval (s.intervalNumber + 1) elapsed)

/-! ## CONFIGURE (R171) -/

/-- The values a CONFIGURE presents (R171, 11.4). -/
structure ConfigParams where
  low : Option Nat
  high : Option Nat
  drainTimeout : Option Nat
  idleLimit : Option Nat
  intervalLength : Option Nat
  enables : Option Nat
  deriving DecidableEq, Repr

/-- The parameter bytes of CONFIGURE (11.4). -/
def parseConfigure (record : List Byte) : ConfigParams where
  low := configureField record 0 6
  high := configureField record 1 8
  drainTimeout := configureField record 2 10
  idleLimit := configureField record 3 12
  intervalLength := configureField record 4 14
  enables := configureField record 5 16

/-- The high watermark's clamp against the low one (R87). -/
def clampHigh (low high : Nat) : Nat := min (if high ≤ low then low + 1 else high) 2047

/-- The interval length's clamp (R171). -/
def clampInterval (v : Nat) : Nat := if v = 0 then 1 else min v 3600

/-- The settings after a CONFIGURE (R87, R171): a presented value is clamped, an absent one left, the high watermark
clamped whenever either watermark is presented. -/
def Settings.configure (g : Settings) (p : ConfigParams) : Settings :=
  let low := (p.low.map fun v => min v 1024).getD g.low
  { low := low
    high := if p.low.isSome || p.high.isSome then clampHigh low (p.high.getD g.high) else g.high
    drainTimeout := (p.drainTimeout.map fun v => if v = 0 then 1 else v).getD g.drainTimeout
    idleLimit := (p.idleLimit.map fun v => min v 3600).getD g.idleLimit
    intervalLength := (p.intervalLength.map clampInterval).getD g.intervalLength
    enables := (p.enables.map fun v => BitVec.ofNat 14 v).getD g.enables }

/-- The change of idle limit makes expiries due at once: lowered, or turned on (R160). -/
def idleBroughtForward (before after : Nat) : Bool := decide (0 < after ∧ (before = 0 ∨ after < before))

/-- CONFIGURE's body (R171): the idle tests (R160), the watermark test (R87) with the figures they leave (R86), the
response, and the interval's end when its recomputed expiry has passed. That order, and that the old enables judge the
records raised here, are log 11. -/
def State.configureBody (s : State) (record : List Byte) : State :=
  let p := parseConfigure record
  let g := s.settings.configure p
  let s1 := { s with settings := { g with enables := s.settings.enables } }
  let s2 := if idleBroughtForward s.settings.idleLimit g.idleLimit then s1.idleTests streamIndices else s1
  let s3 := s2.poolTest.respond record .done g.bytes
  let s4 := if p.intervalLength.isSome && s3.intervalDue then s3.endInterval else s3
  { s4 with settings := g }

/-- CONFIGURE (R171). -/
def execConfigure (s : State) : Host.Outcome State Fault Refusal :=
  .next (s.takeCommand 10 State.configureBody)

end Sys2Proof.Machine
end

