-- ==== Sys2Proof/Machine/Drain.lean ====
section
/-! DEFINITION. The Drain Controller (07_drain_and_ordered_commit.md): TAKE, READ, COMPLETE, WRITER_SIGNAL, PORT_RESET,
ARBITER_TURN, DRAIN_TIMEOUT. -/

namespace Sys2Proof.Machine

/-- What the writer receives for a TAKE (log 19). -/
def State.answerTake (s : State) (bytes : List Byte) : State := { s with ports := { s.ports with takeAnswer := some bytes } }

/-- What the writer receives for a READ (log 19). -/
def State.answerRead (s : State) (bytes : List Byte) : State := { s with ports := { s.ports with readAnswer := some bytes } }

/-- The drain map record of a tag (R116). -/
def State.drainRecord (s : State) (tag : Word) : Option DrainRecord := s.drainMap.find? fun r => decide (r.drainTag = tag)

/-! ## TAKE (R123) -/

/-- The head offer is taken: it enters the drain map with its expiry, and its chunk becomes TAKEN. -/
def State.takeOffer (s : State) (o : Offer) (rest : List Offer) : State :=
  let s1 : State := { s with
    offered := rest
    drainMap := s.drainMap ++ [⟨o.drainTag, o.stream, o.pos, s.time + s.settings.drainTimeout⟩] }
  ((s1.modifyChunk o.stream o.pos fun r => { r with state := .taken }).settle o.stream).answerTake (takeAnswerOffer o)

/-- The first offer whose stream's entry has sound parity is taken. The failing entries before it are handled first, which
withdraws their offers (R33, R35, log 12). -/
def State.takeHead (s : State) : State :=
  let failed := s.offered.takeWhile fun o => !(s.entry o.stream).parityGood
  let t := s.checkRead (failed.map (·.stream))
  match t.offered with
  | [] => t.answerTake (takeAnswerPlain 2)
  | o :: rest => t.takeOffer o rest

/-- TAKE (R123). -/
def execTake (s : State) : Host.Outcome State Fault Refusal :=
  match s.writerState with
  | .offline => .next (s.answerTake (takeAnswerPlain 3))
  | .ready => .next s.takeHead.poolTest

/-! ## READ (R124) -/

/-- The answer to a READ whose record is present, from a chunk of `len` bytes in `slot`. -/
def State.readChunk (s : State) (q : ReadRequest) (d : DrainRecord) (slot : Slot) (index len : Nat) : State :=
  if q.length = 0 ∨ 65536 < q.length ∨ len < q.start + q.length then s.answerRead (readAnswerBytes 3 false [])
  else
    let ws := wordsOf q.start q.length
    let invalid := decide (s.countWords slot ws .uncorrectable ≠ 0)
    (s.reportRead slot ws d.stream index).answerRead (readAnswerBytes 1 invalid (s.slotBytes slot q.start q.length))

/-- A READ that finds its record, after the entry's parity was checked. The byte length and the chunk index are those of
the context, damaged or not (log 31). -/
def State.readRecord (s : State) (q : ReadRequest) (d : DrainRecord) : State :=
  match s.ctx? d.stream, s.pool.slotOf d.stream d.pos with
  | some c, some slot =>
    match c.window[d.pos]? with
    | some r => s.readChunk q d slot r.index (chunkLength c.final r.index)
    | none => s.answerRead (readAnswerBytes 2 false [])
  | _, _ => s.answerRead (readAnswerBytes 2 false [])

/-- READ (R124). -/
def execRead (record : List Byte) (s : State) : Host.Outcome State Fault Refusal :=
  let q := parseRead record
  match s.drainRecord q.drainTag with
  | none => .next (s.answerRead (readAnswerBytes 2 false []))
  | some d => .next ((s.checkParity d.stream).readRecord q d).poolTest

/-! ## Completions (R125 to R130) -/

/-- A store failure (R127) of a chunk `r`. -/
def State.storeFailure (s : State) (i : StreamIndex) (pos : Nat) (c : Context) (r : ChunkRecord) : State :=
  let s1 := s.modifyChunk i pos fun x => { x with state := .verified }
  if r.offers < 4 then s1
  else match c.state with
    | .opened => s1.enterAborted i .storeFailed none
    | .hold => s1.enterAborted i .storeFailed none
    | .salvaging => s1.enterReleasing i (some .storeFailed)
    | .complete => s1
    | .aborted => s1
    | .releasing => s1

/-- TARGET_FULL (R128). -/
def State.targetFull (s : State) (i : StreamIndex) (pos : Nat) (c : Context) : State :=
  let s1 := s.modifyChunk i pos fun x => { x with state := .verified }
  match c.state with
  | .opened => s1.enterAborted i .storeFull none
  | .hold => s1.enterAborted i .storeFull none
  | .salvaging => s1.enterReleasing i c.cause
  | .complete => s1
  | .aborted => s1
  | .releasing => s1

/-- A chunk emptied by a POISONED completion (R129). -/
def ChunkRecord.poisoned (r : ChunkRecord) : ChunkRecord := { r.emptied with check := none, offers := 0 }

/-- The failure a POISONED completion counts in OPEN or HOLD and its retirement handling (R129), the chunk having had
`failures`. -/
def State.poisonedFailure (s : State) (i : StreamIndex) (pos failures : Nat) (c : Context) : State :=
  let s1 := s.modifyCtx i fun d => d.count fun k => { k with failures := satAdd k.failures 1 }
  if 3 ≤ failures then s1.enterAborted i .chunkUnrecoverable (some pos)
  else (s1.modifyCtx i fun d =>
    (d.modifyChunk pos fun x => { x with failures := failures + 1 }).notify fun n =>
      if c.state = .hold then n.addResync else n.addGap pos).retireFromChunk i pos

/-- POISONED (R129): the chunk is emptied, the failure counted, the slot sent to retirement handling. -/
def State.poisonedCompletion (s : State) (i : StreamIndex) (pos : Nat) (c : Context) (r : ChunkRecord) : State :=
  let s1 := s.modifyChunk i pos ChunkRecord.poisoned
  if c.state.receiving then s1.poisonedFailure i pos r.failures c else s1.retireFromChunk i pos

/-- A completion of a chunk `r` of a stream in OPEN, HOLD, ABORTED or SALVAGING (R125). -/
def State.completeLive (s : State) (i : StreamIndex) (pos : Nat) (c : Context) (r : ChunkRecord)
    (status : CompletionStatus) (check : Word) : State :=
  match status with
  | .stored =>
    if r.check = some check then (s.modifyChunk i pos fun x => { x with state := .stored }).orderedCommit i
    else s.storeFailure i pos c r
  | .writeFailed => s.storeFailure i pos c r
  | .targetFull => s.targetFull i pos c
  | .poisoned => s.poisonedCompletion i pos c r

/-- A completion applied to its chunk as the stream stands (R125). -/
def State.applyCompletion (s : State) (i : StreamIndex) (pos : Nat) (status : CompletionStatus) (check : Word) : State :=
  match s.ctx? i with
  | none => s
  | some c =>
    match c.state, c.window[pos]? with
    | .releasing, _ => s.endInFlight i pos (decide (status = .poisoned))
    | .complete, _ => s
    | _, some r => s.completeLive i pos c r status check
    | _, none => s

/-- A record ends with a status: the entry's parity is checked while the record is still in the map, the record leaves
it, and the status is applied (R125). -/
def State.endRecord (s : State) (d : DrainRecord) (status : CompletionStatus) (check : Word) : State :=
  let s1 := s.checkParity d.stream
  let s2 := { s1 with drainMap := s1.drainMap.filter fun r => !decide (r.drainTag = d.drainTag) }
  ((s2.applyCompletion d.stream d.pos status check).settle d.stream).poolTest

/-- COMPLETE (R125): a tag without a record is a stray completion, counted while the device is READY. -/
def execComplete (record : List Byte) (s : State) : Host.Outcome State Fault Refusal :=
  let q := parseCompletion record
  match s.drainRecord q.drainTag with
  | none => .next (if s.device = .ready then s.count .strayCompletions 1 else s)
  | some d => .next (s.endRecord d q.status q.check)

/-- DRAIN_TIMEOUT (R132): a record whose expiry is reached ends as WRITE_FAILED. -/
def execDrainTimeout (tag : Word) (s : State) : Host.Outcome State Fault Refusal :=
  match s.drainRecord tag with
  | none => .next s
  | some d => if d.expiry ≤ s.time then .next ((s.count .timeouts 1).endRecord d .writeFailed 0) else .next s

/-! ## Withdrawal at OFFLINE and at a port reset (R119, R121, R122) -/

/-- The slots that a withdrawal of a chunk of a RELEASING stream gives up, `rest` being the withdrawals that follow it at
the event (R80, R119, R156, log 14): the chunk's own while the engine holds the stream; else, with the chunk's own, the
slots before it in the order of R80, and at the stream's last withdrawal every slot left. -/
def State.slotsWithdrawn (s : State) (c : Context) (q : ChunkName) (rest : List ChunkName) : List (Slot × Nat) :=
  let slots := s.slotsInOrder q.stream c
  if s.engine.any fun o => decide (o.stream = q.stream) then slots.filter fun x => decide (x.2 = q.pos)
  else if rest.any fun r => decide (r.stream = q.stream) then
    slots.filter fun x => decide (c.slotKey x.2 ≤ c.slotKey q.pos)
  else slots

/-- One withdrawal (R119): the chunk goes back to VERIFIED, or gives its slot up when its stream is RELEASING. -/
def State.withdrawOne (s : State) (q : ChunkName) (rest : List ChunkName) : State :=
  match s.ctx? q.stream with
  | none => s
  | some c =>
    if c.state = .releasing then
      (s.modifyChunk q.stream q.pos ChunkRecord.withdrawnGivenUp).giveUpAll none (s.slotsWithdrawn c q rest)
    else s.modifyChunk q.stream q.pos ChunkRecord.withdrawn

/-- Several withdrawals, in order (R121, R122). -/
def State.withdrawEach (s : State) : List ChunkName → State
  | [] => s
  | q :: rest => (s.withdrawOne q rest).withdrawEach rest

/-- The window positions that some withdrawals name in a stream, in the order of R80. -/
def Context.namedInOrder (c : Context) (i : StreamIndex) (names : List ChunkName) : List Nat :=
  ((names.filter fun q => decide (q.stream = i)).map (·.pos)).insertionSort fun a b => c.slotKey a ≤ c.slotKey b

/-- The withdrawals of an event, one for each record in the records' order; those of one RELEASING stream meet its
chunks in the order of R80 (log 14). -/
def State.withdrawals (s : State) (names : List ChunkName) : List ChunkName :=
  names.mapIdx fun n q =>
    match s.ctx? q.stream with
    | some c =>
      if c.state = .releasing then
        let before := ((names.take n).filter fun r => decide (r.stream = q.stream)).length
        { q with pos := (c.namedInOrder q.stream names).getD before q.pos }
      else q
    | none => q

/-- The chunks the drain map names, in the order they were taken (R121). -/
def State.mapNames (s : State) : List ChunkName := s.drainMap.map fun r => ⟨r.stream, r.pos⟩

/-- The chunks the offered list names, oldest first (R122). -/
def State.offeredNames (s : State) : List ChunkName := s.offered.map fun o => ⟨o.stream, o.pos⟩

/-- The streams named, ascending. -/
def streamsNamed (names : List ChunkName) : List StreamIndex :=
  streamIndices.filter fun i => names.any fun q => decide (q.stream = i)

/-- Withdraw every drain map record (R121): parity of the named entries, then the withdrawals, then the tests each
stream's event ends with, a failing entry's among them (log 14). -/
def State.withdrawMap (s : State) : State :=
  let streams := streamsNamed s.mapNames
  let s1 := s.handleAll streams
  let s2 := s1.withdrawEach (s1.withdrawals s1.mapNames)
  { s2 with drainMap := [] }.settleAll streams

/-- Withdraw every record of the drain map and of the offered list (R122). -/
def State.withdrawAll (s : State) : State :=
  let streams := streamsNamed (s.mapNames ++ s.offeredNames)
  let s1 := s.handleAll streams
  let s2 := s1.withdrawEach (s1.withdrawals (s1.mapNames ++ s1.offeredNames))
  { s2 with drainMap := [], offered := [] }.settleAll streams

/-- WRITER_SIGNAL (R120, R121): a repeated signal changes nothing; while the device is READY a change of signal changes
the writer state. WRITER_CHANGED comes before the records that the withdrawals bring about (log 14). -/
def execWriterSignal (signal : WriterSignal) (s : State) : Host.Outcome State Fault Refusal :=
  if signal = s.signal then .next s
  else
    let s1 := { s with signal := signal }
    if s.device = .ready then
      let s2 := s1.raise (.writerChanged s1.writerState .writerSignal)
      match signal with
      | .ready => .next s2
      | .offline => .next s2.withdrawMap.poolTest
    else .next s1

/-- PORT_RESET (R122). WRITER_CHANGED comes before the records that the withdrawals bring about (log 14). -/
def execPortReset (s : State) : Host.Outcome State Fault Refusal :=
  let s1 := { s with signal := .offline }
  let s2 := match s.writerState with
    | .ready => s1.raise (.writerChanged .offline .portReset)
    | .offline => s1
  .next s2.withdrawAll.poolTest

/-! ## The drain arbiter (R117, R118) -/

/-- A drain tag is that of a record in the offered list or the drain map. -/
def State.tagInUse (s : State) (tag : Word) : Bool :=
  s.offered.any (fun o => decide (o.drainTag = tag)) || s.drainMap.any fun r => decide (r.drainTag = tag)

/-- The next drain tag: the counter is incremented until it is no present record's tag (R118). -/
def State.nextTag (s : State) : Nat → Word → Word
  | 0, t => t + 1
  | n + 1, t => if s.tagInUse (t + 1) then s.nextTag n (t + 1) else t + 1

/-- The content of an offer of a chunk (R12, R116). -/
def Context.offerOf (c : Context) (i : StreamIndex) (pos : Nat) (r : ChunkRecord) (tag : Word) : Offer where
  stream := i
  pos := pos
  drainTag := tag
  tag := c.tag
  index := r.index
  target := c.target
  block := c.base + 16 * r.index
  len := chunkLength c.final r.index
  check := r.check.getD 0

/-- An offer is made for a stream's frontier chunk (R118). -/
def State.makeOffer (s : State) (i : StreamIndex) : State :=
  match s.ctx? i with
  | none => s
  | some c =>
    match c.frontier with
    | none => s
    | some x =>
      let tag := s.nextTag Config.drainDepth s.tagCounter
      let rewrite := decide (1 ≤ x.2.offers)
      let d := (c.modifyChunk x.1 fun r => { r with state := .offered, offers := r.offers + 1 }).count fun k =>
        { k with rewrites := if rewrite then satAdd k.rewrites 1 else k.rewrites }
      let s1 := { s with tagCounter := tag, arbiter := i, offered := s.offered ++ [c.offerOf i x.1 x.2 tag] }
      let s2 := s1.setCtx i { d with streaming := true }
      (if rewrite then s2.count .rewrites 1 else s2).settle i

/-- A stream the arbiter may serve (R115). -/
def State.offerableAt (s : State) (i : StreamIndex) : Bool :=
  match s.ctx? i with
  | some c => c.offerable
  | none => false

/-- The arbiter reads the streams in order with their parity checked and serves the first that is offerable (R117). -/
def State.serveFirst (s : State) (order : List StreamIndex) : State :=
  let r := s.turn order s.offerableAt
  match r.2 with
  | some i => r.1.makeOffer i
  | none => r.1

/-- Records in the offered list and the drain map together (R116). -/
def State.drainLoad (s : State) : Nat := s.offered.length + s.drainMap.length

/-- ARBITER_TURN (R117): made while the device is READY, there is room and a stream is offerable. -/
def execArbiterTurn (s : State) : Host.Outcome State Fault Refusal :=
  if s.device = .ready ∧ s.drainLoad < Config.drainDepth ∧ streamIndices.any s.offerableAt then
    .next (s.serveFirst (turnOrder s.arbiter)).poolTest
  else .next s

end Sys2Proof.Machine
end

