-- ==== Sys2Proof/Machine/Startup.lean ====
section
/-! DEFINITION. The resets (R175) and the self-test (R174): RESET, POWER_ON_RESET, BUFFER_WALK, STREAM_TABLE_TEST,
KNOWN_ANSWER. -/

namespace Sys2Proof.Machine

/-! ## Resets (R175) -/

/-- The Slot Pool after device reset (R93): retirement and the marks of retired slots are kept. -/
def Pool.afterDeviceReset (p : Pool) : Pool where
  freeList := (List.finRange 2048).filter fun slot => !decide (p.use slot = .retired)
  uses := p.uses.filter fun c => decide (c.2 = .retired)
  marks := p.marks.filter fun c => decide (p.use c.1 = .retired)
  reserve := 0
  state := .ok

/-- What a reset of either kind leaves, with the pool and the drain tag counter it sets: every block as after
power-on, the partners' levels sampled (R36, R120), a lane reset signalled on every lane (R38). The chunk buffer stays as
it is until the buffer walk (R93, log 21); the model's own fields are kept. -/
def State.restarted (s : State) (sample : ResetSample) (pool : Pool) (tagCounter : Word) : State :=
  { State.reset with
    lanes := sample.links.map Lane.reset
    signal := sample.signal
    pool := pool
    tagCounter := tagCounter
    buffer := s.buffer
    words := s.words
    ports := { s.ports with laneResetSignals := s.ports.laneResetSignals + 1 }
    disturbances := s.disturbances
    freeCount := s.freeCount
    pending := s.pending }

/-- RESET (R175): taken like any command, in every device state; its DONE joins the emptied response queue. -/
def execReset (sample : ResetSample) (s : State) : Host.Outcome State Fault Refusal :=
  .next (s.takeWhen (fun c => decide (c = 14)) fun t record =>
    (t.restarted sample t.pool.afterDeviceReset t.tagCounter).respond record .done [])

/-- POWER_ON_RESET (R175): the retired set and the drain tag counter are cleared as well. -/
def execPowerOnReset (sample : ResetSample) (s : State) : Host.Outcome State Fault Refusal :=
  .next (s.restarted sample .reset 0)

/-! ## The self-test (R174) -/

/-- A buffer word lies in a retired slot, which the walk skips (R93). -/
def State.inRetired (s : State) (w : Nat) : Bool :=
  decide (s.pool.use (Fin.ofNat 2048 (w / (Config.chunkSize / Config.wordBytes))) = .retired)

/-- What the walk leaves: every word of a slot not retired written 0 and sound, retired slots untouched (R93, log 8). -/
def State.walked (s : State) : State :=
  { s with buffer := s.buffer.filter fun c => s.inRetired (c.1 / Config.wordBytes)
           words := s.words.filter fun c => s.inRetired c.1 }

/-- BUFFER_WALK (R174): the walk fails when a word of a slot it tests read back wrong. -/
def execBufferWalk (badWords : List Nat) (s : State) : Host.Outcome State Fault Refusal :=
  if s.device = .starting .bufferWalk then
    let d : DeviceState := if badWords.all s.inRetired then .starting .tableTest else .failed .bufferWalk
    .next { s.walked with device := d }
  else .next s

/-- STREAM_TABLE_TEST (R174): every entry is left FREE with good parity. -/
def execStreamTableTest (badEntries : List Nat) (s : State) : Host.Outcome State Fault Refusal :=
  if s.device = .starting .tableTest then
    let d : DeviceState := if badEntries.isEmpty then .starting .knownAnswer else .failed .tableTest
    .next { s with table := [], device := d }
  else .next s

/-- A lane at the entry to READY: ACTIVE when its link status is up (R38). -/
def State.laneAtReady (s : State) (l : LaneId) : State :=
  let v := s.lane l
  if v.link = .up ∧ v.state = .down then s.laneActive l (v.up s.pool.state) .deviceReady else s

/-- The entry to READY (R174): lanes ascending, then the writer, and the first interval begins. -/
def State.enterReady (s : State) : State :=
  let s1 := { s with device := .ready, intervalStart := s.time }
  let s2 := laneIds.foldl State.laneAtReady s1
  if s.signal = .ready then s2.raise (.writerChanged .ready .deviceReady) else s2

/-- The check the engine computes over the known-answer input, with the bits a fault inverts (R7, log 17). -/
def knownAnswerResult (flips : Word) : Word := checkOf knownAnswerInput ^^^ flips

/-- KNOWN_ANSWER (R7, R174): a pass enters READY, a fail enters FAILED. -/
def execKnownAnswer (flips : Word) (s : State) : Host.Outcome State Fault Refusal :=
  if s.device = .starting .knownAnswer then
    if knownAnswerResult flips = knownAnswerValue then .next s.enterReady.poolTest
    else .next { s with device := .failed .knownAnswer }
  else .next s

end Sys2Proof.Machine
end

