-- ==== Sys2Proof/Machine/StreamCommands.lean ====
section
/-! DEFINITION. The host's stream commands (R25 to R31) and QUERY (R173). -/

namespace Sys2Proof.Machine

/-! ## OPEN (R25) -/

/-- The first condition of R25's table. -/
def OpenParams.bad (p : OpenParams) : Bool :=
  decide (p.tag = 0 ∨ p.w = 0 ∨ p.cap = 0 ∨ p.start % Config.chunkSize ≠ 0 ∨
    Config.chunkSize * min p.cap Config.capLimit ≤ p.start)

/-- The clamps of R25, in its order. -/
def OpenParams.clamped (p : OpenParams) : OpenParams :=
  let w := min p.w 8
  let cap := min p.cap Config.capLimit
  { p with w := w
           b := if p.b < 1 then 1 else min p.b w
           t := min p.t 8
           cap := cap
           reserve := if cap ≤ p.reserve then cap - 1 else p.reserve }

/-- The chunk that window position p describes for a head and W (R52). -/
def describedChunk (head w p : Nat) : Nat := head + (p + w - head % w) % w

/-- The context OPEN writes, from clamped parameters (R25, R18 to R22). -/
def OpenParams.context (p : OpenParams) (time : Nat) (reply : Option LaneId) : Context where
  state := .opened
  cause := none
  tag := p.tag
  w := p.w
  b := p.b
  t := p.t
  pattern := p.pattern
  target := p.target
  base := p.base
  cap := p.cap
  reserve := p.reserve
  committed := p.start
  final := none
  window := (List.range p.w).map fun j => .fresh (describedChunk (p.start / Config.chunkSize) p.w j)
  history := []
  holdFailures := 0
  streaming := false
  flushPending := false
  earlyWarningIssued := false
  capacityReached := false
  idleReported := false
  lastArrival := time
  notices := .none
  replyLane := reply
  counts := ⟨0, 0, 0, 0, 0, 0, 0, 0, 0, 0, 0, 0, 0, 0⟩

/-- The data of OPEN's DONE response (11.4). -/
def OpenParams.answer (p : OpenParams) (i : StreamIndex) : List Byte :=
  le 2 i.val ++ le 1 p.w ++ le 1 p.b ++ le 1 p.t ++ le 3 0 ++ le 8 p.cap ++ le 8 p.reserve

/-- The way OPEN takes: way 0 of the row if FREE, else way 1 if FREE (R25). -/
def State.freeWay (s : State) (tag : Nat) : Option StreamIndex :=
  if s.ctx? (wayOf tag 0) = none then some (wayOf tag 0)
  else if s.ctx? (wayOf tag 1) = none then some (wayOf tag 1)
  else none

/-- An accepted OPEN (R25): the context is written, the head reserve rises by 1. -/
def State.openAt (s : State) (record : List Byte) (i : StreamIndex) (p : OpenParams) : State :=
  ((s.setCtx i (p.context s.time s.lowestActive)).raiseReserve 1).respond record .done (p.answer i)

/-- OPEN's body (R25): the conditions in order, then the acceptance. -/
def State.openBody (s : State) (record : List Byte) : State :=
  let p := parseOpen record
  if p.bad then s.respond record .badParam []
  else
    let l := s.lookup p.tag
    match l.2 with
    | .contextError => l.1.respond record .contextError []
    | .found _ _ => l.1.respond record .tagInUse []
    | .notFound =>
      match l.1.freeWay p.tag with
      | none => l.1.respond record .rowFull []
      | some i =>
        if l.1.pool.spare = 0 then l.1.respond record .noSpace []
        else l.1.openAt record i p.clamped

/-- OPEN (R25). -/
def execOpen (s : State) : Host.Outcome State Fault Refusal := .next (s.takeCommand 1 State.openBody)

/-! ## Commands that name a stream by tag -/

/-- The lookup that every such command makes first (R14, section 2.4). -/
def State.onStream (s : State) (record : List Byte) (body : State → StreamIndex → Context → State) : State :=
  let l := s.lookup (commandTag record)
  match l.2 with
  | .contextError => l.1.respond record .contextError []
  | .notFound => l.1.respond record .noStream []
  | .found i c => body l.1 i c

/-- CLOSE (R26). -/
def State.closeBody (s : State) (record : List Byte) : State :=
  s.onStream record fun t i c =>
    if c.state = .complete then (t.freeEntry i).respond record .done [] else t.respond record .wrongState []

/-- CLOSE (R26). -/
def execClose (s : State) : Host.Outcome State Fault Refusal := .next (s.takeCommand 2 State.closeBody)

/-- ABORT's effect by stream state (R27). -/
def State.abortBody (s : State) (record : List Byte) : State :=
  s.onStream record fun t i c =>
    match c.state with
    | .opened => ((t.enterAborted i .hostAbort none).settle i).respond record .done []
    | .hold => ((t.enterAborted i .hostAbort none).settle i).respond record .done []
    | .aborted => t.respond record .done []
    | .complete => t.respond record .wrongState []
    | .salvaging => t.respond record .wrongState []
    | .releasing => t.respond record .wrongState []

/-- ABORT (R27). -/
def execAbort (s : State) : Host.Outcome State Fault Refusal := .next (s.takeCommand 3 State.abortBody)

/-- RELEASE's effect by stream state (R28, R155): the return to FREE comes before the response. -/
def State.releaseBody (s : State) (record : List Byte) : State :=
  s.onStream record fun t i c =>
    match c.state with
    | .aborted => ((t.enterReleasing i c.cause).settle i).respond record .done []
    | .salvaging => ((t.enterReleasing i c.cause).settle i).respond record .done []
    | .releasing => t.respond record .done []
    | .opened => t.respond record .wrongState []
    | .hold => t.respond record .wrongState []
    | .complete => t.respond record .wrongState []

/-- RELEASE (R28). -/
def execRelease (s : State) : Host.Outcome State Fault Refusal := .next (s.takeCommand 4 State.releaseBody)

/-- SALVAGE's effect (R29, R152, R153). -/
def State.salvageBody (s : State) (record : List Byte) : State :=
  s.onStream record fun t i c =>
    if c.state = .aborted ∧ c.pattern = false then
      ((t.setCtx i { c with state := .salvaging }).settle i).respond record .done []
    else t.respond record .wrongState []

/-- SALVAGE (R29). -/
def execSalvage (s : State) : Host.Outcome State Fault Refusal := .next (s.takeCommand 5 State.salvageBody)

/-! ## EXTEND (R30) -/

/-- EXTEND's clamped cap_chunks (R30). -/
def extendCap (record : List Byte) : Nat := min (fieldAt record 24 8) Config.capLimit

/-- EXTEND's reserve_chunks, clamped against the new cap_chunks (R30). -/
def extendReserve (record : List Byte) : Nat :=
  let r := fieldAt record 32 8
  if extendCap record ≤ r then extendCap record - 1 else r

/-- The context after an accepted EXTEND (R30): COMMIT is added when the window end rises. -/
def Context.extended (c : Context) (cap reserve : Nat) : Context :=
  let d := { c with cap := cap, reserve := reserve, earlyWarningIssued := false, capacityReached := false }
  if c.windowEnd < d.windowEnd then d.notify .addCommit else d

/-- EXTEND's effect (R30). -/
def State.extendBody (s : State) (record : List Byte) : State :=
  s.onStream record fun t i c =>
    if c.state.receiving = false then t.respond record .wrongState []
    else if extendCap record < c.cap then t.respond record .badParam []
    else
      (t.setCtx i (c.extended (extendCap record) (extendReserve record))).respond record .done
        (le 8 (extendCap record) ++ le 8 (extendReserve record))

/-- EXTEND (R30). -/
def execExtend (s : State) : Host.Outcome State Fault Refusal := .next (s.takeCommand 6 State.extendBody)

/-! ## FLUSH and QUERY -/

/-- FLUSH's effect (R31); the test of R114 follows at the same event. -/
def State.flushBody (s : State) (record : List Byte) : State :=
  s.onStream record fun t i c =>
    if c.state.receiving then ((t.setCtx i { c with flushPending := true }).settle i).respond record .done []
    else t.respond record .wrongState []

/-- FLUSH (R31). -/
def execFlush (s : State) : Host.Outcome State Fault Refusal := .next (s.takeCommand 7 State.flushBody)

/-- QUERY (R173): a stream in any live state is answered with its context as it stands. -/
def State.queryBody (s : State) (record : List Byte) : State :=
  s.onStream record fun t _ c => t.respond record .done c.queryData

/-- QUERY (R173). -/
def execQuery (s : State) : Host.Outcome State Fault Refusal := .next (s.takeCommand 8 State.queryBody)

end Sys2Proof.Machine
end

