-- ==== Sys2Proof/Machine/Timers.lean ====
section
/-! DEFINITION. What the passing of time brings about: SCRUB (R32), IDLE_EXPIRY (R159), INTERVAL_EXPIRY (R169), and the
device time itself with the upsets of the physical world (R165, log 2 to 5). -/

namespace Sys2Proof.Machine

/-- SCRUB (R32): the parity of the entry at the scrub position is checked and the position advances, 511 back to 0. -/
def execScrub (s : State) : Host.Outcome State Fault Refusal :=
  if s.device = .ready then
    .next { s.checkParity s.scrubPosition with scrubPosition := s.scrubPosition + 1 }.poolTest
  else .next s

/-- IDLE_EXPIRY (R159): tested only while the device is READY and the limit is above 0. -/
def execIdleExpiry (stream : StreamIndex) (s : State) : Host.Outcome State Fault Refusal :=
  if s.device = .ready ∧ 0 < s.settings.idleLimit then .next (s.idleTest stream).poolTest else .next s

/-- INTERVAL_EXPIRY (R169): the timer runs only while the device is READY. -/
def execIntervalExpiry (s : State) : Host.Outcome State Fault Refusal :=
  if s.device = .ready ∧ s.intervalDue = true then .next s.endInterval else .next s

/-- One millisecond passes (R165); after 2^64 - 1 the time is a free value (log 4). -/
def State.tick (s : State) : State :=
  if s.time < Config.count64Max then { s with time := s.time + 1 }
  else { s with time := Config.timeAfterLast s.freeCount % (Config.count64Max + 1), freeCount := s.freeCount + 1 }

/-- The eight bytes of a word are upset (log 3). -/
def upsetBytes (m : List Host.Cell) (w : Nat) (bytes : Vector Byte 8) : List Host.Cell :=
  (List.finRange 8).foldl (fun t j => cellPut unwrittenByte t (Config.wordBytes * w + j.val) bytes[j]) m

/-- An upset strikes (log 3): an entry's content no longer fits its parity; a word shows a single-bit error, or is
uncorrectable and reads as other bytes. -/
def State.strike (s : State) : Disturbance → State
  | .entry i content => s.setEntry i ⟨false, content⟩
  | .correctable w =>
    { s with words := cellPut .sound s.words w.val (match cellGet .sound s.words w.val with
        | .uncorrectable => .uncorrectable
        | _ => .correctable) }
  | .uncorrectable w bytes =>
    { s with words := cellPut .sound s.words w.val .uncorrectable, buffer := upsetBytes s.buffer w.val bytes }

/-- A step without a command (log 2, 3): the next upset strikes, or one millisecond passes. -/
def State.idle (s : State) : State :=
  match s.disturbances with
  | d :: rest => { s with disturbances := rest }.strike d
  | [] => s.tick

end Sys2Proof.Machine
end

