-- ==== Sys2Proof/Machine/Verify.lean ====
section
/-! DEFINITION. The Check Unit (06_chunk_verification.md): ENGINE_TAKE and VERIFY_COMPLETION. -/

namespace Sys2Proof.Machine

/-! ## The take (R98) -/

/-- The take of a queue entry whose stream's entry has sound parity: the chunk becomes VERIFYING and the engine BUSY. -/
def State.startVerify (s : State) (q : ChunkName) : State :=
  match s.ctx? q.stream with
  | none => s
  | some c =>
    match c.window[q.pos]? with
    | none => s
    | some r =>
      match r.slot with
      | none => s
      | some slot =>
        { s.modifyChunk q.stream q.pos fun x => { x with state := .verifying } with
          engine := some ⟨q.stream, q.pos, r.index, slot, chunkLen c.final r.index, c.pattern⟩ }.settle q.stream

/-- ENGINE_TAKE (R98): the IDLE engine takes the head of the verify queue while the device is READY. When the entry's
parity fails, the taken chunk is emptied with the stream's others and the engine stays IDLE. -/
def execEngineTake (s : State) : Host.Outcome State Fault Refusal :=
  match s.verifyQueue with
  | [] => .next s
  | q :: rest =>
    if s.device = .ready ∧ s.engine = none then
      if (s.entry q.stream).parityGood then .next ({ s with verifyQueue := rest }.startVerify q).poolTest
      else
        let t := s.checkParity q.stream
        .next { t with verifyQueue := t.verifyQueue.erase q }.poolTest
    else .next s

/-! ## The outcome (R8, R9, R11) -/

/-- The fail reasons (R9). -/
inductive FailReason where
  | bufferError | checkMismatch | numberMismatch
  deriving DecidableEq, Repr

/-- What the engine hands over: a pass with its check value, a pass of a pattern chunk with its mismatch count, a fail
with its reason (R9, R11). -/
inductive Verification where
  | pass (check : Word)
  | compared (mismatches : Nat)
  | fail (reason : FailReason)
  deriving DecidableEq, Repr

/-- The outcome of a non-pattern chunk by the table of R9: `unread` when an uncorrectable word was met. -/
def verdictOf (bytes : List Byte) (k : Nat) (unread : Bool) : Verification :=
  if unread then .fail .bufferError
  else if chunkCheck bytes ≠ trailerCheck bytes then .fail .checkMismatch
  else if trailerNumber bytes ≠ k % 4294967296 then .fail .numberMismatch
  else .pass (trailerCheck bytes)

/-- The mismatched bytes of a pattern chunk (R11): bytes that differ from P, and every byte of an uncorrectable word. -/
def State.mismatches (s : State) (o : EngineOp) : Nat :=
  ((List.range o.len.val).filter fun y =>
    decide (s.condition o.slot (y / Config.wordBytes) = .uncorrectable ∨
      s.byteAt (bufferAddress o.slot y) ≠ patternByte (Config.chunkSize * o.index + y))).length

/-- The words a verification reads (R8). -/
def EngineOp.words (o : EngineOp) : List Nat := wordsOf 0 o.len.val

/-- The outcome of the engine's operation. -/
def State.verification (s : State) (o : EngineOp) : Verification :=
  if o.pattern then .compared (s.mismatches o)
  else verdictOf (s.slotBytes o.slot 0 o.len.val) o.index (decide (s.countWords o.slot o.words .uncorrectable ≠ 0))

/-! ## The outcome applied (R101 to R110) -/

/-- An outcome is appended to the outcome history, the oldest of 8 dropped (R19). -/
def Context.recordVerdict (c : Context) (v : Verdict) : Context :=
  { c with history := (c.history ++ [v]).drop (c.history.length + 1 - Config.historyLimit) }

/-- The fails in the outcome history (R106). -/
def Context.fails (c : Context) : Nat := c.history.count .fail

/-- A chunk that passes: VERIFIED with its check value, or STORED for a pattern chunk (R101, R103). -/
def ChunkRecord.passed (r : ChunkRecord) : Option Word → ChunkRecord
  | some v => { r with state := .verified, check := some v }
  | none => { r with state := .stored }

/-- The device counters of a completion (R111). -/
def State.countVerification (s : State) : Verification → State
  | .pass _ => s.count .chunksVerified 1
  | .compared n => (s.count .chunksVerified 1).count .patternErrors n
  | .fail _ => s.count .chunksFailed 1

/-- A pass in HOLD returns the stream to OPEN (R102); this exit from HOLD alone clears the history and the hold failures
(log 29). -/
def State.resume (s : State) (i : StreamIndex) (c : Context) : State :=
  if c.state = .hold then
    (s.modifyCtx i fun d => { d with state := .opened, history := [], holdFailures := 0 }).raise
      (.streamResumed i c.tag c.committed)
  else s

/-- A pass of a stream in OPEN or HOLD (R101, R102). -/
def State.passReceiving (s : State) (i : StreamIndex) (pos : Nat) (c : Context) (check : Word) : State :=
  (s.modifyCtx i fun d =>
    ((d.modifyChunk pos fun r => r.passed (some check)).recordVerdict .pass).notify fun n => n.removeGap pos).resume i c

/-- A pattern chunk's mismatch count is added to its stream (R103, R109, R111). -/
def Context.addPatternErrors (c : Context) (n : Nat) : Context :=
  c.count fun k => { k with patternErrors := satAdd k.patternErrors n }

/-- A pattern chunk's pass of a stream in OPEN or HOLD (R103). -/
def State.comparedReceiving (s : State) (i : StreamIndex) (pos n : Nat) (c : Context) : State :=
  ((s.modifyCtx i fun d =>
    ((d.modifyChunk pos fun r => r.passed none).recordVerdict .pass).addPatternErrors n).resume i c).orderedCommit i

/-- Entry to HOLD (R107). -/
def State.enterHold (s : State) (i : StreamIndex) (c : Context) : State :=
  let s1 := (s.modifyCtx i fun d => { d with state := .hold }).clearQueue i
  let s2 := s1.modifyCtx i fun d => d.emptyUnverified.notify fun n => { n with gaps := [], resync := true }
  s2.raise (.streamHold i c.tag c.committed c.fails)

/-- The test of R106 for a stream in OPEN, `c` being its context with the new fail recorded. -/
def State.testThreshold (s : State) (i : StreamIndex) (pos : Nat) (c : Context) : State :=
  if 1 ≤ c.t ∧ c.t ≤ c.fails then s.enterHold i c
  else s.modifyCtx i fun d => d.notify fun n => n.addGap pos

/-- The chunk whose slot a fail sends to retirement handling: the failed one, for BUFFER_ERROR (R105, R109). -/
def FailReason.retiring (pos : Nat) : FailReason → Option Nat
  | .bufferError => some pos
  | .checkMismatch => none
  | .numberMismatch => none

/-- A fail in HOLD that is not a chunk's fourth (R108), `c` being the stream's context. -/
def State.failInHold (s : State) (i : StreamIndex) (c : Context) (retiring : Option Nat) : State :=
  let s1 := s.modifyCtx i fun d => { d with holdFailures := d.holdFailures + 1 }
  if c.holdFailures + 1 < 3 then (s1.modifyCtx i fun d => d.notify .addResync).retireGiven i retiring
  else s1.enterAborted i .pathUnreliable retiring

/-- A fail of a stream in OPEN or HOLD (R104 to R106, R108). -/
def State.failReceiving (s : State) (i : StreamIndex) (pos : Nat) (c : Context) (retiring : Option Nat) : State :=
  let before := (c.window[pos]?).elim 0 (·.failures)
  let d := ((c.modifyChunk pos fun r => { r.emptied with failures := min (before + 1) 3 }).recordVerdict .fail).count
    fun k => { k with failures := satAdd k.failures 1 }
  let s1 := s.setCtx i d
  if 3 ≤ before then s1.enterAborted i .chunkUnrecoverable retiring
  else if c.state = .hold then s1.failInHold i d retiring
  else (s1.testThreshold i pos d).retireGiven i retiring

/-- The outcome for a stream in OPEN or HOLD (R101 to R108). -/
def State.outcomeReceiving (s : State) (i : StreamIndex) (pos : Nat) (c : Context) : Verification → State
  | .pass check => s.passReceiving i pos c check
  | .compared n => s.comparedReceiving i pos n c
  | .fail reason => s.failReceiving i pos c (reason.retiring pos)

/-- The outcome for a stream in ABORTED or SALVAGING (R109). -/
def State.outcomeStopped (s : State) (i : StreamIndex) (pos : Nat) : Verification → State
  | .pass check => s.modifyChunk i pos fun r => r.passed (some check)
  | .compared n =>
    (s.modifyCtx i fun d => (d.modifyChunk pos fun r => r.passed none).addPatternErrors n).orderedCommit i
  | .fail reason => (s.modifyChunk i pos ChunkRecord.emptied).retireGiven i (reason.retiring pos)

/-- The outcome applied as the stream stands (R100). -/
def State.applyOutcome (s : State) (i : StreamIndex) (pos : Nat) (v : Verification) : State :=
  match s.ctx? i with
  | none => s
  | some c =>
    match c.state with
    | .opened => s.outcomeReceiving i pos c v
    | .hold => s.outcomeReceiving i pos c v
    | .aborted => s.outcomeStopped i pos v
    | .salvaging => s.outcomeStopped i pos v
    | .releasing => s.endInFlight i pos false
    | .complete => s

/-- VERIFY_COMPLETION (R100): the read reports what its ECC showed, the entry's parity is checked, the engine becomes
IDLE and the outcome is applied whole (log 23). The bytes and ECC of every word are read as they stand at the completion,
between the take and which R98 and R99 place the read (log 20). -/
def execVerifyCompletion (s : State) : Host.Outcome State Fault Refusal :=
  match s.engine with
  | none => .next s
  | some o =>
    let v := s.verification o
    let s1 := (s.reportRead o.slot o.words o.stream o.index).checkParity o.stream
    let s2 := { s1 with engine := none }.countVerification v
    .next ((s2.applyOutcome o.stream o.pos v).settle o.stream).poolTest

end Sys2Proof.Machine
end

