-- ==== Sys2Proof/Machine/Dispatch.lean ====
section
/-! DEFINITION. The effect of a command on everything but the queue of commands: one arm per row of the table. -/

namespace Sys2Proof.Machine

def exec (i : Instr) (s : State) : Host.Outcome State Fault Refusal :=
  match i with
  -- the Segment Lanes and the Notice Generator
  | .pushSegment lane record => Sys2Proof.Machine.execPushSegment lane record s
  | .linkUp lane => Sys2Proof.Machine.execLinkUp lane s
  | .linkDown lane => Sys2Proof.Machine.execLinkDown lane s
  | .laneReset lane => Sys2Proof.Machine.execLaneReset lane s
  | .noticeTake lane => Sys2Proof.Machine.execNoticeTake lane s
  | .segmentTake lane => Sys2Proof.Machine.execSegmentTake lane s
  | .noticePlacement lane => Sys2Proof.Machine.execNoticePlacement lane s
  -- the drain port
  | .take => Sys2Proof.Machine.execTake s
  | .read record => Sys2Proof.Machine.execRead record s
  | .complete record => Sys2Proof.Machine.execComplete record s
  | .writerSignal signal => Sys2Proof.Machine.execWriterSignal signal s
  | .portReset => Sys2Proof.Machine.execPortReset s
  | .arbiterTurn => Sys2Proof.Machine.execArbiterTurn s
  | .drainTimeout tag => Sys2Proof.Machine.execDrainTimeout tag s
  -- the Check Unit
  | .engineTake => Sys2Proof.Machine.execEngineTake s
  | .verifyCompletion => Sys2Proof.Machine.execVerifyCompletion s
  -- the control port
  | .commandWrite record => Sys2Proof.Machine.execCommandWrite record s
  | .openCmd => Sys2Proof.Machine.execOpen s
  | .closeCmd => Sys2Proof.Machine.execClose s
  | .abortCmd => Sys2Proof.Machine.execAbort s
  | .releaseCmd => Sys2Proof.Machine.execRelease s
  | .salvageCmd => Sys2Proof.Machine.execSalvage s
  | .extendCmd => Sys2Proof.Machine.execExtend s
  | .flushCmd => Sys2Proof.Machine.execFlush s
  | .queryCmd => Sys2Proof.Machine.execQuery s
  | .laneCmd => Sys2Proof.Machine.execLane s
  | .configureCmd => Sys2Proof.Machine.execConfigure s
  | .countersCmd => Sys2Proof.Machine.execCounters s
  | .clearErrorsCmd => Sys2Proof.Machine.execClearErrors s
  | .statusCmd => Sys2Proof.Machine.execStatus s
  | .resetCmd sample => Sys2Proof.Machine.execReset sample s
  | .unknownCommand => Sys2Proof.Machine.execUnknownCommand s
  | .responseQueueRead => Sys2Proof.Machine.execResponseQueueRead s
  | .eventQueueRead => Sys2Proof.Machine.execEventQueueRead s
  -- resets, self-test, timers
  | .powerOnReset sample => Sys2Proof.Machine.execPowerOnReset sample s
  | .bufferWalk badWords => Sys2Proof.Machine.execBufferWalk badWords s
  | .streamTableTest badEntries => Sys2Proof.Machine.execStreamTableTest badEntries s
  | .knownAnswer flips => Sys2Proof.Machine.execKnownAnswer flips s
  | .scrub => Sys2Proof.Machine.execScrub s
  | .idleExpiry stream => Sys2Proof.Machine.execIdleExpiry stream s
  | .intervalExpiry => Sys2Proof.Machine.execIntervalExpiry s

end Sys2Proof.Machine
end

