-- ==== Sys2Proof/Safety.lean ====
section
/-! DEFINITION. What a sound state of the device is, in the terms the statements use: the invariants the spec's rules
promise, and the words for what a command changes. -/

namespace Sys2Proof.Machine

/-! ## Observations -/

/-- A live device counter (R168). -/
def State.counter (s : State) (k : Counter) : Count := s.live[k.place]

/-- From `s` to `t` the live counter `k` alone moved, by an addition of `n`. -/
def Counted (s t : State) (k : Counter) (n : Nat) : Prop :=
  ∀ j, t.counter j = if j = k then (s.counter j).add n else s.counter j

/-- Every entry but the one at `i` is as it was. -/
def OtherEntries (s t : State) (i : StreamIndex) : Prop := ∀ j, j ≠ i → t.entry j = s.entry j

/-- Every lane but `l` is as it was. -/
def OtherLanes (s t : State) (l : LaneId) : Prop := ∀ m, m ≠ l → t.lane m = s.lane m

/-- An event has been queued, or discarded as R164 states, since `s`; nothing else was raised. -/
def Raised (s t : State) (e : Event) : Prop :=
  t.events = (s.raise e).events ∧ t.errors = (s.raise e).errors

/-- Every live counter but these is as it was. -/
def CountersKept (s t : State) (except : List Counter) : Prop := ∀ k, k ∉ except → t.counter k = s.counter k

/-- An entry holds this context, with good parity. -/
def Holds (s : State) (i : StreamIndex) (c : Context) : Prop := s.entry i = ⟨true, some c⟩

/-- Every entry has good parity: no upset of the table is waiting to be found. -/
def AllParityGood (s : State) : Prop := ∀ i, (s.entry i).parityGood = true

/-- The flags streaming and flush pending of a context `after` an event are those of `before` with the tests of R114
made on the chunks as the event left them. -/
def FlagsTested (before after : Context) : Prop :=
  after.streaming = (before.streaming && (after.frontierVerified || after.inWritersHands)) ∧
    after.flushPending = (before.flushPending && after.frontierVerified)

/-- The record at one window position is `r`; every other position is as it was. -/
def OneRecord (before after : Context) (pos : Nat) (r : ChunkRecord) : Prop :=
  after.window[pos]? = some r ∧ ∀ p, p ≠ pos → after.window[p]? = before.window[p]?

/-- A chunk record after some withdrawals of offers that name it (R119): back in VERIFIED, an offer less for each. -/
def ChunkRecord.withdrawnBy (r : ChunkRecord) (n : Nat) : ChunkRecord :=
  if n = 0 then r else { r with state := .verified, offers := r.offers - n }

/-- A chunk record after its verify queue entries, if any, are removed (R96). -/
def ChunkRecord.unqueuedBy (r : ChunkRecord) (n : Nat) : ChunkRecord :=
  if n = 0 then r else { r with state := .empty, ranges := [] }

/-- A chunk record after its stream's entry to ABORTED (R150): `offers` offers withdrawn, `entries` verify queue entries
removed, and a chunk in FILLING or QUEUED emptied with its slot kept. -/
def ChunkRecord.atAbort (r : ChunkRecord) (offers entries : Nat) : ChunkRecord :=
  let x := (r.withdrawnBy offers).unqueuedBy entries
  if x.state = .filling ∨ x.state = .queued then { x with state := .empty, ranges := [] } else x

/-- How many offers in the offered list name a chunk. -/
def State.offersAt (s : State) (i : StreamIndex) (pos : Nat) : Nat :=
  (s.offered.filter fun o => decide (o.stream = i ∧ o.pos = pos)).length

/-- How many drain map records name a chunk. -/
def State.takenAt (s : State) (i : StreamIndex) (pos : Nat) : Nat :=
  (s.drainMap.filter fun r => decide (r.stream = i ∧ r.pos = pos)).length

/-- How many verify queue entries name a chunk. -/
def State.queuedAt (s : State) (i : StreamIndex) (pos : Nat) : Nat :=
  (s.verifyQueue.filter fun q => decide (q.stream = i ∧ q.pos = pos)).length

/-- The drain tags of the records present (R118). -/
def State.tagsPresent (s : State) : List Word := s.offered.map (·.drainTag) ++ s.drainMap.map (·.drainTag)

/-- The slots of a stream's chunks at or above chunk `k`, in chunk order (R61, R80). -/
def State.slotsFrom (s : State) (i : StreamIndex) (c : Context) (k : Nat) : List Slot :=
  (c.ring.filter fun x => decide (k ≤ x.2.index) && x.2.slot.isSome).filterMap fun x => s.pool.slotOf i x.1

/-- From `s` to `t` these slots are given up, in this order (R80, R85, R91). Each joins the tail of the free list with its
mark cleared, or is retired with its mark as it is. A retired one was marked, or is the one whose chunk POISONED ended
(R130); every such one is retired where the limit leaves room for all of them and the head reserve is met by the slots free
before; none is where the limit is reached or the reserve cannot be met. -/
def SlotsGivenUp (s t : State) (given : List Slot) (poisoned : Option Slot := none) : Prop :=
  ∃ freed : List Slot, freed.Sublist given ∧ t.pool.freeList = s.pool.freeList ++ freed ∧
    (∀ slot, slot ∉ given → t.pool.use slot = s.pool.use slot ∧ t.pool.mark slot = s.pool.mark slot) ∧
    (∀ slot, slot ∈ given → if slot ∈ freed then t.pool.use slot = .free ∧ t.pool.mark slot = false
      else t.pool.use slot = .retired ∧ (s.pool.mark slot = true ∨ poisoned = some slot) ∧
        t.pool.mark slot = s.pool.mark slot) ∧
    (s.pool.retiredCount + given.length ≤ 64 → t.pool.reserve ≤ s.pool.free →
      ∀ slot ∈ given, s.pool.mark slot = true ∨ poisoned = some slot → slot ∉ freed) ∧
    (64 ≤ s.pool.retiredCount ∨ s.pool.free + given.length ≤ t.pool.reserve → freed = given) ∧
    t.counter .retiredSlots =
      Nat.iterate (fun x : Count => x.add 1) (given.length - freed.length) (s.counter .retiredSlots)

/-- What entry to ABORTED does to a stream (R150), the head reserve apart: `c` is its context when it enters, `d` the
context it leaves. -/
def EnteredAborted (s t : State) (i : StreamIndex) (c d : Context) (cause : Cause) : Prop :=
  d = { c with
    state := .aborted, cause := some cause
    notices := { c.notices with resync := false, gaps := [], stop := true }
    window := d.window, streaming := d.streaming, flushPending := d.flushPending } ∧
  (∀ p, d.window[p]? = (c.window[p]?).map fun r : ChunkRecord => r.atAbort (s.offersAt i p) (s.queuedAt i p)) ∧
  FlagsTested c d ∧ Holds t i d ∧ OtherEntries s t i ∧
  t.offered = (s.offered.filter fun o => decide (o.stream ≠ i)) ∧
  t.verifyQueue = (s.verifyQueue.filter fun q => decide (q.stream ≠ i)) ∧
  Raised s t (.streamAborted i c.tag cause c.committed)

/-- The return of an entry to FREE (R156): every slot recorded for it is given up, in ascending chunk index of the records
or, for a detached entry, ascending window position (R80), and STREAM_RELEASED is raised with what the context held.
`poisoned` is the slot of a chunk that POISONED ended at the event (R130). -/
def ReturnedToFree (s t : State) (i : StreamIndex) (c : Context) (poisoned : Option Slot := none) : Prop :=
  t.entry i = Entry.free ∧ OtherEntries s t i ∧
  (∃ given : List Slot, given.Nodup ∧ (∀ slot, slot ∈ given ↔ ∃ p, s.pool.use slot = .assigned i p) ∧
    (given.Pairwise fun a b => ∀ p q, s.pool.use a = .assigned i p → s.pool.use b = .assigned i q →
      c.slotKey p ≤ c.slotKey q) ∧ SlotsGivenUp s t given poisoned) ∧
  Raised s t (.streamReleased i c.tag c.cause c.committed)

/-! ## Outcomes and commits -/

/-- The words of a slot that a verification reads and finds uncorrectable (R8, R90). -/
def State.badWords (s : State) (o : EngineOp) : Nat :=
  ((List.range 8192).filter fun w => decide (8 * w < o.len.val ∧ s.condition o.slot w = .uncorrectable)).length

/-- What the report of a verification's read leaves, the counters apart (R89, R90): an uncorrectable word marks the slot,
sets BUFFER_UNCORRECTED, fills an empty first-error record and raises DEVICE_ERROR once. -/
def State.readBy (s : State) (o : EngineOp) : State :=
  if s.badWords o = 0 then s
  else State.raise { s with
    pool := s.pool.setMark o.slot
    errors := { s.errors with
      bufferUncorrected := true
      first := s.errors.first.or (some ⟨.bufferUncorrected, some o.stream, some o.slot, some o.index⟩) } }
    (.deviceError .bufferUncorrected (some o.stream) none (some o.slot) (some o.index))

/-- The bytes of a pattern chunk that differ from P at their own offset or stand in an uncorrectable word (R10, R11). -/
def State.wrongBytes (s : State) (o : EngineOp) : Nat :=
  ((List.range o.len.val).filter fun y =>
    decide (s.condition o.slot (y / 8) = .uncorrectable) ||
      decide ((s.byteAt (bufferAddress o.slot y)).toNat ≠
        (((65536 * o.index + y) % 251) ^^^ (((65536 * o.index + y) / 65536) % 256)))).length

/-- The chunk at window position `pos` of the stream at `i` becomes STORED, and n commit steps follow (R126, R133): none
above the head; at the head one for it and one for each STORED chunk in the unbroken row behind it. Their records hold the
slots the pool records for them (R79, R85), and none lies beyond F. -/
def State.Commits (s : State) (i : StreamIndex) (c : Context) (pos n : Nat) : Prop :=
  (n = 0 ∧ pos ≠ c.posOf c.head ∧ c.headStored = false) ∨
    (pos = c.posOf c.head ∧ 1 ≤ n ∧ n ≤ c.w ∧ c.committed % 65536 = 0 ∧
      (∀ j, j < n → ∃ x, c.window[c.posOf (c.head + j)]? = some x ∧ x.slot.isSome = true ∧
        s.pool.slotOf i (c.posOf (c.head + j)) = x.slot ∧ (1 ≤ j → x.state = .stored)) ∧
      (∀ x, n < c.w → c.window[c.posOf (c.head + n)]? = some x → x.state ≠ .stored) ∧
      ∀ f, c.final = some f → f = 0 ∨ c.head + n ≤ (f - 1) / 65536 + 1)

/-- A context after n commit steps (R133, R134): the committed offset rises by one chunk each, or to F for the final chunk,
the records are reset for the chunks W further, COMMIT is added, a stream in OPEN or HOLD that reaches F becomes COMPLETE,
and the drain flags are tested. -/
def Context.committing (c : Context) (n : Nat) : Context :=
  let last := decide (1 ≤ n) && c.final.any fun f => decide (0 < f ∧ c.head + n = (f - 1) / 65536 + 1)
  let committed := if last then c.final.getD 0 else c.committed + 65536 * n
  let ends := decide (1 ≤ n) && c.state.receiving && decide (c.final = some committed)
  let rest : Context := { c with
    committed := committed
    window := c.window.mapIdx fun p x => ((List.range n).find? fun j => decide (c.posOf (c.head + j) = p)).elim x
      fun j => .fresh (c.head + j + c.w) }
  { rest with
    state := if ends then .complete else c.state
    notices := if ends then { c.notices with resync := false, gaps := [], commit := true, ended := true }
      else { c.notices with commit := c.notices.commit || decide (1 ≤ n) }
    streaming := c.streaming && (rest.frontierVerified || rest.inWritersHands)
    flushPending := c.flushPending && rest.frontierVerified }

/-- n commit steps end with the stream, in OPEN or HOLD, at F: it becomes COMPLETE (R134). -/
def Context.finishes (c : Context) (n : Nat) : Bool :=
  decide (1 ≤ n) && c.state.receiving && decide (c.final = some (c.committing n).committed)

/-- The slots of the chunks of n commit steps, in chunk order (R133, R80). -/
def State.committedSlots (s : State) (i : StreamIndex) (c : Context) (n : Nat) : List Slot :=
  (List.range n).filterMap fun j => s.pool.slotOf i (c.posOf (c.head + j))

/-- The tests of R114 that end an event on a stream: streaming and flush pending are cleared where they no longer hold. -/
def Context.flagsTested (c : Context) : Context :=
  { c with streaming := c.streaming && (c.frontierVerified || c.inWritersHands)
           flushPending := c.flushPending && c.frontierVerified }

/-- A salvage has nothing left (R153): not offerable, no chunk VERIFYING, OFFERED or TAKEN. -/
def Context.SalvageOver (c : Context) : Prop :=
  c.state = .salvaging ∧ c.readyRun = [] ∧ ∀ x ∈ c.window, x.state ≠ .verifying ∧ x.state ≠ .offered ∧ x.state ≠ .taken

/-! ## Range lists -/

/-- A range list as R57 has it: no empty range, sorted, no two ranges overlap or touch. -/
def RangesWF (ranges : List Range) : Prop :=
  (∀ r ∈ ranges, r.start < r.stop) ∧ ranges.Pairwise fun a b => a.stop < b.start

/-! ## Segments -/

/-- A record at the head of the ingress queue of a lane that is ACTIVE or QUIESCED: the Lane Interface may take it
(R45). -/
def HeadSegment (s : State) (l : LaneId) (record : List Byte) (rest : List (List Byte)) : Prop :=
  (s.lane l).state ≠ .down ∧ (s.lane l).ingress = record :: rest

/-- A well-formed segment (R46). -/
def Segment.Sound (g : Segment) : Prop :=
  g.payload.length = g.length ∧ g.length ≤ 9216 ∧ (g.length = 0 → g.last = true) ∧ g.offset + g.length ≤ 2 ^ 48

/-- A well-formed segment `g` of the stream at `i` with context `c`, in OPEN or HOLD, is next to be taken from a lane: the
Placement Unit handles it (R58). -/
def NextSegment (s : State) (l : LaneId) (rest : List (List Byte)) (g : Segment) (i : StreamIndex) (c : Context) : Prop :=
  (∃ record, HeadSegment s l record rest ∧ parseSegment record = some g) ∧ g.Sound ∧
    (s.lookup g.tag).2 = .found i c ∧ c.state.receiving = true

/-- The segment is one piece, whole inside the window and inside one chunk, and `r` is that chunk's record. -/
def OnePiece (g : Segment) (c : Context) (r : ChunkRecord) : Prop :=
  g.last = false ∧ 0 < g.length ∧ c.committed ≤ g.offset ∧ g.offset + g.length ≤ c.windowEnd ∧
    g.offset / 65536 = (g.offset + g.length - 1) / 65536 ∧ c.window[c.posOf (g.offset / 65536)]? = some r

/-- The chunk-local range of such a piece (R68). -/
def Segment.piece (g : Segment) : Range := ⟨g.offset % 65536, g.offset % 65536 + g.length⟩

/-- The records describe the chunks head to head + W - 1, each at its window position (R52). -/
def Context.RingWF (c : Context) : Prop :=
  ∀ j, j < c.w → ∃ r, c.window[c.posOf (c.head + j)]? = some r ∧ r.index = c.head + j

/-- A record takes new bytes: EMPTY or FILLING (R56, R72). -/
def ChunkRecord.takesBytes (r : ChunkRecord) : Bool := decide (r.state = .empty ∨ r.state = .filling)

/-- The buffer byte that the byte at stream offset y is new for (R70): its chunk's record takes bytes, holds a slot and
does not hold the byte yet. -/
def Context.freshAddress (c : Context) (y : Nat) : Option Nat :=
  match c.window[c.posOf (y / 65536)]? with
  | some r =>
    match r.slot with
    | some slot =>
      if r.takesBytes && !holds r.ranges (y % 65536) then some (bufferAddress slot (y % 65536)) else none
    | none => none
  | none => none

/-- No byte at stream offsets x to y - 1 is new for a word of the buffer with an uncorrectable error (R88). -/
def WordsSound (s : State) (c : Context) (x y : Nat) : Prop :=
  ∀ z a, x ≤ z → z < y → c.freshAddress z = some a → cellGet .sound s.words (a / 8) ≠ .uncorrectable

/-- The bytes of a segment at stream offsets x to y - 1 that are new stand in the buffer; no other byte of the buffer has
changed (R70). -/
def BytesPlaced (s t : State) (c : Context) (g : Segment) (x y : Nat) : Prop :=
  (∀ z a, x ≤ z → z < y → c.freshAddress z = some a → t.byteAt a = g.payload.getD (z - g.offset) 0) ∧
    ∀ a, (∀ z, x ≤ z → z < y → c.freshAddress z ≠ some a) → t.byteAt a = s.byteAt a

/-- The bytes of a segment that ends at F are one piece of the final chunk, which the window holds, and may be merged into
its record; the words they touch hold no uncorrectable error. -/
def LastPieceFits (s : State) (c : Context) (g : Segment) : Prop :=
  let k := (g.offset + g.length - 1) / 65536
  0 < g.length ∧ c.committed ≤ g.offset ∧ 65536 * k ≤ g.offset ∧ g.offset + g.length ≤ c.committed + 65536 * c.w ∧
    k < c.head + c.w ∧ WordsSound s c g.offset (g.offset + g.length) ∧
    ∃ r, c.window[c.posOf k]? = some r ∧ r.slot.isSome = true ∧ r.takesBytes = true ∧
      (insertRange g.piece r.ranges).length ≤ 8

/-- The segment is two pieces, whole inside the window, for chunks at two window positions; `a` and `b` are the records of
the lower and of the upper one, which take bytes, and one without a slot is EMPTY with nothing held (R56, R69). -/
def TwoPieces (g : Segment) (c : Context) (a b : ChunkRecord) : Prop :=
  let k := g.offset / 65536
  g.last = false ∧ c.committed ≤ g.offset ∧ g.offset + g.length ≤ c.windowEnd ∧
    (g.offset + g.length - 1) / 65536 = k + 1 ∧ c.posOf k ≠ c.posOf (k + 1) ∧
    c.window[c.posOf k]? = some a ∧ c.window[c.posOf (k + 1)]? = some b ∧
    a.takesBytes = true ∧ b.takesBytes = true ∧ RangesWF a.ranges ∧ RangesWF b.ranges ∧
    (a.slot = none → a.state = .empty ∧ a.ranges = []) ∧ (b.slot = none → b.state = .empty ∧ b.ranges = [])

/-- The slot of a piece (R69, R83): its record's, or the one a request is granted, the head of the free list, to the head
chunk always and to another while free slots exceed the head reserve. -/
def ChunkRecord.slotFor (r : ChunkRecord) (head : Bool) (free : List Slot) (reserve : Nat) : Option Slot :=
  r.slot.or (if head = true ∨ reserve < free.length then free.head? else none)

/-- Why a piece is dropped: no slot (R69), or a ninth range (R71); none when it is merged. -/
def ChunkRecord.refuses (r : ChunkRecord) (slot : Option Slot) (piece : Range) : Option DropReason :=
  if slot = none then some .noSlot else if 8 < (insertRange piece r.ranges).length then some .fragmentLimit else none

/-- The record after its piece was merged or dropped (R69 to R73): dropped, it is as it was. -/
def ChunkRecord.taking (r : ChunkRecord) (slot : Option Slot) (piece : Range) (len : Nat) : ChunkRecord :=
  if r.refuses slot piece = none then { r with
    slot := slot, ranges := insertRange piece r.ranges
    state := if insertRange piece r.ranges = [⟨0, len⟩] then .queued else .filling }
  else r

/-- The record has left the lane and earned its credit (R43). -/
def LaneTook (s t : State) (l : LaneId) (rest : List (List Byte)) : Prop :=
  t.lane l = { s.lane l with
    ingress := rest, owed := if (s.lane l).state = .active then (s.lane l).owed + 1 else (s.lane l).owed } ∧
  OtherLanes s t l

/-! ## Commands of the host -/

/-- The record stands at the head of the command queue with `rest` behind it, holds this command code, and the response
queue has room: the Control Port may take it (R162). -/
def HeadCommand (s : State) (code : Nat) (record : List Byte) (rest : List (List Byte)) : Prop :=
  s.commands = record :: rest ∧ commandCode record = code ∧ s.responses.length < Config.commandDepth

/-- The command was taken and its response has joined the tail of the response queue (R161, R162). -/
def Answered (s t : State) (record : List Byte) (rest : List (List Byte)) (status : Status) (data : List Byte) : Prop :=
  t.commands = rest ∧ t.responses = s.responses ++ [⟨commandCode record, status, commandId record, data⟩]

/-- The rows that take a host command answered NOT_READY unless the device is READY, with their codes (R162, 11.6). -/
def guardedCommands : List (Nat × Instr) :=
  [(1, .openCmd), (2, .closeCmd), (3, .abortCmd), (4, .releaseCmd), (5, .salvageCmd), (6, .extendCmd), (7, .flushCmd),
   (8, .queryCmd), (9, .laneCmd), (10, .configureCmd), (11, .countersCmd), (12, .clearErrorsCmd)]

/-! ## Notices -/

/-- A stream that a lane's round robin may serve (R143): live, replying on the lane, not RELEASING, with an item
pending. -/
def WaitsOn (s : State) (l : LaneId) (i : StreamIndex) : Prop :=
  ∃ c, s.ctx? i = some c ∧ c.replyLane = some l ∧ c.state ≠ .releasing ∧ c.notices ≠ NoticeSet.none

/-- The notice a stream emits at its turn and the set it leaves (R138, R144): the first item present in the order RESYNC,
lowest GAP, COMMIT, END, STOP. -/
def Emits (c : Context) (pool : PoolState) (n : Notice) (left : NoticeSet) : Prop :=
  (c.notices.resync = true ∧ n = .resync c.tag c.committed ∧ left = { c.notices with resync := false }) ∨
  (c.notices.resync = false ∧ ∃ p rest r, c.notices.gaps = p :: rest ∧ c.window[p]? = some r ∧
    n = .gap c.tag (65536 * r.index) (chunkLength c.final r.index) ∧ left = { c.notices with gaps := rest }) ∨
  (c.notices.resync = false ∧ c.notices.gaps = [] ∧ c.notices.commit = true ∧
    n = .commit c.tag c.committed (c.advertisedEnd pool) ∧ left = { c.notices with commit := false }) ∨
  (c.notices.resync = false ∧ c.notices.gaps = [] ∧ c.notices.commit = false ∧ c.notices.ended = true ∧
    (∃ f, c.final = some f ∧ n = .ended c.tag f) ∧ left = { c.notices with ended := false }) ∨
  (c.notices.resync = false ∧ c.notices.gaps = [] ∧ c.notices.commit = false ∧ c.notices.ended = false ∧
    c.notices.stop = true ∧ n = .stop c.tag c.committed c.cause ∧ left = { c.notices with stop := false })

/-- A record of this kind for a stream was lost with the output queue of a lane (R50, R147). -/
def Lost (s : State) (l : LaneId) (i : StreamIndex) (kind : Notice → Bool) : Prop :=
  ∃ r ∈ (s.lane l).output, r.stream = some i ∧ kind r.notice = true

/-! ## Invariants -/

/-- The table keeps its canonical form. -/
abbrev State.TableWF (s : State) : Prop := CellsWF Entry.free s.table

/-- READY, the table in canonical form, the pool state in agreement with spare. -/
def Serving (s : State) : Prop := s.device = .ready ∧ s.TableWF ∧ (s.pool.state = .ok → s.settings.low ≤ s.pool.spare) ∧
  (s.pool.state = .low → s.pool.spare < s.settings.high)

/-- One more spare slot would not turn a low pool well again: no watermark is crossed by the departure of one slotless
head chunk. -/
def RoomBelowHigh (s : State) : Prop := s.pool.state = .low → s.pool.spare + 1 < s.settings.high

/-- Every sparse store keeps its canonical form: the chunk buffer, the Stream Table, the ECC conditions, the uses and the
error marks of the slots. -/
def CanonicalForm (s : State) : Prop :=
  Memory.wf s.buffer ∧ s.TableWF ∧ CellsWF .sound s.words ∧ CellsWF .free s.pool.uses ∧ CellsWF false s.pool.marks

/-- The credit account of a lane (R36, R41, R43, R50): a DOWN lane is empty; on an ACTIVE lane credit count, queue
length and owed count add up to 32; a QUIESCED lane owes nothing and the two others stay within 32. Only an ACTIVE
lane has a device notice flag (R141). -/
def Lane.Account (v : Lane) : Prop :=
  match v.state with
  | .down => v.ingress = [] ∧ v.credit = 0 ∧ v.owed = 0 ∧ v.output = [] ∧ v.flag = none
  | .active => v.credit + v.ingress.length + v.owed = Config.laneCredits
  | .quiesced => v.owed = 0 ∧ v.flag = none ∧ v.credit + v.ingress.length ≤ Config.laneCredits

/-- Every lane keeps its account. -/
def CreditAccounts (s : State) : Prop := ∀ l, (s.lane l).Account

/-- While the device is STARTING or FAILED every lane is DOWN, nothing waits for the check engine or the writer, and the
engine is IDLE (R38, R94, R97, R116). -/
def RestsUnlessReady (s : State) : Prop :=
  s.device ≠ .ready →
    (∀ l, (s.lane l).state = .down) ∧ s.verifyQueue = [] ∧ s.engine = none ∧ s.offered = [] ∧ s.drainMap = []

/-- The sizes of the queues (R36, R116, R161, R164). -/
def QueueBounds (s : State) : Prop :=
  s.commands.length ≤ Config.commandDepth ∧ s.responses.length ≤ Config.commandDepth ∧
    s.events.length ≤ Config.eventDepth ∧ (∀ l, (s.lane l).output.length ≤ Config.outputDepth) ∧
    s.drainLoad ≤ Config.drainDepth

/-- The partition of the slots (R79, R80, R92): the free list holds each FREE slot once and no other slot, at most 64
slots are retired, and the table of uses keeps its canonical form. -/
def Pool.Partition (p : Pool) : Prop :=
  p.freeList.Nodup ∧ (∀ slot, slot ∈ p.freeList ↔ p.use slot = .free) ∧ CellsWF .free p.uses ∧
    p.retiredCount ≤ Config.retiredLimit

/-- The ranges of the settings (R87, R171). -/
def Settings.InRange (g : Settings) : Prop :=
  g.low ≤ 1024 ∧ g.low < g.high ∧ g.high ≤ 2047 ∧ 1 ≤ g.drainTimeout ∧ g.drainTimeout ≤ 65535 ∧ g.idleLimit ≤ 3600 ∧
    1 ≤ g.intervalLength ∧ g.intervalLength ≤ 3600

/-- While the device is READY the pool state agrees with spare and the watermarks: POOL_OK is not below the low one,
POOL_LOW is below the high one (R86). -/
def PoolFollowsSpare (s : State) : Prop :=
  s.device = .ready →
    (s.pool.state = .ok → s.settings.low ≤ s.pool.spare) ∧ (s.pool.state = .low → s.pool.spare < s.settings.high)

/-- Every counter of a set is within its 32 bits, and one that has its mark is at the maximum (R168). -/
def CounterSet.Saturating (v : CounterSet) : Prop :=
  ∀ k : Fin 32, v[k].value ≤ Config.countMax ∧ (v[k].mark = true → v[k].value = Config.countMax)

/-- The chunk records of a context: one for each window position (R52), every range list as R57 has it. In OPEN and HOLD
the committed offset is a multiple of 65,536 and not F (R17, R62, R134), the records describe the window,
and one wholly beyond F holds no slot (R61). A COMPLETE stream holds none (R62, R133). -/
def Context.Sound (c : Context) : Prop :=
  c.window.length = c.w ∧ (∀ r ∈ c.window, RangesWF r.ranges) ∧
  (c.state.receiving = true → c.committed % 65536 = 0 ∧ c.final ≠ some c.committed ∧ c.RingWF ∧
    ∀ f, c.final = some f → ∀ r ∈ c.window, f ≤ 65536 * r.index → r.slot = none) ∧
  (c.state = .complete → ∀ r ∈ c.window, r.slot = none)

/-- The chunk records and the pool agree (R79, R85, R156): a slot is recorded for a stream and a window position exactly
when the record there of that stream, which is live, holds it. The records are sound, and no entry is live while the device
is not READY. -/
def RecordsSound (s : State) : Prop :=
  (∀ slot i pos, s.pool.use slot = .assigned i pos ↔
    ∃ c r, s.ctx? i = some c ∧ c.window[pos]? = some r ∧ r.slot = some slot) ∧
  (∀ i c, s.ctx? i = some c → c.Sound) ∧
  (s.device ≠ .ready → ∀ i, s.ctx? i = none)

/-- The committed offset of a context is a multiple of 65,536, or its final end (R17). -/
def Context.Aligned (c : Context) : Prop := c.committed % Config.chunkSize = 0 ∨ c.final = some c.committed

end Sys2Proof.Machine
end

