-- ==== Sys2Proof/Certificates/Slice0/Obligations.lean ====
section
/-! DEFINITION. The statements for the provers: what the commands of the HX-6120 do and leave alone, and what every
step keeps. Each docstring names the rules of spec/ it rests on. -/

section

open Sys2Proof Sys2Proof.Machine

/-! ## The step -/

/-- A step runs the command at the front of the queue on the state with the queue's rest. Without a command a waiting
upset of the physical world strikes, changing stored bits alone, or one millisecond passes (R165; the idle step and the
upsets are the model's choice, log 2 and 3). -/
def Obligations.StepRunsTheFrontCommand : Prop :=
  ∀ s : State,
    (∀ (c : Instr) (rest : List Instr), s.pending = c :: rest → step s = exec c { s with pending := rest }) ∧
    (s.pending = [] → s.disturbances = [] → s.time < Config.count64Max → step s = .next { s with time := s.time + 1 }) ∧
    (s.pending = [] → ∀ d rest, s.disturbances = d :: rest → ∃ t, step s = .next t ∧
      t = { s with disturbances := rest, table := t.table, words := t.words, buffer := t.buffer })

/-- Every command completes in every state, and leaves the queue of commands, the waiting upsets and the count of free
values as they were. That a command not enabled has no effect is the model's choice (log 1), as are the three fields
named (log 3, 4). -/
def Obligations.EveryCommandCompletes : Prop :=
  ∀ (c : Instr) (s : State), ∃ t, exec c s = .next t ∧ t.pending = s.pending ∧ t.disturbances = s.disturbances ∧
    t.freeCount = s.freeCount

/-! ## The backup transfer format -/

/-- R10: the byte at stream offset x of a pattern stream. -/
def Obligations.PatternByteValue : Prop :=
  ∀ x : Nat, (patternByte x).toNat = (x % 251) ^^^ ((x / 65536) % 256)

/-- R9, R5, R6: a chunk built as the note to senders says passes at its own index, fails with NUMBER_MISMATCH at any
other, with CHECK_MISMATCH when one byte of image, chunk number or stored check value is another, and with BUFFER_ERROR,
whatever the comparisons give, when an uncorrectable word was met. -/
def Obligations.SenderBuiltChunkVerifies : Prop :=
  ∀ (image : List Byte) (k : Nat), k < 4294967296 →
    let body := image ++ le 4 k
    let check := checkOf (body ++ [0, 0, 0, 0])
    let chunk := body ++ le 4 check.toNat
    verdictOf chunk k false = .pass check ∧
    (∀ j, j < 4294967296 → j ≠ k → verdictOf chunk j false = .fail .numberMismatch) ∧
    (∀ pre b b' suf, body = pre ++ b :: suf → b ≠ b' →
      verdictOf (pre ++ b' :: suf ++ le 4 check.toNat) k false = .fail .checkMismatch) ∧
    (∀ pre b b' suf, le 4 check.toNat = pre ++ b :: suf → b ≠ b' →
      verdictOf (body ++ (pre ++ b' :: suf)) k false = .fail .checkMismatch) ∧
    ∀ j, verdictOf chunk j true = .fail .bufferError

/-- R70, R57: the merged list is sorted with no two ranges that overlap or touch, holds exactly the bytes of the old list
and of the piece, gains exactly the piece's new bytes, and is longer by at most one range. -/
def Obligations.MergedListHoldsTheUnion : Prop :=
  ∀ (piece : Range) (ranges : List Range), piece.start < piece.stop → RangesWF ranges →
    let merged := insertRange piece ranges
    RangesWF merged ∧
    (∀ y, holds merged y = (holds ranges y || decide (piece.start ≤ y ∧ y < piece.stop))) ∧
    heldBytes merged + heldOf piece ranges = heldBytes ranges + (piece.stop - piece.start) ∧
    merged.length ≤ ranges.length + 1

/-! ## The Stream Table -/

/-- R14: a lookup reads both entries of the tag's row. A parity error in either ends it without a match and leaves both
with good parity (R34, R35); otherwise it changes nothing, finds only a live entry of the row that holds the tag and is
not detached, and finds none only when the row has none. -/
def Obligations.LookupReadsTheRow : Prop :=
  ∀ (s : State) (tag : Nat), s.TableWF →
    let a := s.entry (wayOf tag 0)
    let b := s.entry (wayOf tag 1)
    let l := s.lookup tag
    ((a.parityGood = false ∨ b.parityGood = false) → l.2 = .contextError ∧
      (l.1.entry (wayOf tag 0)).parityGood = true ∧ (l.1.entry (wayOf tag 1)).parityGood = true) ∧
    (a.parityGood = true → b.parityGood = true → l.1 = s ∧ l.2 ≠ .contextError ∧
      (∀ i c, l.2 = .found i c → (i = wayOf tag 0 ∨ i = wayOf tag 1) ∧ s.ctx? i = some c ∧ c.tag = tag ∧ tag ≠ 0 ∧
        ¬(c.state = .releasing ∧ c.cause = some .contextError)) ∧
      (l.2 = .notFound ↔ ∀ i c, (i = wayOf tag 0 ∨ i = wayOf tag 1) → s.ctx? i = some c →
        c.tag ≠ tag ∨ tag = 0 ∨ (c.state = .releasing ∧ c.cause = some .contextError)))

/-! ## Segment Lanes -/

/-- R42: a pushed record joins the ingress queue against a credit, or is discarded as the table states. -/
def Obligations.PushSegmentTakesOrRefuses : Prop :=
  ∀ (l : LaneId) (record : List Byte) (s : State),
    ∃ t, exec (.pushSegment l record) s = .next t ∧
      ((s.lane l).state ≠ .down → 1 ≤ (s.lane l).credit →
        t.lane l = { s.lane l with ingress := (s.lane l).ingress ++ [record], credit := (s.lane l).credit - 1 } ∧
        OtherLanes s t l ∧ Counted s t (.received l) 1 ∧ t = { s with lanes := t.lanes, live := t.live }) ∧
      ((s.lane l).state ≠ .down → (s.lane l).credit = 0 →
        Counted s t (.drop .noCredit) 1 ∧ t = { s with live := t.live }) ∧
      ((s.lane l).state = .down → s.device = .ready →
        Counted s t (.drop .laneDown) 1 ∧ t = { s with live := t.live }) ∧
      ((s.lane l).state = .down → s.device ≠ .ready → t = s)

/-- R37, R41, R40, R141, R146: a DOWN lane reported up while the device is READY becomes ACTIVE with 32 credits and
nothing owed, is told the pool state, raises LANE_CHANGED, and becomes the reply lane of every stream without one. Any
other link up only records the link status. -/
def Obligations.LinkUpBringsTheLaneUp : Prop :=
  ∀ (l : LaneId) (s : State),
    ((s.lane l).state = .down → Serving s → AllParityGood s →
      ∃ t, exec (.linkUp l) s = .next t ∧
        t.lane l = { s.lane l with state := .active, link := .up, credit := 32, owed := 0, flag := some s.pool.state } ∧
        OtherLanes s t l ∧ AllParityGood t ∧
        (∀ i, t.ctx? i = (s.ctx? i).map fun c =>
          { c with replyLane := if c.replyLane = none then some l else c.replyLane }) ∧
        Raised s t (.laneChanged l .active .linkUp) ∧ CountersKept s t [.eventsLost] ∧
        t = { s with lanes := t.lanes, table := t.table, events := t.events, live := t.live, errors := t.errors }) ∧
    ((s.lane l).state ≠ .down ∨ s.device ≠ .ready →
      ∃ t, exec (.linkUp l) s = .next t ∧ t.lane l = { s.lane l with link := .up } ∧ OtherLanes s t l ∧
        t = { s with lanes := t.lanes })

/-- R37, R50, R140, R146, R147, R149: a link down or a lane reset of an ACTIVE or QUIESCED lane empties both queues, zeroes
the account, keeps the round-robin position, counts the untaken records as LANE_LOST, raises LANE_CHANGED, moves the
replies of an ACTIVE lane to the lowest lane still ACTIVE, leaves FREE entries FREE, and puts back the item of every
lost record whose stream is live, not RELEASING and of the record's tag: COMMIT always, GAP of a chunk not below the
head that is EMPTY or FILLING, but into no COMPLETE stream (R149), RESYNC in OPEN and HOLD, END in COMPLETE, STOP in
ABORTED and SALVAGING. That a COMPLETE stream takes END and COMMIT back at the loss of a lane that is not its reply lane
is the model's choice (log 36). Of a DOWN lane only the link status changes. -/
def Obligations.LinkLossEmptiesTheLane : Prop :=
  ∀ (l : LaneId) (s : State) (x : Instr × LaneCause),
    x ∈ [((.linkDown l, .linkDown) : Instr × LaneCause), (.laneReset l, .laneReset)] → Serving s → AllParityGood s →
      ∃ t, exec x.1 s = .next t ∧ OtherLanes s t l ∧
        ((s.lane l).state = .down → t.lane l = { s.lane l with link := .down } ∧ t = { s with lanes := t.lanes }) ∧
        ((s.lane l).state ≠ .down →
          t.lane l = { Lane.reset .down with turn := (s.lane l).turn } ∧
          t.counter (.drop .laneLost) = (s.counter (.drop .laneLost)).add (s.lane l).ingress.length ∧
          CountersKept s t [.drop .laneLost, .eventsLost] ∧ Raised s t (.laneChanged l .down x.2) ∧
          AllParityGood t ∧ (∀ i, s.ctx? i = none → t.entry i = s.entry i) ∧
          (∀ i c, s.ctx? i = some c → ∃ d, t.ctx? i = some d ∧
            d = { c with replyLane := d.replyLane, notices := d.notices } ∧
            d.replyLane = (if c.replyLane = some l ∧ (s.lane l).state = .active
              then laneIds.find? fun m => decide (m ≠ l ∧ (s.lane m).state = .active) else c.replyLane) ∧
            (d.notices.commit = true ↔ c.notices.commit = true ∨ (c.state ≠ .releasing ∧ Lost s l i fun
              | .commit tag _ _ => decide (tag = c.tag)
              | _ => false)) ∧
            (d.notices.resync = true ↔ c.notices.resync = true ∨ (c.state.receiving = true ∧ Lost s l i fun
              | .resync tag _ => decide (tag = c.tag)
              | _ => false)) ∧
            (d.notices.ended = true ↔ c.notices.ended = true ∨ (c.state = .complete ∧ Lost s l i fun
              | .ended tag _ => decide (tag = c.tag)
              | _ => false)) ∧
            (d.notices.stop = true ↔ c.notices.stop = true ∨ ((c.state = .aborted ∨ c.state = .salvaging) ∧ Lost s l i fun
              | .stop tag _ _ => decide (tag = c.tag)
              | _ => false)) ∧
            (∀ p, p ∈ d.notices.gaps ↔ p ∈ c.notices.gaps ∨ (c.state ≠ .releasing ∧ c.state ≠ .complete ∧
              ∃ r, c.window[p]? = some r ∧ c.head ≤ r.index ∧ c.posOf r.index = p ∧ r.takesBytes = true ∧
                Lost s l i fun
                  | .gap tag start _ => decide (tag = c.tag ∧ start / 65536 = r.index)
                  | _ => false)) ∧
            (c.notices.gaps.Pairwise (· < ·) → d.notices.gaps.Pairwise (· < ·))) ∧
          t = { s with lanes := t.lanes, table := t.table, events := t.events, live := t.live, errors := t.errors })

/-- R39, R43, R40, R141, R146: what LANE answers and does, by the lane's number, the state byte and the lane's state. A
quiesce withholds the owed credits and moves the lane's replies to the lowest lane still ACTIVE; a return to ACTIVE makes
every withheld credit owed again, and streams without a reply lane take it. LANE_CHANGED has cause HOST. -/
def Obligations.LaneCommandMovesTheLane : Prop :=
  ∀ (s : State) (record : List Byte) (rest : List (List Byte)),
    HeadCommand s 9 record rest → Serving s → AllParityGood s →
    ∃ t, exec .laneCmd s = .next t ∧
      (4 ≤ fieldAt record 4 1 ∨ (fieldAt record 5 1 ≠ 1 ∧ fieldAt record 5 1 ≠ 2) →
        Answered s t record rest .badParam [] ∧ t = { s with commands := t.commands, responses := t.responses }) ∧
      ∀ l : LaneId, fieldAt record 4 1 = l.val →
        (fieldAt record 5 1 = 2 → (s.lane l).state = .active →
          Answered s t record rest .done [] ∧ OtherLanes s t l ∧
          t.lane l = { s.lane l with state := .quiesced, owed := 0, flag := none } ∧
          AllParityGood t ∧ (∀ i, t.ctx? i = (s.ctx? i).map fun c => { c with
            replyLane := if c.replyLane = some l
              then laneIds.find? fun m => decide (m ≠ l ∧ (s.lane m).state = .active) else c.replyLane }) ∧
          Raised s t (.laneChanged l .quiesced .host) ∧ CountersKept s t [.eventsLost] ∧
          t = { s with commands := t.commands, responses := t.responses, lanes := t.lanes, table := t.table,
                       events := t.events, live := t.live, errors := t.errors }) ∧
        (fieldAt record 5 1 = 1 → (s.lane l).state = .quiesced → (s.lane l).link = .up →
          Answered s t record rest .done [] ∧ OtherLanes s t l ∧
          t.lane l = { s.lane l with state := .active, flag := some s.pool.state,
                                     owed := 32 - (s.lane l).credit - (s.lane l).ingress.length } ∧
          AllParityGood t ∧ (∀ i, t.ctx? i = (s.ctx? i).map fun c => { c with
            replyLane := if c.replyLane = none then some l else c.replyLane }) ∧
          Raised s t (.laneChanged l .active .host) ∧ CountersKept s t [.eventsLost] ∧
          t = { s with commands := t.commands, responses := t.responses, lanes := t.lanes, table := t.table,
                       events := t.events, live := t.live, errors := t.errors }) ∧
        ((fieldAt record 5 1 = 1 ∧ (s.lane l).state = .active) ∨
            (fieldAt record 5 1 = 2 ∧ (s.lane l).state = .quiesced) →
          Answered s t record rest .done [] ∧ t = { s with commands := t.commands, responses := t.responses }) ∧
        (((fieldAt record 5 1 = 1 ∨ fieldAt record 5 1 = 2) ∧ (s.lane l).state = .down) ∨
            (fieldAt record 5 1 = 1 ∧ (s.lane l).state = .quiesced ∧ (s.lane l).link = .down) →
          Answered s t record rest .wrongState [] ∧ t = { s with commands := t.commands, responses := t.responses })

/-! ## SEGMENT_TAKE -/

/-- R43, R46, R47, R14: a taken record earns its lane a credit. One that fails a form check is dropped under the first
that it fails, one whose tag is not found as UNKNOWN_TAG, and nothing else changes. One whose lookup meets a parity error
is dropped as CONTEXT_ERROR, the row's entries are left with good parity and the other rows are untouched. -/
def Obligations.RecordsDroppedAtTheLane : Prop :=
  ∀ (s : State) (l : LaneId) (record : List Byte) (rest : List (List Byte)), HeadSegment s l record rest → Serving s →
    let o := fieldAt record 4 6
    let len := fieldAt record 10 2
    let last := fieldAt record 12 1 % 2
    (∀ reason : DropReason,
      (reason = .badLength ∧ (record.length < 16 ∨ 9216 < len ∨ record.length ≠ 16 + len)) ∨
      (reason = .emptyNotLast ∧ record.length = 16 ∧ len = 0 ∧ last = 0) ∨
      (reason = .offsetRange ∧ record.length = 16 + len ∧ len ≤ 9216 ∧ ¬(len = 0 ∧ last = 0) ∧ 2 ^ 48 < o + len) →
      ∃ t, exec (.segmentTake l) s = .next t ∧ LaneTook s t l rest ∧ Counted s t (.drop reason) 1 ∧
        t = { s with lanes := t.lanes, live := t.live }) ∧
    ∀ g, parseSegment record = some g → g.Sound →
      ((s.lookup g.tag).2 = .notFound →
        ∃ t, exec (.segmentTake l) s = .next t ∧ LaneTook s t l rest ∧ Counted s t (.drop .unknownTag) 1 ∧
          t = { s with lanes := t.lanes, live := t.live }) ∧
      ((s.lookup g.tag).2 = .contextError →
        ∃ t, exec (.segmentTake l) s = .next t ∧ (t.lane l).ingress = rest ∧
          (t.lane l).owed = (if (s.lane l).state = .active then (s.lane l).owed + 1 else (s.lane l).owed) ∧
          t.counter (.drop .contextError) = (s.counter (.drop .contextError)).add 1 ∧
          CountersKept s t [.drop .contextError, .tableParityErrors, .eventsLost, .retiredSlots] ∧
          (∀ way, way < 2 → (t.entry (wayOf g.tag way)).parityGood = true) ∧
          ∀ j, j ≠ wayOf g.tag 0 → j ≠ wayOf g.tag 1 → t.entry j = s.entry j)

/-- R48, R59, R60, R64, R76: three ways a segment of a known stream is dropped whole, each counted once, leaving the
stream's chunks, slots and progress alone. A stopped stream repeats its last word; a wholly old segment is counted in
old bytes and asks for COMMIT; a refused final end leaves F as it was. -/
def Obligations.SegmentsDroppedWhole : Prop :=
  ∀ (s : State) (l : LaneId) (record : List Byte) (rest : List (List Byte)) (g : Segment) (i : StreamIndex) (c : Context),
    HeadSegment s l record rest → Serving s → parseSegment record = some g → g.Sound →
    (s.lookup g.tag).2 = .found i c →
    let stop := g.offset + g.length
    (c.state.receiving = false →
      ∃ t d, exec (.segmentTake l) s = .next t ∧ LaneTook s t l rest ∧ OtherEntries s t i ∧ Holds t i d ∧
        d = { c with
          counts := { c.counts with streamStopped := min (c.counts.streamStopped + 1) 4294967295 }
          notices := { c.notices with
            ended := c.notices.ended || decide (c.state = .complete)
            stop := c.notices.stop || decide (c.state = .aborted ∨ c.state = .salvaging) } } ∧
        Counted s t (.drop .streamStopped) 1 ∧ t = { s with lanes := t.lanes, table := t.table, live := t.live }) ∧
    (c.state.receiving = true → g.last = false → 0 < g.length → stop ≤ c.committed →
      ∃ t d, exec (.segmentTake l) s = .next t ∧ LaneTook s t l rest ∧ OtherEntries s t i ∧ Holds t i d ∧
        d = { c with
          counts := { c.counts with oldBytes := min (c.counts.oldBytes + g.length) (2 ^ 64 - 1) }
          notices := { c.notices with commit := true }
          streaming := d.streaming, flushPending := d.flushPending } ∧
        FlagsTested c d ∧ Counted s t (.drop .oldData) 1 ∧
        t = { s with lanes := t.lanes, table := t.table, live := t.live }) ∧
    (c.state.receiving = true → g.last = true →
      ((c.final = none ∧ ((1 ≤ stop % 65536 ∧ stop % 65536 ≤ 7) ∨ stop < c.committed ∨ stop < c.highestHeld ∨
          65536 * c.cap < stop)) ∨ ∃ f, c.final = some f ∧ f ≠ stop) →
      ∃ t d, exec (.segmentTake l) s = .next t ∧ LaneTook s t l rest ∧ OtherEntries s t i ∧ Holds t i d ∧
        d = { c with
          counts := { c.counts with endConflict := min (c.counts.endConflict + 1) 4294967295 }
          streaming := d.streaming, flushPending := d.flushPending } ∧
        FlagsTested c d ∧ Counted s t (.drop .endConflict) 1 ∧
        t = { s with lanes := t.lanes, table := t.table, live := t.live })

/-- R65 to R67, R76: a segment with no byte inside the window, at or beyond the window end or across a capacity end that
the committed offset has reached, is dropped whole under the first bound of R65's table that its lowest byte beyond
meets; bytes below the committed offset of one that crosses are old. A drop for capacity sets the capacity-reached flag
and, when the flag was clear, raises CAPACITY_REACHED with the capacity end and that byte's offset. -/
def Obligations.SegmentBeyondTheWindow : Prop :=
  ∀ (s : State) (l : LaneId) (rest : List (List Byte)) (g : Segment) (i : StreamIndex) (c : Context),
    NextSegment s l rest g i c → Serving s → g.last = false → 0 < g.length →
    c.committed < g.offset + g.length → c.windowEnd ≤ max g.offset c.committed →
    let beyond := max g.offset c.windowEnd
    ∀ reason : DropReason,
      reason = (if 65536 * c.cap ≤ beyond then .beyondCapacity
        else if (c.final.any fun f => decide (f ≤ beyond)) then .beyondEnd else .beyondWindow) →
      c.windowEnd ≤ g.offset ∨ c.windowEnd = c.committed →
      ∃ t d, exec (.segmentTake l) s = .next t ∧ LaneTook s t l rest ∧ OtherEntries s t i ∧ Holds t i d ∧
        d = { c with
          counts := { c.counts.drop reason with
            oldBytes := if c.windowEnd ≤ g.offset then c.counts.oldBytes
              else min (c.counts.oldBytes + (c.committed - g.offset)) (2 ^ 64 - 1) }
          capacityReached := c.capacityReached || decide (reason = .beyondCapacity)
          streaming := d.streaming, flushPending := d.flushPending } ∧
        FlagsTested c d ∧
        t.counter (.drop reason) = (s.counter (.drop reason)).add 1 ∧ CountersKept s t [.drop reason, .eventsLost] ∧
        (reason = .beyondCapacity → c.capacityReached = false →
          Raised s t (.capacityReached i c.tag (65536 * c.cap) beyond)) ∧
        (reason ≠ .beyondCapacity ∨ c.capacityReached = true →
          t.events = s.events ∧ t.errors = s.errors ∧ t.counter .eventsLost = s.counter .eventsLost) ∧
        t = { s with lanes := t.lanes, table := t.table, live := t.live, events := t.events, errors := t.errors }

/-- R59, R61, R62, R74, R80, R85, R91: a LAST flag whose end is the committed offset, on a stream that holds nothing above
it, fixes F and completes the stream. The slots of its records are given back in chunk order, a marked one retired where
R91 allows, and no other slot changes; the requests for data are dropped, END is added and STREAM_FINISHED is raised; the
segment's bytes are old. The model's choices are that the watermark test ends the event, after STREAM_FINISHED (log 10),
and that a stream that becomes COMPLETE in HOLD keeps its history and hold failures (log 29). -/
def Obligations.FinalEndAtTheCommittedOffsetCompletes : Prop :=
  ∀ (s : State) (l : LaneId) (rest : List (List Byte)) (g : Segment) (i : StreamIndex) (c : Context),
    NextSegment s l rest g i c → Serving s → CanonicalForm s → g.last = true → c.final = none →
    g.offset + g.length = c.committed → c.committed % 65536 = 0 → c.highestHeld = c.committed →
    c.committed ≤ 65536 * c.cap →
    ∃ u d, exec (.segmentTake l) s = .next u.poolTest ∧ LaneTook s u l rest ∧ OtherEntries s u i ∧ Holds u i d ∧
      d = { c with
        state := .complete, final := some c.committed
        notices := { c.notices with resync := false, gaps := [], ended := true }
        counts := { c.counts with oldBytes := min (c.counts.oldBytes + g.length) (2 ^ 64 - 1) }
        lastArrival := s.time, idleReported := false
        replyLane := if (s.lane l).state = .active then some l else c.replyLane
        window := d.window, streaming := d.streaming, flushPending := d.flushPending } ∧
      FlagsTested c d ∧
      (∀ x ∈ c.ring, c.head ≤ x.2.index → d.window[x.1]? = some { x.2 with slot := none }) ∧
      SlotsGivenUp s u (s.slotsFrom i c c.head) ∧
      u.pool.reserve = (if c.headSlotless then s.pool.reserve - 1 else s.pool.reserve) ∧
      CountersKept s u [.retiredSlots, .eventsLost] ∧ Raised s u (.streamFinished i c.tag c.committed) ∧
      u = { s with lanes := u.lanes, table := u.table, live := u.live, events := u.events, errors := u.errors,
                   pool := { s.pool with freeList := u.pool.freeList, uses := u.pool.uses, marks := u.pool.marks,
                                         reserve := u.pool.reserve } }

/-- R59 to R61, R63, R65, R70, R73 to R76, R85: the LAST flag of a stream in OPEN or HOLD whose F is not known, its end
above the committed offset and not refused, fixes F. The slots of the chunks wholly beyond F are given back in chunk
order, their GAP items are removed, and the final chunk, complete under its new length, joins the verify queue. The
segment is accepted: a bare LAST, one whose bytes lie beyond the window and are dropped, or one whose bytes are, here, one
piece of the final chunk and are placed. A bare LAST that repeats F makes the bookkeeping alone. That the watermark test
ends the event is the model's choice (log 10). -/
def Obligations.LastFlagFixesTheFinalEnd : Prop :=
  ∀ (s : State) (l : LaneId) (rest : List (List Byte)) (g : Segment) (i : StreamIndex) (c : Context),
    NextSegment s l rest g i c → Serving s → CanonicalForm s → c.RingWF → g.last = true →
    let f := g.offset + g.length
    let booked : Context := { c with
      lastArrival := s.time, idleReported := false
      replyLane := if (s.lane l).state = .active then some l else c.replyLane }
    (c.final = some f → g.length = 0 →
      ∃ t d, exec (.segmentTake l) s = .next t ∧ LaneTook s t l rest ∧ OtherEntries s t i ∧ Holds t i d ∧
        d = { booked with streaming := d.streaming, flushPending := d.flushPending } ∧ FlagsTested c d ∧
        t = { s with lanes := t.lanes, table := t.table }) ∧
    (c.final = none → ¬(1 ≤ f % 65536 ∧ f % 65536 ≤ 7) → c.committed < f → c.highestHeld ≤ f → f ≤ 65536 * c.cap →
      g.length = 0 ∨ c.committed + 65536 * c.w ≤ g.offset ∨ LastPieceFits s c g →
      let k := (f - 1) / 65536
      let places := decide (0 < g.length ∧ g.offset < c.committed + 65536 * c.w)
      let ranges : ChunkRecord → List Range := fun r => if places then insertRange g.piece r.ranges else r.ranges
      let done : ChunkRecord → Bool := fun r =>
        (places || decide (r.state = .filling)) && decide (ranges r = [⟨0, f - 65536 * k⟩])
      let old := (c.window[c.posOf k]?).elim 0 fun r => heldOf g.piece r.ranges
      let warns := places && decide (c.earlyWarningPoint < f)
      ∃ u d, exec (.segmentTake l) s = .next u.poolTest ∧ LaneTook s u l rest ∧ OtherEntries s u i ∧ Holds u i d ∧
        d = { booked with
          final := some f
          notices := { c.notices with gaps := c.notices.gaps.filter fun p =>
            !(c.ring.any fun x => decide (x.1 = p ∧ f ≤ 65536 * x.2.index)) }
          counts := if g.length = 0 then c.counts else if places then { c.counts with
              acceptedBytes := d.counts.acceptedBytes
              duplicateBytes := min (c.counts.duplicateBytes + old) (2 ^ 64 - 1)
              oldBytes := d.counts.oldBytes }
            else c.counts.drop .beyondWindow
          earlyWarningIssued := c.earlyWarningIssued || warns
          window := d.window, streaming := d.streaming, flushPending := d.flushPending } ∧
        (places = true → c.counts.acceptedBytes ≤ 2 ^ 64 - 1 → c.counts.oldBytes ≤ 2 ^ 64 - 1 →
          d.counts.acceptedBytes = min (c.counts.acceptedBytes + (g.length - old)) (2 ^ 64 - 1) ∧
          d.counts.oldBytes = c.counts.oldBytes) ∧
        FlagsTested c d ∧
        (∀ x ∈ c.ring, d.window[x.1]? = some (
          if f ≤ 65536 * x.2.index then { x.2 with slot := none }
          else if x.2.index = k then { x.2 with
            ranges := ranges x.2
            state := if done x.2 then .queued else if places then .filling else x.2.state }
          else x.2)) ∧
        u.verifyQueue = s.verifyQueue ++
          ((c.ring.filter fun x => decide (x.2.index = k) && done x.2).map fun x => ⟨i, x.1⟩) ∧
        SlotsGivenUp s u (s.slotsFrom i c ((f + 65535) / 65536)) ∧
        (places = true → BytesPlaced s u c g g.offset f) ∧
        (places = false → u.buffer = s.buffer ∧ u.words = s.words) ∧
        CountersKept s u [.retiredSlots, .correctedErrors, .eventsLost] ∧
        (warns = true → c.earlyWarningIssued = false → Raised s u (.earlyWarning i c.tag c.earlyWarningPoint f)) ∧
        (warns = false ∨ c.earlyWarningIssued = true → u.events = s.events ∧ u.errors = s.errors) ∧
        u = { s with lanes := u.lanes, table := u.table, live := u.live, buffer := u.buffer, words := u.words,
                     verifyQueue := u.verifyQueue, events := u.events, errors := u.errors,
                     pool := { s.pool with freeList := u.pool.freeList, uses := u.pool.uses, marks := u.pool.marks } })

/-- R56, R60, R67, R68, R70, R72 to R76, R49: a segment that reaches into the window is clamped to it and cut at the chunk
boundary into one piece or two, here of records that hold a slot. New bytes are written at their chunk-local offsets,
bytes already held keep the first arrival and no other byte of the buffer changes; a record in QUEUED or later takes
nothing, its bytes are duplicates. Records in EMPTY or FILLING take the merged lists, the byte counts rise, and completed
chunks join the tail of the verify queue, the lower first. Bytes below the window are old; a tail beyond it is counted in
the stream under its class and may report the capacity. The bookkeeping of stage 10 is made. The words with new bytes hold
no uncorrectable error here, and the range lists are as R57 has them. A LAST flag that repeats F changes none of this. -/
def Obligations.PlacedBytesAreWritten : Prop :=
  ∀ (s : State) (l : LaneId) (rest : List (List Byte)) (g : Segment) (i : StreamIndex) (c : Context),
    NextSegment s l rest g i c → Serving s → CanonicalForm s → 0 < g.length →
    (g.last = true → c.final = some (g.offset + g.length)) →
    let x := max g.offset c.committed
    let y := min (g.offset + g.length) c.windowEnd
    let record : Nat → ChunkRecord := fun k => (c.window[c.posOf k]?).getD (.fresh k)
    let chunks := (x / 65536) :: (if x / 65536 < (y - 1) / 65536 then [(y - 1) / 65536] else [])
    let piece : Nat → Range := fun k => ⟨max x (65536 * k) - 65536 * k, min y (65536 * (k + 1)) - 65536 * k⟩
    let merged : Nat → List Range := fun k => insertRange (piece k) (record k).ranges
    let done : Nat → Bool := fun k => (record k).takesBytes && decide (merged k = [⟨0, chunkLength c.final k⟩])
    let held : Nat → Nat := fun k =>
      if (record k).takesBytes then heldOf (piece k) (record k).ranges else (piece k).stop - (piece k).start
    let tail := decide (y < g.offset + g.length)
    let loss : DropReason := if 65536 * c.cap ≤ y then .beyondCapacity
      else if (c.final.any fun f => decide (f ≤ y)) then .beyondEnd else .beyondWindow
    let reports := tail && decide (loss = .beyondCapacity)
    let warns := decide (c.earlyWarningPoint < y)
    x < y → WordsSound s c x y →
    (∀ k ∈ chunks, (c.window[c.posOf k]?).isSome = true ∧ (record k).slot.isSome = true ∧ RangesWF (record k).ranges ∧
      ((record k).takesBytes = true → (merged k).length ≤ 8)) →
    (chunks.map fun k => (record k).slot).Nodup →
    ∃ t d, exec (.segmentTake l) s = .next t ∧ LaneTook s t l rest ∧ OtherEntries s t i ∧ Holds t i d ∧
      BytesPlaced s t c g x y ∧
      (∀ k ∈ chunks, d.window[c.posOf k]? = some (if (record k).takesBytes then { record k with
        ranges := merged k, state := if done k then .queued else .filling } else record k)) ∧
      (∀ p, (∀ k ∈ chunks, p ≠ c.posOf k) → d.window[p]? = c.window[p]?) ∧
      t.verifyQueue = s.verifyQueue ++ ((chunks.filter done).map fun k => ⟨i, c.posOf k⟩) ∧
      (let counts : StreamCounters := { c.counts with
         acceptedBytes := if (chunks.any fun k => (record k).takesBytes)
           then min (c.counts.acceptedBytes + (y - x - (chunks.map held).sum)) (2 ^ 64 - 1) else c.counts.acceptedBytes
         duplicateBytes := min (c.counts.duplicateBytes + (chunks.map held).sum) (2 ^ 64 - 1)
         oldBytes := min (c.counts.oldBytes + (x - g.offset)) (2 ^ 64 - 1) }
       d = { c with
        counts := if tail then counts.drop loss else counts
        lastArrival := s.time, idleReported := false
        replyLane := if (s.lane l).state = .active then some l else c.replyLane
        earlyWarningIssued := c.earlyWarningIssued || warns
        capacityReached := c.capacityReached || reports
        window := d.window, streaming := d.streaming, flushPending := d.flushPending }) ∧
      FlagsTested c d ∧ CountersKept s t [.correctedErrors, .eventsLost] ∧
      (let a := if reports && !c.capacityReached then s.raise (.capacityReached i c.tag (65536 * c.cap) y) else s
       let b := if warns && !c.earlyWarningIssued then a.raise (.earlyWarning i c.tag c.earlyWarningPoint y) else a
       t.events = b.events ∧ t.errors = b.errors) ∧
      t = { s with lanes := t.lanes, table := t.table, live := t.live, buffer := t.buffer, words := t.words,
                   verifyQueue := t.verifyQueue, events := t.events, errors := t.errors }

/-- R88, R89, R90, R70: the ECC of the words a placed piece touches. The new bytes are written, those of words that stay
uncorrectable among them, and no other byte. A word with no new byte keeps its condition, a word whose
8 bytes are all new becomes sound, and a word written in part is read first: a single-bit error is corrected and counted,
an uncorrectable one leaves the word uncorrectable, is counted, marks the slot, sets BUFFER_UNCORRECTED, fills an empty
first-error record and raises DEVICE_ERROR once, however many words the piece writes in part, which is the model's choice
(log 35). The early warning has been issued before, so it raises nothing. -/
def Obligations.PartialWriteChecksEcc : Prop :=
  ∀ (s : State) (l : LaneId) (rest : List (List Byte)) (g : Segment) (i : StreamIndex) (c : Context) (r : ChunkRecord)
    (slot : Slot),
    NextSegment s l rest g i c → Serving s → CanonicalForm s → OnePiece g c r → r.slot = some slot →
    r.state = .empty ∨ r.state = .filling → (insertRange g.piece r.ranges).length ≤ 8 → c.earlyWarningIssued = true →
    let fresh : Nat → Bool := fun y => decide (g.piece.start ≤ y ∧ y < g.piece.stop) && !holds r.ranges y
    let some' : Nat → Bool := fun w => (List.range 8).any fun j => fresh (8 * w + j)
    let all : Nat → Bool := fun w => (List.range 8).all fun j => fresh (8 * w + j)
    let inPart : WordCondition → Nat := fun k =>
      ((List.range 8192).filter fun w => some' w && !all w && decide (s.condition slot w = k)).length
    let bad := inPart .uncorrectable
    ∃ t, exec (.segmentTake l) s = .next t ∧ BytesPlaced s t c g g.offset (g.offset + g.length) ∧
      (∀ w, w < 8192 → t.condition slot w =
        if some' w = false then s.condition slot w
        else if all w = false ∧ s.condition slot w = .uncorrectable then .uncorrectable else .sound) ∧
      (∀ other w, other ≠ slot → w < 8192 → t.condition other w = s.condition other w) ∧
      t.counter .correctedErrors = (s.counter .correctedErrors).add (inPart .correctable) ∧
      (bad = 0 → t.pool = s.pool ∧ t.events = s.events ∧ t.errors = s.errors ∧
        t.counter .uncorrectableErrors = s.counter .uncorrectableErrors) ∧
      (bad ≠ 0 → t.pool.mark slot = true ∧ t.errors.bufferUncorrected = true ∧
        t.counter .uncorrectableErrors = (s.counter .uncorrectableErrors).add bad ∧
        t.errors.first = s.errors.first.or (some ⟨.bufferUncorrected, some i, some slot, some r.index⟩) ∧
        t.events = (s.raise (.deviceError .bufferUncorrected (some i) none (some slot) (some r.index))).events)

/-- R69 to R71, R73 to R76, R83: a piece whose record holds no slot asks for one. A head request takes the head of the free
list and lowers the reserve; another is granted while a slot is spare, and refused as NO_SLOT while none is. A piece that
would make a ninth range is dropped as FRAGMENT_LIMIT. A segment of one piece that is dropped changes only the two counts
of its reason. Of two pieces the lower asks first, so that the upper finds what its grant has left; a dropped one leaves its
record as it was and counts once for the stream under its reason, the device counting only when both are dropped, under the
lower's; a merged one is placed and makes the segment accepted. The watermark test ends the event (the model's choice,
log 10). -/
def Obligations.PieceAsksForASlot : Prop :=
  ∀ (s : State) (l : LaneId) (rest : List (List Byte)) (g : Segment) (i : StreamIndex) (c : Context),
    NextSegment s l rest g i c → Serving s → CanonicalForm s →
    let k := g.offset / 65536
    (∀ r : ChunkRecord, OnePiece g c r →
      let done := decide ([g.piece] = [(⟨0, chunkLength c.final k⟩ : Range)])
      (∀ slot tail, r.slot = none → r.state = .empty → r.ranges = [] → s.pool.freeList = slot :: tail →
        k = c.head ∨ 1 ≤ s.pool.spare →
        ∃ u d, exec (.segmentTake l) s = .next u.poolTest ∧ LaneTook s u l rest ∧ OtherEntries s u i ∧ Holds u i d ∧
          OneRecord c d (c.posOf k)
            { r with slot := some slot, ranges := [g.piece], state := if done then .queued else .filling } ∧
          u.pool.freeList = tail ∧ u.pool.reserve = (if k = c.head then s.pool.reserve - 1 else s.pool.reserve) ∧
          u.pool.use slot = .assigned i (c.posOf k) ∧ (∀ x, x ≠ slot → u.pool.use x = s.pool.use x)) ∧
      (∀ reason : DropReason,
        (reason = .noSlot ∧ r.slot = none ∧ k ≠ c.head ∧ s.pool.spare = 0) ∨
        (reason = .fragmentLimit ∧ r.slot.isSome = true ∧ (r.state = .empty ∨ r.state = .filling) ∧
          8 < (insertRange g.piece r.ranges).length) →
        ∃ t d, exec (.segmentTake l) s = .next t ∧ LaneTook s t l rest ∧ OtherEntries s t i ∧ Holds t i d ∧
          d = { c with
            counts := { c.counts.drop reason with oldBytes := d.counts.oldBytes }
            streaming := d.streaming, flushPending := d.flushPending } ∧
          (c.counts.oldBytes ≤ 2 ^ 64 - 1 → d.counts.oldBytes = c.counts.oldBytes) ∧
          FlagsTested c d ∧ Counted s t (.drop reason) 1 ∧
          t = { s with lanes := t.lanes, table := t.table, live := t.live })) ∧
    ∀ a b : ChunkRecord, TwoPieces g c a b → (a.slot = none → k = c.head → 1 ≤ s.pool.reserve) →
      let low : Range := ⟨g.offset % 65536, 65536⟩
      let up : Range := ⟨0, g.offset + g.length - 65536 * (k + 1)⟩
      let slotA := a.slotFor (decide (k = c.head)) s.pool.freeList s.pool.reserve
      let grantA := a.slot.isNone && slotA.isSome
      let reserve := if grantA && decide (k = c.head) then s.pool.reserve - 1 else s.pool.reserve
      let slotB := b.slotFor false (if grantA then s.pool.freeList.tail else s.pool.freeList) reserve
      let grantB := b.slot.isNone && slotB.isSome
      let mergedA := decide (a.refuses slotA low = none)
      let mergedB := decide (b.refuses slotB up = none)
      let accepted := mergedA || mergedB
      let lost := [a.refuses slotA low, b.refuses slotB up].filterMap id
      let bytes := (if mergedA then 65536 - low.start else 0) + if mergedB then up.stop else 0
      let held := (if mergedA then heldOf low a.ranges else 0) + if mergedB then heldOf up b.ranges else 0
      let x := if mergedA then g.offset else 65536 * (k + 1)
      let y := if mergedB then g.offset + g.length else 65536 * (k + 1)
      let slotted : Context := { c with
        window := (c.window.set (c.posOf k) { a with slot := slotA }).set (c.posOf (k + 1)) { b with slot := slotB } }
      let lower := a.taking slotA low (chunkLength c.final k)
      let upper := b.taking slotB up (chunkLength c.final (k + 1))
      let warns := accepted && decide (c.earlyWarningPoint < y)
      slotA = none ∨ slotA ≠ slotB → WordsSound s slotted x y →
      ∃ u d, exec (.segmentTake l) s = .next u.poolTest ∧ LaneTook s u l rest ∧ OtherEntries s u i ∧ Holds u i d ∧
        BytesPlaced s u slotted g x y ∧
        d.window[c.posOf k]? = some lower ∧ d.window[c.posOf (k + 1)]? = some upper ∧
        (∀ p, p ≠ c.posOf k → p ≠ c.posOf (k + 1) → d.window[p]? = c.window[p]?) ∧
        u.verifyQueue = s.verifyQueue ++ (if lower.state = .queued then [⟨i, c.posOf k⟩] else []) ++
          (if upper.state = .queued then [⟨i, c.posOf (k + 1)⟩] else []) ∧
        u.pool = { s.pool with
          freeList := s.pool.freeList.drop ((if grantA then 1 else 0) + if grantB then 1 else 0)
          reserve := reserve, uses := u.pool.uses } ∧
        (∀ z, u.pool.use z = if grantB = true ∧ slotB = some z then .assigned i (c.posOf (k + 1))
          else if grantA = true ∧ slotA = some z then .assigned i (c.posOf k) else s.pool.use z) ∧
        d = { c with
          counts := { lost.dedup.foldl StreamCounters.drop c.counts with
            acceptedBytes := if accepted then min (c.counts.acceptedBytes + (bytes - held)) (2 ^ 64 - 1)
              else c.counts.acceptedBytes
            duplicateBytes := if accepted then min (c.counts.duplicateBytes + held) (2 ^ 64 - 1)
              else c.counts.duplicateBytes
            oldBytes := min c.counts.oldBytes (2 ^ 64 - 1) }
          lastArrival := if accepted then s.time else c.lastArrival
          idleReported := c.idleReported && !accepted
          replyLane := if accepted && decide ((s.lane l).state = .active) then some l else c.replyLane
          earlyWarningIssued := c.earlyWarningIssued || warns
          window := d.window, streaming := d.streaming, flushPending := d.flushPending } ∧
        FlagsTested c d ∧ (accepted = true → CountersKept s u [.correctedErrors, .eventsLost]) ∧
        (accepted = false → ∀ reason, lost.head? = some reason → Counted s u (.drop reason) 1) ∧
        (let told := if warns && !c.earlyWarningIssued then s.raise (.earlyWarning i c.tag c.earlyWarningPoint y) else s
         u.events = told.events ∧ u.errors = told.errors) ∧
        u = { s with lanes := u.lanes, table := u.table, live := u.live, buffer := u.buffer, words := u.words,
                     verifyQueue := u.verifyQueue, events := u.events, errors := u.errors, pool := u.pool }

/-! ## NOTICE_PLACEMENT -/

/-- R142, R44, R141, R145: a lane that is not ACTIVE, or full, places nothing. Otherwise the device notice flag is
placed first; with no flag and no stream waiting a standalone CREDIT record is placed when 8 credits are owed, or 1 with
an empty ingress queue, and nothing otherwise. Every record placed carries all owed credits. That a turn with nothing to
place has no effect is the model's choice (log 1). -/
def Obligations.FlagFirstAndCreditLast : Prop :=
  ∀ (l : LaneId) (s : State),
    let v := s.lane l
    let placed : Notice → Lane := fun n =>
      { v with output := v.output ++ [⟨n, v.owed, none⟩], credit := v.credit + v.owed, owed := 0, flag := none }
    (v.state ≠ .active ∨ 8 ≤ v.output.length → exec (.noticePlacement l) s = .next s) ∧
    (v.state = .active → v.output.length < 8 →
      (∀ st, v.flag = some st → ∃ t, exec (.noticePlacement l) s = .next t ∧ t.lane l = placed (.pool st) ∧
        OtherLanes s t l ∧ t = { s with lanes := t.lanes }) ∧
      (v.flag = none → Serving s → AllParityGood s → (∀ i, ¬WaitsOn s l i) →
        (8 ≤ v.owed ∨ (1 ≤ v.owed ∧ v.ingress = []) → ∃ t, exec (.noticePlacement l) s = .next t ∧
          t.lane l = placed .credit ∧ OtherLanes s t l ∧ t = { s with lanes := t.lanes }) ∧
        (v.owed < 8 → v.owed = 0 ∨ v.ingress ≠ [] → exec (.noticePlacement l) s = .next s)))

/-- R138, R139, R142, R143, R144, R44: with no flag to place, the lane serves the next stream of its round robin that waits
on it. The stream emits one item, in the order RESYNC, lowest GAP, COMMIT, END, STOP; the record carries the owed credits; a
GAP is counted in the stream; the position becomes the stream's. The advertised end of its COMMIT: in OPEN and HOLD it is the
window end while the pool is well; while it is low it is the smallest of the capacity end, F when known, and the larger of
one chunk past the committed offset and the end of the highest chunk that holds a slot; in the other states it is the
committed offset. -/
def Obligations.StreamTurnEmitsOneItem : Prop :=
  (∀ c : Context,
    (c.state.receiving = false → ∀ pool, c.advertisedEnd pool = c.committed) ∧
    (c.state.receiving = true → c.advertisedEnd .ok =
      min (min (c.committed + 65536 * c.w) (65536 * c.cap)) (c.final.getD (65536 * c.cap))) ∧
    (c.state.receiving = true → ∀ top, (∀ r ∈ c.window, r.slot.isSome = true → 65536 * (r.index + 1) ≤ top) →
      top = 0 ∨ (∃ r ∈ c.window, r.slot.isSome = true ∧ top = 65536 * (r.index + 1)) →
      c.advertisedEnd .low =
        min (min (max (c.committed + 65536) top) (65536 * c.cap)) (c.final.getD (65536 * c.cap)))) ∧
  ∀ (l : LaneId) (s : State) (i : StreamIndex) (c : Context) (before after : List StreamIndex) (n : Notice)
    (left : NoticeSet),
    (s.lane l).state = .active → (s.lane l).output.length < 8 → (s.lane l).flag = none → Serving s → AllParityGood s →
    turnOrder (s.lane l).turn = before ++ i :: after → (∀ j ∈ before, ¬WaitsOn s l j) → WaitsOn s l i →
    s.ctx? i = some c → Emits c s.pool.state n left →
    ∃ t, exec (.noticePlacement l) s = .next t ∧ OtherLanes s t l ∧ OtherEntries s t i ∧
      t.lane l = { s.lane l with
        output := (s.lane l).output ++ [⟨n, (s.lane l).owed, some i⟩]
        credit := (s.lane l).credit + (s.lane l).owed, owed := 0, turn := i } ∧
      Holds t i { c with
        notices := left
        counts := { c.counts with gapsSent :=
          if c.notices.resync = false ∧ c.notices.gaps ≠ [] then min (c.counts.gapsSent + 1) 4294967295
          else c.counts.gapsSent } } ∧
      t = { s with lanes := t.lanes, table := t.table }

/-! ## The drain port -/

/-- R117, R118, R116, R12, R114, R119, R136: at its turn the arbiter serves the next offerable stream after its
position. The frontier chunk is offered under the first drain tag after the counter that no present record has, with the
block base + 16·k; it becomes OFFERED with one more offer; streaming is set; a chunk offered before counts as a rewrite.
With no room, no offerable stream or a device not READY, nothing happens. The model's choices are that such a turn is a
command without effect (log 1) and that a stream is looked for in the table as it stands, damaged entries included, so that
a turn no such entry makes possible checks no parity (log 22). -/
def Obligations.ArbiterOffersTheFrontier : Prop :=
  ∀ (s : State) (i : StreamIndex) (c : Context) (before after : List StreamIndex) (p : Nat) (r : ChunkRecord),
    (s.device ≠ .ready ∨ 128 ≤ s.drainLoad ∨ (∀ j d, s.ctx? j = some d → d.offerable = false) →
      exec .arbiterTurn s = .next s) ∧
    (Serving s → AllParityGood s → s.drainLoad < 128 → turnOrder s.arbiter = before ++ i :: after →
      (∀ j ∈ before, ∀ d, s.ctx? j = some d → d.offerable = false) → s.ctx? i = some c → c.offerable = true →
      c.frontier = some (p, r) →
      ∃ t d tag, exec .arbiterTurn s = .next t ∧ OtherEntries s t i ∧ Holds t i d ∧
        tag ∉ s.tagsPresent ∧
        (∃ n : Nat, tag = s.tagCounter + BitVec.ofNat 32 (n + 1) ∧
          ∀ m, m < n → s.tagCounter + BitVec.ofNat 32 (m + 1) ∈ s.tagsPresent) ∧
        t.tagCounter = tag ∧ t.arbiter = i ∧
        t.offered = s.offered ++ [{
          stream := i, pos := p, drainTag := tag, tag := c.tag, index := r.index, target := c.target
          block := c.base + 16 * r.index, len := chunkLength c.final r.index, check := r.check.getD 0 }] ∧
        OneRecord c d p { r with state := .offered, offers := r.offers + 1 } ∧
        d = { c with
          streaming := true, flushPending := c.flushPending && d.frontierVerified, window := d.window
          counts := { c.counts with rewrites :=
            if 1 ≤ r.offers then min (c.counts.rewrites + 1) 4294967295 else c.counts.rewrites } } ∧
        (1 ≤ r.offers → Counted s t .rewrites 1) ∧ (r.offers = 0 → t.live = s.live) ∧
        t = { s with table := t.table, live := t.live, tagCounter := t.tagCounter, arbiter := t.arbiter,
                     offered := t.offered })

/-- R123, R116, R114, R131, R176: TAKE answers OFFLINE or NONE, its offer field zeros, with no effect, or gives the head
offer, which enters the drain map with the device time plus the drain timeout as its expiry while its chunk becomes
TAKEN. -/
def Obligations.TakeHandsOverTheHeadOffer : Prop :=
  ∀ s : State,
    (s.device ≠ .ready ∨ s.signal = .offline →
      exec .take s = .next { s with ports := { s.ports with takeAnswer := some (3 :: List.replicate 35 0) } }) ∧
    (Serving s → s.signal = .ready → s.offered = [] →
      exec .take s = .next { s with ports := { s.ports with takeAnswer := some (2 :: List.replicate 35 0) } }) ∧
    ∀ o rest c r, Serving s → s.signal = .ready → s.offered = o :: rest → Holds s o.stream c →
      c.window[o.pos]? = some r →
      ∃ t d, exec .take s = .next t ∧ OtherEntries s t o.stream ∧ Holds t o.stream d ∧
        t.ports = { s.ports with takeAnswer := some ([1, 0, 0, 0] ++ o.bytes) } ∧ t.offered = rest ∧
        t.drainMap = s.drainMap ++ [⟨o.drainTag, o.stream, o.pos, s.time + s.settings.drainTimeout⟩] ∧
        OneRecord c d o.pos { r with state := .taken } ∧
        d = { c with window := d.window, streaming := d.streaming, flushPending := d.flushPending } ∧
        FlagsTested c d ∧
        t = { s with ports := t.ports, offered := t.offered, drainMap := t.drainMap, table := t.table }

/-- R124, R89, R90: READ answers STALE for a tag of no drain map record, RANGE for a length of 0, above 65,536 or past
the chunk's end, and otherwise DATA with the slot's bytes, marked invalid exactly when a word read is uncorrectable. It
changes no chunk, record or expiry; corrected words are counted, uncorrectable ones counted, flagged and reported once.
The model's choices are what a byte that nothing has written reads as (log 8), and that the chunk's length and index come
from the stream's context, a detached and damaged one included, so that a READ of a detached stream's chunk may be RANGE
(log 31). -/
def Obligations.ReadServesTheChunksBytes : Prop :=
  ∀ (s : State) (record : List Byte),
    let tag := BitVec.ofNat 32 (fieldAt record 0 4)
    let start := fieldAt record 4 4
    let n := fieldAt record 8 4
    (s.drainRecord tag = none →
      exec (.read record) s = .next { s with ports := { s.ports with readAnswer := some [2, 0, 0, 0, 0, 0, 0, 0] } }) ∧
    ∀ d c r slot, s.drainRecord tag = some d → Serving s → CanonicalForm s → Holds s d.stream c →
      c.window[d.pos]? = some r → s.pool.slotOf d.stream d.pos = some slot →
      let len := chunkLength c.final r.index
      let words := (List.range 8192).filter fun w => decide (start / 8 ≤ w ∧ w ≤ (start + n - 1) / 8)
      let bad := (words.filter fun w => decide (s.condition slot w = .uncorrectable)).length
      let corrected := (words.filter fun w => decide (s.condition slot w = .correctable)).length
      (n = 0 ∨ 65536 < n ∨ len < start + n →
        exec (.read record) s = .next { s with ports := { s.ports with readAnswer := some [3, 0, 0, 0, 0, 0, 0, 0] } }) ∧
      (0 < n → n ≤ 65536 → start + n ≤ len →
        ∃ t data, exec (.read record) s = .next t ∧ data.length = n ∧
          (∀ j, j < n → data[j]? = some (s.byteAt (bufferAddress slot (start + j)))) ∧
          t.ports = { s.ports with
            readAnswer := some ([1, if bad = 0 then 0 else 1, 0, 0] ++ le 4 n ++ data) } ∧
          t.counter .correctedErrors = (s.counter .correctedErrors).add corrected ∧
          (bad = 0 → CountersKept s t [.correctedErrors] ∧ t = { s with ports := t.ports, live := t.live }) ∧
          (bad ≠ 0 → t.counter .uncorrectableErrors = (s.counter .uncorrectableErrors).add bad ∧
            CountersKept s t [.correctedErrors, .uncorrectableErrors, .eventsLost] ∧
            t.pool.mark slot = true ∧ (∀ x, x ≠ slot → t.pool.mark x = s.pool.mark x) ∧
            t.errors.bufferUncorrected = true ∧
            t.errors.first = s.errors.first.or (some ⟨.bufferUncorrected, some d.stream, some slot, some r.index⟩) ∧
            t.events =
              (s.raise (.deviceError .bufferUncorrected (some d.stream) none (some slot) (some r.index))).events ∧
            t = { s with ports := t.ports, live := t.live, errors := t.errors, events := t.events,
                         pool := { s.pool with marks := t.pool.marks } }))

/-- R126, R133 to R135, R153, R156, R80, R81, R85, R91: a STORED completion with the recorded check value stores the chunk.
Above the head it waits in STORED (n is 0 here). At the head it commits, and with it, in chunk order, the n - 1 STORED
chunks behind it: the committed offset rises by one chunk each, or to F for the final chunk, their records are reset for
the chunks W further, their slots given up, COMMIT is added, and a stream in OPEN or HOLD that reaches F becomes COMPLETE.
A stream in SALVAGING with nothing left returns to FREE, the slots of its other records given up too. The model's choices
are that the watermark test ends the event, after STREAM_FINISHED (log 10), and that a stream that becomes COMPLETE in HOLD
keeps its history and hold failures (log 29). -/
def Obligations.StoredHeadCommitsInOrder : Prop :=
  ∀ (s : State) (record : List Byte) (m : DrainRecord) (c : Context) (r : ChunkRecord) (n : Nat),
    let i := m.stream
    s.drainRecord (BitVec.ofNat 32 (fieldAt record 0 4)) = some m → fieldAt record 4 1 = 1 →
    r.check = some (BitVec.ofNat 32 (fieldAt record 8 4)) → Serving s → CanonicalForm s → Holds s i c →
    c.state.receiving = true ∨ c.state = .aborted ∨ c.state = .salvaging → c.window[m.pos]? = some r → s.Commits i c m.pos n →
    let left := s.drainMap.filter fun x => decide (x.drainTag ≠ m.drainTag)
    let base : Context := { c with window := c.window.set m.pos { r with state := .stored } }
    let d := base.committing n
    let ends := base.finishes n
    let given := s.committedSlots i c n
    ∃ u, exec (.complete record) s = .next u.poolTest ∧ OtherEntries s u i ∧ u.drainMap = left ∧
      (¬d.SalvageOver → Holds u i d ∧ SlotsGivenUp s u given ∧ u.offered = s.offered) ∧
      (d.SalvageOver → (∀ o, s.engine = some o → o.stream ≠ i) → (∀ x ∈ left, x.stream ≠ i) →
        u.entry i = Entry.free ∧ Raised s u (.streamReleased i c.tag c.cause d.committed) ∧
        ∃ others : List Slot, others.Nodup ∧
          (∀ slot, slot ∈ others ↔ slot ∉ given ∧ ∃ p, s.pool.use slot = .assigned i p) ∧
          SlotsGivenUp s u (given ++ others)) ∧
      u.pool.reserve = (if (decide (1 ≤ n) && c.state.receiving && !ends && d.headSlotless) = true
        then s.pool.reserve + 1 else s.pool.reserve) ∧
      u.counter .chunksCommitted = Nat.iterate (fun x : Count => x.add 1) n (s.counter .chunksCommitted) ∧
      CountersKept s u [.chunksCommitted, .retiredSlots, .eventsLost] ∧
      (ends = true → Raised s u (.streamFinished i c.tag d.committed)) ∧
      (ends = false → ¬d.SalvageOver → u.events = s.events ∧ u.errors = s.errors) ∧
      u = { s with drainMap := u.drainMap, offered := u.offered, table := u.table, live := u.live, events := u.events,
                   errors := u.errors,
                   pool := { s.pool with freeList := u.pool.freeList, uses := u.pool.uses, marks := u.pool.marks,
                                         reserve := u.pool.reserve } }

/-- R125, R127, R128, R131, R132, R136, R153, R156: a write failure, a STORED completion with another check value, or the
expiry of the record returns the chunk to VERIFIED with its slot, offers and check value, while its offers are fewer than 4
or its stream is ABORTED; in ABORTED so does TARGET_FULL. A timeout is counted. A stream in SALVAGING that has nothing left
to drain then returns to FREE. A tag without a record is a stray completion, counted while the device is READY; an expiry
not yet reached does nothing. The model's choices are that an expiry may come late, and before its time has no effect
(log 1, 5), and that the watermark test ends the event (log 10). -/
def Obligations.StoreFailureReturnsTheChunk : Prop :=
  ∀ (s : State) (record : List Byte) (tag : Word),
    (tag = BitVec.ofNat 32 (fieldAt record 0 4) → s.drainRecord tag = none →
      ∃ t, exec (.complete record) s = .next t ∧ (s.device ≠ .ready → t = s) ∧
        (s.device = .ready → Counted s t .strayCompletions 1 ∧ t = { s with live := t.live })) ∧
    ((∀ m, s.drainRecord tag = some m → s.time < m.expiry) → exec (.drainTimeout tag) s = .next s) ∧
    ∀ m c r (x : Instr), s.drainRecord tag = some m → Serving s → Holds s m.stream c → c.window[m.pos]? = some r →
      let status := fieldAt record 4 1
      let completes := x = .complete record ∧ tag = BitVec.ofNat 32 (fieldAt record 0 4)
      let fails := (completes ∧ (status ∉ [1, 3, 4] ∨
        (status = 1 ∧ r.check ≠ some (BitVec.ofNat 32 (fieldAt record 8 4))))) ∨ (x = .drainTimeout tag ∧ m.expiry ≤ s.time)
      (fails ∧ (((c.state.receiving = true ∨ c.state = .salvaging) ∧ r.offers < 4) ∨ c.state = .aborted)) ∨
        (completes ∧ status = 3 ∧ c.state = .aborted) →
      let left := s.drainMap.filter fun y => decide (y.drainTag ≠ m.drainTag)
      let d := Context.flagsTested { c with window := c.window.set m.pos { r with state := .verified } }
      let kept : State → Prop := fun t =>
        (x = .complete record → t.counter .timeouts = s.counter .timeouts) ∧
        (x = .drainTimeout tag → t.counter .timeouts = (s.counter .timeouts).add 1)
      (¬d.SalvageOver → ∃ t, exec x s = .next t ∧ OtherEntries s t m.stream ∧ Holds t m.stream d ∧ t.drainMap = left ∧
        CountersKept s t [.timeouts] ∧ kept t ∧
        t = { s with drainMap := t.drainMap, table := t.table, live := t.live }) ∧
      (d.SalvageOver → CanonicalForm s → (∀ o, s.engine = some o → o.stream ≠ m.stream) →
        (∀ y ∈ left, y.stream ≠ m.stream) →
        ∃ u, exec x s = .next u.poolTest ∧ u.drainMap = left ∧ ReturnedToFree s u m.stream c ∧
          u.offered = (s.offered.filter fun o => decide (o.stream ≠ m.stream)) ∧
          CountersKept s u [.timeouts, .retiredSlots, .eventsLost] ∧ kept u ∧
          u = { s with drainMap := u.drainMap, table := u.table, offered := u.offered, live := u.live,
                       events := u.events, errors := u.errors,
                       pool := { s.pool with freeList := u.pool.freeList, uses := u.pool.uses,
                                             marks := u.pool.marks } })

/-- R125, R127, R128, R132, R150, R153, R154: a TARGET_FULL completion, and at the fourth offer a failed write, a STORED
completion with another check value or an expiry, abort a stream in OPEN or HOLD with STORE_FULL and STORE_FAILED; the
chunk is back in VERIFIED first. In SALVAGING they end the salvage, TARGET_FULL keeping the cause: the stream is RELEASING
without offers while a chunk is in flight, and returns to FREE when none is. The model's choices are that an expiry may come
late (log 5), that in SALVAGING the watermark test ends the event (log 10) and that a stream aborted in HOLD keeps its
history and hold failures (log 29). -/
def Obligations.StorageFailureAborts : Prop :=
  ∀ (s : State) (record : List Byte) (x : Instr) (m : DrainRecord) (c : Context) (r : ChunkRecord) (cause : Cause),
    s.drainRecord m.drainTag = some m → Serving s → CanonicalForm s → Holds s m.stream c → c.window[m.pos]? = some r →
    (x = .complete record ∧ m.drainTag = BitVec.ofNat 32 (fieldAt record 0 4) ∧
      ((fieldAt record 4 1 = 3 ∧ cause = .storeFull) ∨
        (4 ≤ r.offers ∧ cause = .storeFailed ∧ (fieldAt record 4 1 ∉ [1, 3, 4] ∨
          (fieldAt record 4 1 = 1 ∧ r.check ≠ some (BitVec.ofNat 32 (fieldAt record 8 4))))))) ∨
      (x = .drainTimeout m.drainTag ∧ m.expiry ≤ s.time ∧ 4 ≤ r.offers ∧ cause = .storeFailed) →
    let left := s.drainMap.filter fun y => decide (y.drainTag ≠ m.drainTag)
    let back : Context := { c with window := c.window.set m.pos { r with state := .verified } }
    let kept : State → Prop := fun t =>
      (x = .complete record → t.counter .timeouts = s.counter .timeouts) ∧
      (x = .drainTimeout m.drainTag → t.counter .timeouts = (s.counter .timeouts).add 1)
    (c.state.receiving = true → RoomBelowHigh s →
      ∃ t d, exec x s = .next t ∧ t.drainMap = left ∧ EnteredAborted s t m.stream back d cause ∧
        t.pool = { s.pool with reserve := if c.headSlotless then s.pool.reserve - 1 else s.pool.reserve } ∧
        CountersKept s t [.timeouts, .eventsLost] ∧ kept t ∧
        t = { s with drainMap := t.drainMap, table := t.table, pool := t.pool, offered := t.offered,
                     verifyQueue := t.verifyQueue, events := t.events, live := t.live, errors := t.errors }) ∧
    (c.state = .salvaging →
      let reason := if cause = .storeFull then c.cause else some cause
      ((∃ o, s.engine = some o ∧ o.stream = m.stream) ∨ (∃ y ∈ left, y.stream = m.stream) →
        ∃ t d, exec x s = .next t ∧ t.drainMap = left ∧ OtherEntries s t m.stream ∧ Holds t m.stream d ∧
          d = { c with state := .releasing, cause := reason, notices := ⟨false, [], false, false, false⟩
                       window := d.window, streaming := d.streaming, flushPending := d.flushPending } ∧
          (∀ p, d.window[p]? = (back.window[p]?).map fun y : ChunkRecord => y.withdrawnBy (s.offersAt m.stream p)) ∧
          FlagsTested c d ∧ t.offered = (s.offered.filter fun o => decide (o.stream ≠ m.stream)) ∧
          CountersKept s t [.timeouts] ∧ kept t ∧
          t = { s with drainMap := t.drainMap, table := t.table, offered := t.offered, live := t.live }) ∧
      ((∀ o, s.engine = some o → o.stream ≠ m.stream) → (∀ y ∈ left, y.stream ≠ m.stream) →
        ∃ u, exec x s = .next u.poolTest ∧ u.drainMap = left ∧ ReturnedToFree s u m.stream { c with cause := reason } ∧
          u.offered = (s.offered.filter fun o => decide (o.stream ≠ m.stream)) ∧
          CountersKept s u [.timeouts, .retiredSlots, .eventsLost] ∧ kept u ∧
          u = { s with drainMap := u.drainMap, table := u.table, offered := u.offered, live := u.live,
                       events := u.events, errors := u.errors,
                       pool := { s.pool with freeList := u.pool.freeList, uses := u.pool.uses,
                                             marks := u.pool.marks } }))

/-- R129, R91, R108, R150, R153, R156: a POISONED completion empties the chunk, forgets its check value and offers, and sends
its slot to retirement: it is retired when fewer than 64 are and free slots stay at least the head reserve, which rises by 1
for the head chunk of a stream in OPEN or HOLD; otherwise the chunk keeps it. In OPEN and HOLD the failure is counted in the
stream and, up to the third, in the chunk, and the data is asked for again, by GAP in OPEN and RESYNC in HOLD; the fourth
aborts the stream with CHUNK_UNRECOVERABLE, out of the head reserve before the retirement. In ABORTED and SALVAGING nothing is
asked for, and a salvage left with nothing to drain returns to FREE. The model's choices are that the watermark test ends the
event and that a retirement at an abort comes before it (log 10), and that a stream aborted in HOLD keeps its history and
hold failures (log 29). -/
def Obligations.PoisonedCompletionRefetches : Prop :=
  ∀ (s : State) (record : List Byte) (m : DrainRecord) (c : Context) (r : ChunkRecord) (slot : Slot),
    s.drainRecord (BitVec.ofNat 32 (fieldAt record 0 4)) = some m → fieldAt record 4 1 = 4 → Serving s →
    CanonicalForm s → Holds s m.stream c → c.window[m.pos]? = some r → s.pool.slotOf m.stream m.pos = some slot →
    let i := m.stream
    let left := s.drainMap.filter fun y => decide (y.drainTag ≠ m.drainTag)
    let emptied : Bool → ChunkRecord := fun gone => { r with
      state := .empty, ranges := [], check := none, offers := 0, slot := if gone then none else r.slot }
    let counts := { c.counts with failures := min (c.counts.failures + 1) 4294967295 }
    let slots : State → Bool → Prop := fun u gone =>
      u.pool.use slot = (if gone then .retired else s.pool.use slot) ∧ (∀ z, z ≠ slot → u.pool.use z = s.pool.use z) ∧
        u.counter .retiredSlots = (if gone then (s.counter .retiredSlots).add 1 else s.counter .retiredSlots)
    (c.state.receiving = true → r.failures < 3 →
      let rise := if c.posOf c.head = m.pos then 1 else 0
      let retires := decide (s.pool.retiredCount < 64 ∧ s.pool.reserve + rise ≤ s.pool.free)
      ∃ u d, exec (.complete record) s = .next u.poolTest ∧ OtherEntries s u i ∧ Holds u i d ∧ u.drainMap = left ∧
        OneRecord c d m.pos { emptied retires with failures := r.failures + 1 } ∧
        d = { c with
          counts := counts
          notices := if c.state = .hold then { c.notices with resync := true }
            else { c.notices with gaps := insertPos m.pos c.notices.gaps }
          window := d.window, streaming := d.streaming, flushPending := d.flushPending } ∧
        FlagsTested c d ∧ slots u retires ∧ CountersKept s u [.retiredSlots] ∧
        u = { s with drainMap := u.drainMap, table := u.table, live := u.live, pool := { s.pool with
          uses := u.pool.uses, reserve := if retires then s.pool.reserve + rise else s.pool.reserve } }) ∧
    (c.state.receiving = true → r.failures = 3 → RoomBelowHigh s →
      let reserve := if c.headSlotless then s.pool.reserve - 1 else s.pool.reserve
      let retires := decide (s.pool.retiredCount < 64 ∧ reserve ≤ s.pool.free)
      ∃ t d, exec (.complete record) s = .next t ∧ t.drainMap = left ∧
        EnteredAborted s t i { c with counts := counts, window := c.window.set m.pos (emptied retires) } d
          .chunkUnrecoverable ∧
        slots t retires ∧ CountersKept s t [.retiredSlots, .eventsLost] ∧
        t = { s with drainMap := t.drainMap, table := t.table, offered := t.offered, verifyQueue := t.verifyQueue,
                     events := t.events, live := t.live, errors := t.errors,
                     pool := { s.pool with uses := t.pool.uses, reserve := reserve } }) ∧
    (c.state = .aborted ∨ c.state = .salvaging →
      let retires := decide (s.pool.retiredCount < 64 ∧ s.pool.reserve ≤ s.pool.free)
      let d := Context.flagsTested { c with window := c.window.set m.pos (emptied retires) }
      let without := if retires then s.retireSlot slot else s
      (¬d.SalvageOver → ∃ t, exec (.complete record) s = .next t ∧ OtherEntries s t i ∧ Holds t i d ∧ t.drainMap = left ∧
        slots t retires ∧ CountersKept s t [.retiredSlots] ∧
        t = { s with drainMap := t.drainMap, table := t.table, live := t.live,
                     pool := { s.pool with uses := t.pool.uses } }) ∧
      (d.SalvageOver → (∀ o, s.engine = some o → o.stream ≠ i) → (∀ y ∈ left, y.stream ≠ i) →
        ∃ u, exec (.complete record) s = .next u.poolTest ∧ u.drainMap = left ∧ ReturnedToFree without u i c ∧
          u.offered = (s.offered.filter fun o => decide (o.stream ≠ i)) ∧
          CountersKept s u [.retiredSlots, .eventsLost] ∧
          u = { s with drainMap := u.drainMap, table := u.table, offered := u.offered, live := u.live,
                       events := u.events, errors := u.errors,
                       pool := { s.pool with freeList := u.pool.freeList, uses := u.pool.uses,
                                             marks := u.pool.marks } }))

/-- R125, R130, R132, R80, R85, R91, R156: a completion, whatever its status, or an expiry that is reached, of a chunk of a
RELEASING stream: the chunk is emptied and gives its slot up, and when nothing else of the stream is in flight the entry
returns to FREE with every slot of it, in chunk order. POISONED sends its chunk's slot to retirement whatever its mark. A
timeout is counted. The model's choices are that an expiry may come late (log 5) and that the watermark test ends the event
(log 10). -/
def Obligations.ReleasingChunkGivesItsSlotUp : Prop :=
  ∀ (s : State) (record : List Byte) (x : Instr) (m : DrainRecord) (c : Context) (r : ChunkRecord) (slot : Slot),
    s.drainRecord m.drainTag = some m → Serving s → CanonicalForm s → Holds s m.stream c → c.state = .releasing →
    c.window[m.pos]? = some r → (∀ z, s.pool.use z = .assigned m.stream m.pos ↔ z = slot) →
    (x = .complete record ∧ m.drainTag = BitVec.ofNat 32 (fieldAt record 0 4)) ∨
      (x = .drainTimeout m.drainTag ∧ m.expiry ≤ s.time) →
    let i := m.stream
    let left := s.drainMap.filter fun y => decide (y.drainTag ≠ m.drainTag)
    let poisoned := if x = .complete record ∧ fieldAt record 4 1 = 4 then some slot else none
    let kept : State → Prop := fun u =>
      u.drainMap = left ∧ CountersKept s u [.timeouts, .retiredSlots, .eventsLost] ∧
      (x = .complete record → u.counter .timeouts = s.counter .timeouts) ∧
      (x = .drainTimeout m.drainTag → u.counter .timeouts = (s.counter .timeouts).add 1) ∧
      u = { s with drainMap := u.drainMap, table := u.table, live := u.live, events := u.events, errors := u.errors,
                   pool := { s.pool with freeList := u.pool.freeList, uses := u.pool.uses, marks := u.pool.marks } }
    ((∃ o, s.engine = some o ∧ o.stream = i) ∨ (∃ y ∈ left, y.stream = i) →
      ∃ u, exec x s = .next u.poolTest ∧ OtherEntries s u i ∧
        Holds u i (Context.flagsTested { c with
          window := c.window.set m.pos { r with state := .empty, ranges := [], slot := none } }) ∧
        SlotsGivenUp s u [slot] poisoned ∧ u.events = s.events ∧ u.errors = s.errors ∧ kept u) ∧
    ((∀ o, s.engine = some o → o.stream ≠ i) → (∀ y ∈ left, y.stream ≠ i) →
      ∃ u, exec x s = .next u.poolTest ∧ ReturnedToFree s u i c poisoned ∧ kept u)

/-- R119 to R122, R114, R130, R153, R156: a repeated signal changes nothing. Ready makes the writer state READY; offline, or
a port reset, makes it OFFLINE, with WRITER_CHANGED, and withdraws the drain map; a port reset withdraws the offered list as
well, sets the latest signal to offline and, when the state was OFFLINE, raises no event. A withdrawn chunk is VERIFIED
again with an offer less. Of a RELEASING stream it becomes EMPTY and gives its slot up, and the entry returns to FREE unless
the check engine still has a chunk of it; so does a stream in SALVAGING left with nothing to drain. While the device is not
READY only the signal changes. The model's choices are that WRITER_CHANGED comes before the records of the withdrawals
(log 14) and that one watermark test ends the event, after every STREAM_RELEASED (log 10). -/
def Obligations.WriterStateAndWithdrawals : Prop :=
  ∀ s : State,
    exec (.writerSignal s.signal) s = .next s ∧
    (s.device ≠ .ready → ∀ x, exec (.writerSignal x) s = .next { s with signal := x }) ∧
    (s.device ≠ .ready → s.offered = [] → s.drainMap = [] → exec .portReset s = .next { s with signal := .offline }) ∧
    (s.device = .ready → s.signal = .offline → ∃ t, exec (.writerSignal .ready) s = .next t ∧ t.signal = .ready ∧
      Raised s t (.writerChanged .ready .writerSignal) ∧ CountersKept s t [.eventsLost] ∧
      t = { s with signal := t.signal, events := t.events, live := t.live, errors := t.errors }) ∧
    ∀ (x : Instr) (cause : Option WriterCause),
      (x = .writerSignal .offline ∧ s.signal = .ready ∧ cause = some .writerSignal) ∨
        (x = .portReset ∧ s.signal = .ready ∧ cause = some .portReset) ∨
        (x = .portReset ∧ s.signal = .offline ∧ cause = none) →
      Serving s → CanonicalForm s →
      let offers := decide (x = .portReset)
      let named : StreamIndex → Prop := fun i =>
        (∃ m ∈ s.drainMap, m.stream = i) ∨ (offers = true ∧ ∃ o ∈ s.offered, o.stream = i)
      let number : StreamIndex → Nat → Nat := fun i p => s.takenAt i p + if offers then s.offersAt i p else 0
      let told := cause.elim s fun z => s.raise (.writerChanged .offline z)
      (∀ i, named i → ∃ c, Holds s i c ∧ c.state ≠ .complete) →
      ∃ u, exec x s = .next u.poolTest ∧ u.signal = .offline ∧ u.drainMap = [] ∧ told.events <+: u.events ∧
        (offers = true → u.offered = []) ∧ u.offered.Sublist s.offered ∧
        CountersKept s u [.retiredSlots, .eventsLost] ∧ (∀ i, ¬named i → u.entry i = s.entry i) ∧
        (∀ i c, named i → s.ctx? i = some c →
          let rest : Context := { c with
            window := c.window.mapIdx fun p r =>
              if c.state = .releasing ∧ number i p ≠ 0 then { r with
                state := .empty, ranges := [], slot := none, offers := r.offers - number i p }
              else r.withdrawnBy (number i p) }
          let d : Context := { rest with
            streaming := c.streaming && (rest.frontierVerified || rest.inWritersHands)
            flushPending := c.flushPending && rest.frontierVerified }
          let busy := ∃ o, s.engine = some o ∧ o.stream = i
          let idle := d.readyRun = [] ∧ ∀ r ∈ d.window, r.state ≠ .verifying ∧ r.state ≠ .offered ∧ r.state ≠ .taken
          (c.state.receiving = true ∨ c.state = .aborted ∨ (c.state = .salvaging ∧ ¬idle) ∨ (c.state = .releasing ∧ busy) →
            Holds u i d) ∧
          ((c.state = .releasing ∨ (c.state = .salvaging ∧ idle)) → ¬busy → u.entry i = Entry.free ∧
            ((∀ j, named j → j = i) → ReturnedToFree told u i c)) ∧
          (∀ slot p, s.pool.use slot = .assigned i p →
            (c.state = .releasing ∧ (busy → number i p ≠ 0)) ∨
              (c.state = .salvaging ∧ idle ∧ ¬busy) → s.pool.slotOf i p = some slot →
            (u.pool.use slot = .free ∧ slot ∈ u.pool.freeList) ∨
              (u.pool.use slot = .retired ∧ s.pool.mark slot = true))) ∧
        ((∀ i c, named i → s.ctx? i = some c → c.state.receiving = true ∨ c.state = .aborted) →
          u.events = told.events ∧ u.errors = told.errors ∧ u.pool = s.pool ∧
          u.offered = (if offers then [] else s.offered)) ∧
        u = { s with signal := u.signal, drainMap := u.drainMap, offered := u.offered, table := u.table,
                     events := u.events, live := u.live, errors := u.errors,
                     pool := { s.pool with freeList := u.pool.freeList, uses := u.pool.uses, marks := u.pool.marks } }

/-! ## The Check Unit -/

/-- R98, R97, R8: the IDLE engine takes the head entry: the chunk becomes VERIFYING and the engine holds what R97 lists.
A BUSY engine, an empty queue or a device not READY takes nothing. That such a take is a command without effect is the
model's choice (log 1). -/
def Obligations.EngineTakesTheHeadEntry : Prop :=
  ∀ s : State,
    (s.verifyQueue = [] ∨ s.engine ≠ none ∨ s.device ≠ .ready → exec .engineTake s = .next s) ∧
    ∀ q rest c r slot, s.verifyQueue = q :: rest → s.engine = none → Serving s → Holds s q.stream c →
      c.window[q.pos]? = some r → r.slot = some slot →
      ∃ t d o, exec .engineTake s = .next t ∧ t.verifyQueue = rest ∧ t.engine = some o ∧
        o.stream = q.stream ∧ o.pos = q.pos ∧ o.index = r.index ∧ o.slot = slot ∧
        o.len.val = chunkLength c.final r.index ∧ o.pattern = c.pattern ∧
        OtherEntries s t q.stream ∧ Holds t q.stream d ∧ OneRecord c d q.pos { r with state := .verifying } ∧
        d = { c with window := d.window, streaming := d.streaming, flushPending := d.flushPending } ∧
        FlagsTested c d ∧ t = { s with verifyQueue := t.verifyQueue, engine := t.engine, table := t.table }

/-- R8, R9, R101, R102, R111, R19: a non-pattern chunk of a stream in OPEN or HOLD whose read met no uncorrectable word, whose
check value is right and whose chunk number is k mod 2^32 passes: VERIFIED with the check value recorded, a pass appended
to the history, its GAP item removed. A stream in HOLD returns to OPEN with an empty history and STREAM_RESUMED. That the
words, corrected ones counted, are read as they stand at the completion is the model's choice (log 20). -/
def Obligations.SoundChunkPasses : Prop :=
  ∀ (s : State) (o : EngineOp) (c : Context) (r : ChunkRecord),
    s.engine = some o → o.pattern = false → Serving s → Holds s o.stream c → c.state.receiving = true →
    c.window[o.pos]? = some r →
    let bytes := s.slotBytes o.slot 0 o.len.val
    let words := (List.range 8192).filter fun w => decide (8 * w < o.len.val)
    (∀ w ∈ words, s.condition o.slot w ≠ .uncorrectable) → chunkCheck bytes = trailerCheck bytes →
    trailerNumber bytes = o.index % 4294967296 →
    ∃ t d, exec .verifyCompletion s = .next t ∧ t.engine = none ∧ OtherEntries s t o.stream ∧ Holds t o.stream d ∧
      OneRecord c d o.pos { r with state := .verified, check := some (trailerCheck bytes) } ∧
      d = { c with
        state := .opened
        history := if c.state = .hold then [] else (c.history ++ [Verdict.pass]).drop (c.history.length - 7)
        holdFailures := if c.state = .hold then 0 else c.holdFailures
        notices := { c.notices with gaps := c.notices.gaps.filter fun p => decide (p ≠ o.pos) }
        window := d.window, streaming := d.streaming, flushPending := d.flushPending } ∧
      FlagsTested c d ∧
      t.counter .chunksVerified = (s.counter .chunksVerified).add 1 ∧
      t.counter .correctedErrors = (s.counter .correctedErrors).add
        (words.filter fun w => decide (s.condition o.slot w = .correctable)).length ∧
      CountersKept s t [.chunksVerified, .correctedErrors, .eventsLost] ∧
      (c.state = .hold → Raised s t (.streamResumed o.stream c.tag c.committed)) ∧
      (c.state = .opened → t.events = s.events ∧ t.errors = s.errors) ∧
      t = { s with engine := t.engine, table := t.table, live := t.live, events := t.events, errors := t.errors }

/-- R9, R104, R106, R107, R108, R111, R96, R19: a chunk that fails its check value or its chunk number, not for the fourth
time, is emptied with its slot kept and counted. In OPEN below the threshold its data is asked for by GAP. In OPEN at the
threshold the stream enters HOLD: every chunk in FILLING or QUEUED is emptied, its entries leave the queue, GAPs give way to
RESYNC, and STREAM_HOLD is raised. In HOLD, before the third hold failure, RESYNC is added. That the words are read as
they stand at the completion is the model's choice (log 20). -/
def Obligations.FailedChunkIsFetchedAgain : Prop :=
  ∀ (s : State) (o : EngineOp) (c : Context) (r : ChunkRecord),
    s.engine = some o → o.pattern = false → Serving s → Holds s o.stream c → c.state.receiving = true →
    c.window[o.pos]? = some r → r.failures < 3 →
    let bytes := s.slotBytes o.slot 0 o.len.val
    let words := (List.range 8192).filter fun w => decide (8 * w < o.len.val)
    (∀ w ∈ words, s.condition o.slot w ≠ .uncorrectable) →
    (chunkCheck bytes ≠ trailerCheck bytes ∨ trailerNumber bytes ≠ o.index % 4294967296) →
    let history := (c.history ++ [Verdict.fail]).drop (c.history.length - 7)
    let fails := history.count Verdict.fail
    let failed := { r with state := .empty, ranges := [], failures := r.failures + 1 }
    let holds := c.state = .opened ∧ 1 ≤ c.t ∧ c.t ≤ fails
    (c.state = .hold → c.holdFailures < 2) →
    ∃ t d, exec .verifyCompletion s = .next t ∧ t.engine = none ∧ OtherEntries s t o.stream ∧ Holds t o.stream d ∧
      d = { c with
        state := if holds then .hold else c.state
        history := history
        holdFailures := if c.state = .hold then c.holdFailures + 1 else c.holdFailures
        counts := { c.counts with failures := min (c.counts.failures + 1) 4294967295 }
        notices :=
          if holds then { c.notices with gaps := [], resync := true }
          else if c.state = .hold then { c.notices with resync := true }
          else { c.notices with gaps := insertPos o.pos c.notices.gaps }
        window := d.window, streaming := d.streaming, flushPending := d.flushPending } ∧
      FlagsTested c d ∧
      (¬holds → OneRecord c d o.pos failed ∧ t.verifyQueue = s.verifyQueue ∧ t.events = s.events ∧
        t.errors = s.errors) ∧
      (holds → d.window[o.pos]? = some failed ∧
        (∀ p, p ≠ o.pos → d.window[p]? = (c.window[p]?).map fun x : ChunkRecord =>
          x.atAbort 0 (s.queuedAt o.stream p)) ∧
        t.verifyQueue = (s.verifyQueue.filter fun q => decide (q.stream ≠ o.stream)) ∧
        Raised s t (.streamHold o.stream c.tag c.committed fails)) ∧
      t.counter .chunksFailed = (s.counter .chunksFailed).add 1 ∧
      CountersKept s t [.chunksFailed, .correctedErrors, .eventsLost] ∧
      t = { s with engine := t.engine, table := t.table, live := t.live, events := t.events, errors := t.errors,
                   verifyQueue := t.verifyQueue }

/-- R104, R108, R150: a chunk's fourth failure aborts its stream with CHUNK_UNRECOVERABLE, in OPEN and HOLD alike; the third
hold failure aborts it with PATH_UNRELIABLE. The model's choices are that a stream aborted in HOLD keeps its history and
hold failures (log 29) and that the words are read as they stand at the completion (log 20). -/
def Obligations.FailureLimitsAbort : Prop :=
  ∀ (s : State) (o : EngineOp) (c : Context) (r : ChunkRecord) (cause : Cause),
    s.engine = some o → o.pattern = false → Serving s → RoomBelowHigh s → Holds s o.stream c →
    c.state.receiving = true → c.window[o.pos]? = some r →
    let bytes := s.slotBytes o.slot 0 o.len.val
    let words := (List.range 8192).filter fun w => decide (8 * w < o.len.val)
    (∀ w ∈ words, s.condition o.slot w ≠ .uncorrectable) →
    (chunkCheck bytes ≠ trailerCheck bytes ∨ trailerNumber bytes ≠ o.index % 4294967296) →
    (r.failures = 3 ∧ cause = .chunkUnrecoverable) ∨
      (c.state = .hold ∧ r.failures < 3 ∧ c.holdFailures = 2 ∧ cause = .pathUnreliable) →
    ∃ t d, exec .verifyCompletion s = .next t ∧ t.engine = none ∧
      EnteredAborted s t o.stream
        { c with
          window := c.window.set o.pos { r with state := .empty, ranges := [], failures := min (r.failures + 1) 3 }
          history := (c.history ++ [Verdict.fail]).drop (c.history.length - 7)
          counts := { c.counts with failures := min (c.counts.failures + 1) 4294967295 }
          holdFailures := if cause = .pathUnreliable then 3 else c.holdFailures } d cause ∧
      t.pool = { s.pool with reserve := if c.headSlotless then s.pool.reserve - 1 else s.pool.reserve } ∧
      t.counter .chunksFailed = (s.counter .chunksFailed).add 1 ∧
      CountersKept s t [.chunksFailed, .correctedErrors, .eventsLost] ∧
      t = { s with engine := t.engine, table := t.table, pool := t.pool, offered := t.offered,
                   verifyQueue := t.verifyQueue, events := t.events, live := t.live, errors := t.errors }

/-- R9, R105, R90, R91, R104, R106 to R108, R111, R150: a fail for an uncorrectable word in OPEN or HOLD. The read's error is
counted and reported, the chunk is emptied and counted as failed, the stream asks for it again, enters HOLD or, at the
fourth failure or the third hold failure, ABORTED, and the slot is retired when fewer than 64 are and the free slots still
meet the head reserve, which has lost the stream if it aborts and gains it if its head chunk loses its slot; otherwise the
chunk keeps the slot, marked. The model's choices are that the words are read as they stand at the completion (log 20),
that their report comes before the stream's own record (log 23), that the watermark test ends the event (log 10) and that a
stream that leaves HOLD for ABORTED keeps its history and hold failures (log 29). -/
def Obligations.BufferErrorSendsTheSlotToRetirement : Prop :=
  ∀ (s : State) (o : EngineOp) (c : Context) (r : ChunkRecord),
    s.engine = some o → o.pattern = false → Serving s → CanonicalForm s → Holds s o.stream c →
    c.state.receiving = true → c.window[o.pos]? = some r → r.slot = some o.slot →
    s.pool.slotOf o.stream o.pos = some o.slot →
    let i := o.stream
    let words := (List.range 8192).filter fun w => decide (8 * w < o.len.val)
    let bad := (words.filter fun w => decide (s.condition o.slot w = .uncorrectable)).length
    let history := (c.history ++ [Verdict.fail]).drop (c.history.length - 7)
    let fails := history.count Verdict.fail
    let aborts := decide (3 ≤ r.failures ∨ (c.state = .hold ∧ 2 ≤ c.holdFailures))
    let holds := !aborts && decide (c.state = .opened ∧ 1 ≤ c.t ∧ c.t ≤ fails)
    let cause : Cause := if 3 ≤ r.failures then .chunkUnrecoverable else .pathUnreliable
    let reserve := if aborts && c.headSlotless then s.pool.reserve - 1 else s.pool.reserve
    let rise := if aborts = false ∧ c.posOf c.head = o.pos then 1 else 0
    let retires := s.pool.retiredCount < 64 ∧ reserve + rise ≤ s.pool.free
    let failed : ChunkRecord := { r with
      state := .empty, ranges := [], failures := min (r.failures + 1) 3, slot := if retires then none else r.slot }
    bad ≠ 0 → (aborts = true → RoomBelowHigh s) →
    ∃ u d, exec .verifyCompletion s = .next u.poolTest ∧ u.engine = none ∧ OtherEntries s u i ∧ Holds u i d ∧
      d = { c with
        state := if aborts then .aborted else if holds then .hold else c.state
        cause := if aborts then some cause else c.cause
        history := history
        holdFailures := if c.state = .hold ∧ r.failures < 3 then c.holdFailures + 1 else c.holdFailures
        counts := { c.counts with failures := min (c.counts.failures + 1) 4294967295 }
        notices :=
          if aborts then { c.notices with resync := false, gaps := [], stop := true }
          else if holds then { c.notices with gaps := [], resync := true }
          else if c.state = .hold then { c.notices with resync := true }
          else { c.notices with gaps := insertPos o.pos c.notices.gaps }
        window := d.window, streaming := d.streaming, flushPending := d.flushPending } ∧
      FlagsTested c d ∧
      (aborts = false → holds = false → OneRecord c d o.pos failed) ∧
      (aborts = true ∨ holds = true → ∀ p, d.window[p]? = ((c.window.set o.pos failed)[p]?).map fun x : ChunkRecord =>
        x.atAbort (if aborts then s.offersAt i p else 0) (s.queuedAt i p)) ∧
      u.verifyQueue = (if aborts || holds then s.verifyQueue.filter fun q => decide (q.stream ≠ i) else s.verifyQueue) ∧
      u.offered = (if aborts then s.offered.filter fun x => decide (x.stream ≠ i) else s.offered) ∧
      u.pool = { s.pool with
        uses := u.pool.uses, marks := u.pool.marks, reserve := if retires then reserve + rise else reserve } ∧
      u.pool.mark o.slot = true ∧ u.pool.use o.slot = (if retires then .retired else s.pool.use o.slot) ∧
      (∀ x, x ≠ o.slot → u.pool.use x = s.pool.use x ∧ u.pool.mark x = s.pool.mark x) ∧
      u.counter .chunksFailed = (s.counter .chunksFailed).add 1 ∧
      u.counter .uncorrectableErrors = (s.counter .uncorrectableErrors).add bad ∧
      u.counter .retiredSlots = (if retires then (s.counter .retiredSlots).add 1 else s.counter .retiredSlots) ∧
      CountersKept s u [.chunksFailed, .correctedErrors, .uncorrectableErrors, .retiredSlots, .eventsLost] ∧
      u.errors.bufferUncorrected = true ∧
      u.errors.first = s.errors.first.or (some ⟨.bufferUncorrected, some i, some o.slot, some o.index⟩) ∧
      (let told := s.raise (.deviceError .bufferUncorrected (some i) none (some o.slot) (some o.index))
       u.events =
         if aborts then (told.raise (.streamAborted i c.tag cause c.committed)).events
         else if holds then (told.raise (.streamHold i c.tag c.committed fails)).events else told.events) ∧
      u = { s with engine := u.engine, table := u.table, pool := u.pool, offered := u.offered,
                   verifyQueue := u.verifyQueue, events := u.events, live := u.live, errors := u.errors }

/-- R10, R11, R103, R109, R111, R133, R134, R89, R90: a pattern chunk of a stream in OPEN, HOLD or ABORTED always passes and
becomes STORED. The bytes that differ from P at their own offset, and those of uncorrectable words, are added to the
pattern error counts of the stream and the device; a pass is appended to the history unless the stream is ABORTED, and
returns one in HOLD to OPEN. Above the head the chunk waits (n is 0); at the head it commits with the n - 1 STORED chunks
behind it, and a stream that reaches F becomes COMPLETE. An uncorrectable word marks the slot and is counted, flagged and
reported. The model's choices are that the words are read as they stand at the completion (log 20), that their report
comes before the stream's records (log 23) and that the watermark test ends the event (log 10). -/
def Obligations.PatternChunkIsCompared : Prop :=
  ∀ (s : State) (o : EngineOp) (c : Context) (r : ChunkRecord) (n : Nat),
    s.engine = some o → o.pattern = true → Serving s → CanonicalForm s → Holds s o.stream c →
    c.state.receiving = true ∨ c.state = .aborted → c.window[o.pos]? = some r → s.Commits o.stream c o.pos n →
    let i := o.stream
    let wrong := s.wrongBytes o
    let read := s.readBy o
    let base : Context := { c with
      state := if c.state = .hold then .opened else c.state
      history := if c.state = .hold then [] else if c.state = .opened
        then (c.history ++ [Verdict.pass]).drop (c.history.length - 7) else c.history
      holdFailures := if c.state = .hold then 0 else c.holdFailures
      counts := { c.counts with patternErrors := min (c.counts.patternErrors + wrong) 4294967295 }
      window := c.window.set o.pos { r with state := .stored } }
    let d := base.committing n
    let told := if c.state = .hold then read.raise (.streamResumed i c.tag c.committed) else read
    let said := if base.finishes n then told.raise (.streamFinished i c.tag d.committed) else told
    ∃ u, exec .verifyCompletion s = .next u.poolTest ∧ u.engine = none ∧ OtherEntries s u i ∧ Holds u i d ∧
      SlotsGivenUp read u (s.committedSlots i c n) ∧ u.events = said.events ∧ u.errors = said.errors ∧
      u.pool.reserve = (if (decide (1 ≤ n) && c.state.receiving && !base.finishes n && d.headSlotless) = true
        then s.pool.reserve + 1 else s.pool.reserve) ∧
      u.counter .chunksVerified = (s.counter .chunksVerified).add 1 ∧
      u.counter .patternErrors = (s.counter .patternErrors).add wrong ∧
      u.counter .chunksCommitted = Nat.iterate (fun x : Count => x.add 1) n (s.counter .chunksCommitted) ∧
      u.counter .uncorrectableErrors = (if s.badWords o = 0 then s.counter .uncorrectableErrors
        else (s.counter .uncorrectableErrors).add (s.badWords o)) ∧
      CountersKept s u [.chunksVerified, .patternErrors, .chunksCommitted, .correctedErrors, .uncorrectableErrors,
        .retiredSlots, .eventsLost] ∧
      u = { s with engine := u.engine, table := u.table, live := u.live, events := u.events, errors := u.errors,
                   pool := { s.pool with freeList := u.pool.freeList, uses := u.pool.uses, marks := u.pool.marks,
                                         reserve := u.pool.reserve } }

/-- R8, R9, R11, R100, R105, R109 to R111, R153, R156: an outcome that finds its stream stopped. Of one in ABORTED or
SALVAGING, not a pattern stream, a pass makes the chunk VERIFIED and a fail empties it, uncounted in the stream; one for an
uncorrectable word also sends the slot to retirement; a salvage left with nothing returns the entry to FREE. In RELEASING,
whatever the outcome, the chunk gives its slot up, and with nothing else in flight the entry returns to FREE. The model's
choices are that the words are read as they stand at the completion (log 20), that their report comes before the stream's
records (log 23) and that the watermark test ends the event (log 10). -/
def Obligations.OutcomeOfAStoppedStream : Prop :=
  ∀ (s : State) (o : EngineOp) (c : Context) (r : ChunkRecord),
    s.engine = some o → Serving s → CanonicalForm s → Holds s o.stream c →
    c.window[o.pos]? = some r → s.pool.slotOf o.stream o.pos = some o.slot →
    let i := o.stream
    let bytes := s.slotBytes o.slot 0 o.len.val
    let bad := s.badWords o
    let read := s.readBy o
    let right := chunkCheck bytes = trailerCheck bytes ∧ trailerNumber bytes = o.index % 4294967296
    let passes := o.pattern = true ∨ (bad = 0 ∧ right)
    let retires := bad ≠ 0 ∧ s.pool.retiredCount < 64 ∧ s.pool.reserve ≤ s.pool.free
    let counted : State → Prop := fun u =>
      u.counter .chunksVerified = (if passes then (s.counter .chunksVerified).add 1 else s.counter .chunksVerified) ∧
      u.counter .chunksFailed = (if passes then s.counter .chunksFailed else (s.counter .chunksFailed).add 1) ∧
      u.counter .patternErrors = (if o.pattern = true then (s.counter .patternErrors).add (s.wrongBytes o)
        else s.counter .patternErrors) ∧
      u.counter .uncorrectableErrors = (if bad = 0 then s.counter .uncorrectableErrors
        else (s.counter .uncorrectableErrors).add bad) ∧
      CountersKept s u [.chunksVerified, .chunksFailed, .patternErrors, .correctedErrors, .uncorrectableErrors,
        .retiredSlots, .eventsLost]
    (c.state = .aborted ∨ c.state = .salvaging → o.pattern = false →
      let chunk : ChunkRecord := if passes then { r with state := .verified, check := some (trailerCheck bytes) }
        else { r with state := .empty, ranges := [], slot := if retires then none else r.slot }
      let d := Context.flagsTested { c with window := c.window.set o.pos chunk }
      (¬d.SalvageOver → ∃ t, exec .verifyCompletion s = .next t ∧ t.engine = none ∧ OtherEntries s t i ∧ Holds t i d ∧
        t.events = read.events ∧ t.errors = read.errors ∧ counted t ∧
        t.counter .retiredSlots = (if retires then (s.counter .retiredSlots).add 1 else s.counter .retiredSlots) ∧
        t.pool.use o.slot = (if retires then .retired else s.pool.use o.slot) ∧
        (∀ x, x ≠ o.slot → t.pool.use x = s.pool.use x) ∧ (∀ x, t.pool.mark x = read.pool.mark x) ∧
        t = { s with engine := t.engine, table := t.table, live := t.live, events := t.events, errors := t.errors,
                     pool := { s.pool with uses := t.pool.uses, marks := t.pool.marks } }) ∧
      (d.SalvageOver → (∀ m ∈ s.drainMap, m.stream ≠ i) →
        ∃ u, exec .verifyCompletion s = .next u.poolTest ∧ u.engine = none ∧ ReturnedToFree read u i c ∧ counted u ∧
          u.offered = (s.offered.filter fun x => decide (x.stream ≠ i)) ∧
          u = { s with engine := u.engine, table := u.table, live := u.live, events := u.events, errors := u.errors,
                       offered := u.offered,
                       pool := { s.pool with freeList := u.pool.freeList, uses := u.pool.uses,
                                             marks := u.pool.marks } })) ∧
    (c.state = .releasing →
      ((∃ m ∈ s.drainMap, m.stream = i) →
        ∃ u, exec .verifyCompletion s = .next u.poolTest ∧ u.engine = none ∧ OtherEntries s u i ∧
          Holds u i (Context.flagsTested { c with
            window := c.window.set o.pos { r with state := .empty, ranges := [], slot := none } }) ∧
          SlotsGivenUp read u [o.slot] ∧ u.events = read.events ∧ u.errors = read.errors ∧ counted u ∧
          u = { s with engine := u.engine, table := u.table, live := u.live, events := u.events, errors := u.errors,
                       pool := { s.pool with freeList := u.pool.freeList, uses := u.pool.uses,
                                             marks := u.pool.marks } }) ∧
      ((∀ m ∈ s.drainMap, m.stream ≠ i) →
        ∃ u, exec .verifyCompletion s = .next u.poolTest ∧ u.engine = none ∧ ReturnedToFree read u i c ∧ counted u ∧
          u = { s with engine := u.engine, table := u.table, live := u.live, events := u.events, errors := u.errors,
                       pool := { s.pool with freeList := u.pool.freeList, uses := u.pool.uses,
                                             marks := u.pool.marks } }))

/-! ## The queues of the control port -/

/-- R44, R161, R163, R164, R166: a command record joins the queue while it holds fewer than 16; otherwise it is discarded
with COMMAND_OVERRUN, and DEVICE_ERROR is raised when the flag was clear before. A read of the response or the event queue,
and the partner's take from a lane's output queue, remove and give the oldest record, or give none. The interrupt line is
asserted exactly while the response or the event queue holds a record. -/
def Obligations.QueuesTakeAndGiveTheirOldest : Prop :=
  ∀ s : State,
    (∀ record, s.commands.length < 16 →
      exec (.commandWrite record) s = .next { s with commands := s.commands ++ [record] }) ∧
    (∀ record, 16 ≤ s.commands.length → ∃ t, exec (.commandWrite record) s = .next t ∧
      t.errors.commandOverrun = true ∧
      t.errors.first = s.errors.first.or (some ⟨.commandOverrun, none, none, none⟩) ∧
      (s.errors.commandOverrun = true → t.events = s.events ∧ t.live = s.live) ∧
      (s.errors.commandOverrun = false →
        t.events = (s.raise (.deviceError .commandOverrun none none none none)).events) ∧
      CountersKept s t [.eventsLost] ∧ t = { s with errors := t.errors, events := t.events, live := t.live }) ∧
    (s.responses = [] → exec .responseQueueRead s = .next { s with ports := { s.ports with response := none } }) ∧
    (∀ r rest, s.responses = r :: rest → exec .responseQueueRead s =
      .next { s with responses := rest, ports := { s.ports with response := some r.bytes } }) ∧
    (s.events = [] → exec .eventQueueRead s = .next { s with ports := { s.ports with event := none } }) ∧
    (∀ r rest, s.events = r :: rest → exec .eventQueueRead s =
      .next { s with events := rest, ports := { s.ports with event := some r.bytes } }) ∧
    (s.interruptLine = true ↔ s.responses ≠ [] ∨ s.events ≠ []) ∧
    ∀ l : LaneId,
      ((s.lane l).output = [] →
        exec (.noticeTake l) s = .next { s with ports := { s.ports with notice := s.ports.notice.set l none } }) ∧
      (∀ r rest, (s.lane l).output = r :: rest →
        ∃ t, exec (.noticeTake l) s = .next t ∧ t.lane l = { s.lane l with output := rest } ∧ OtherLanes s t l ∧
          t = { s with lanes := t.lanes, ports := { s.ports with notice := s.ports.notice.set l (some r.bytes) } })

/-! ## Stream commands -/

/-- R25, R13, R16 to R22, R52, R81, R146: an accepted OPEN takes way 0 of the tag's row, or way 1 when way 0 is taken,
writes a context from the clamped parameters with an EMPTY record for every chunk of the window and the lowest ACTIVE lane
as reply lane, raises the head reserve by 1 and answers the index and the clamped values. The watermark test ends the
event. -/
def Obligations.OpenWritesTheContext : Prop :=
  ∀ (s : State) (record : List Byte) (rest : List (List Byte)) (way : Nat),
    HeadCommand s 1 record rest → Serving s →
    let p := parseOpen record
    let w := min p.w 8
    let b := max 1 (min p.b w)
    let cap := min p.cap (2 ^ 32)
    let reserve := if cap ≤ p.reserve then cap - 1 else p.reserve
    let i := wayOf p.tag way
    p.tag ≠ 0 → p.w ≠ 0 → p.cap ≠ 0 → p.start % 65536 = 0 → p.start < 65536 * cap →
    (s.lookup p.tag).2 = .notFound → way < 2 → s.ctx? i = none →
    (way = 1 → s.ctx? (wayOf p.tag 0) ≠ none) → 1 ≤ s.pool.spare →
    ∃ u d, exec .openCmd s = .next u.poolTest ∧ OtherEntries s u i ∧ Holds u i d ∧
      Answered s u record rest .done
        (le 2 i.val ++ le 1 w ++ le 1 b ++ le 1 (min p.t 8) ++ [0, 0, 0] ++ le 8 cap ++ le 8 reserve) ∧
      d = { state := .opened, cause := none, tag := p.tag, w := w, b := b, t := min p.t 8, pattern := p.pattern,
            target := p.target, base := p.base, cap := cap, reserve := reserve, committed := p.start, final := none,
            window := d.window, history := [], holdFailures := 0, streaming := false, flushPending := false,
            earlyWarningIssued := false, capacityReached := false, idleReported := false, lastArrival := s.time,
            notices := ⟨false, [], false, false, false⟩
            replyLane := laneIds.find? fun l => decide ((s.lane l).state = .active)
            counts := ⟨0, 0, 0, 0, 0, 0, 0, 0, 0, 0, 0, 0, 0, 0⟩ } ∧
      d.window.length = w ∧
      (∀ k, p.start / 65536 ≤ k → k < p.start / 65536 + w → d.window[k % w]? = some ⟨k, none, .empty, [], 0, 0, none⟩) ∧
      u = { s with commands := u.commands, responses := u.responses, table := u.table,
                   pool := { s.pool with reserve := s.pool.reserve + 1 } }

/-- R25: the refusals of OPEN, the first condition of its table that holds. Nothing but the two queues changes, but for
what a parity error met by the lookup brings about in the entries of the row (R33 to R35). -/
def Obligations.OpenRefusesInOrder : Prop :=
  ∀ (s : State) (record : List Byte) (rest : List (List Byte)) (status : Status),
    HeadCommand s 1 record rest → Serving s →
    let p := parseOpen record
    let bad := p.tag = 0 ∨ p.w = 0 ∨ p.cap = 0 ∨ p.start % 65536 ≠ 0 ∨ 65536 * min p.cap (2 ^ 32) ≤ p.start
    let free : Nat → Prop := fun way => s.ctx? (wayOf p.tag way) = none
    (status = .badParam ∧ bad) ∨
    (status = .contextError ∧ ¬bad ∧ (s.lookup p.tag).2 = .contextError) ∨
    (status = .tagInUse ∧ ¬bad ∧ ∃ i c, (s.lookup p.tag).2 = .found i c) ∨
    (status = .rowFull ∧ ¬bad ∧ (s.lookup p.tag).2 = .notFound ∧ ¬free 0 ∧ ¬free 1) ∨
    (status = .noSpace ∧ ¬bad ∧ (s.lookup p.tag).2 = .notFound ∧ (free 0 ∨ free 1) ∧ s.pool.spare = 0) →
    ∃ t, exec .openCmd s = .next t ∧ Answered s t record rest status [] ∧
      (status ≠ .contextError → t = { s with commands := t.commands, responses := t.responses }) ∧
      (status = .contextError → (∀ way, way < 2 → (t.entry (wayOf p.tag way)).parityGood = true) ∧
        ∀ j, j ≠ wayOf p.tag 0 → j ≠ wayOf p.tag 1 → t.entry j = s.entry j)

/-- R162, R14: a host command whose record is not at the head, or that finds the response queue full, waits. While the
device is not READY it is answered NOT_READY. A code that names no command is answered UNKNOWN_COMMAND in every device
state. A stream command whose tag is not found is answered NO_STREAM, one whose lookup meets a parity error
CONTEXT_ERROR. That a take the Control Port would not make is a command without effect is the model's choice (log 1). -/
def Obligations.HostCommandsTurnedAway : Prop :=
  ∀ (s : State) (code : Nat) (x : Instr),
    ((code, x) ∈ guardedCommands ∨ (code = 13 ∧ x = .statusCmd) ∨ (code = 14 ∧ ∃ sample, x = .resetCmd sample) →
      (s.commands = [] ∨ 16 ≤ s.responses.length ∨ ∃ record rest, s.commands = record :: rest ∧ commandCode record ≠ code) →
      exec x s = .next s) ∧
    (s.commands = [] ∨ 16 ≤ s.responses.length ∨
        (∃ record rest, s.commands = record :: rest ∧ 1 ≤ commandCode record ∧ commandCode record ≤ 14) →
      exec .unknownCommand s = .next s) ∧
    ∀ record rest, HeadCommand s code record rest →
      (¬(1 ≤ code ∧ code ≤ 14) → ∃ t, exec .unknownCommand s = .next t ∧ Answered s t record rest .unknownCommand [] ∧
        t = { s with commands := t.commands, responses := t.responses }) ∧
      ((code, x) ∈ guardedCommands → s.device ≠ .ready → ∃ t, exec x s = .next t ∧
        Answered s t record rest .notReady [] ∧ t = { s with commands := t.commands, responses := t.responses }) ∧
      ((code, x) ∈ guardedCommands → 2 ≤ code → code ≤ 8 → Serving s →
        ((s.lookup (fieldAt record 4 4)).2 = .notFound → ∃ t, exec x s = .next t ∧
          Answered s t record rest .noStream [] ∧ t = { s with commands := t.commands, responses := t.responses }) ∧
        ((s.lookup (fieldAt record 4 4)).2 = .contextError → ∃ t, exec x s = .next t ∧
          Answered s t record rest .contextError [] ∧
          (∀ way, way < 2 → (t.entry (wayOf (fieldAt record 4 4) way)).parityGood = true) ∧
          ∀ j, j ≠ wayOf (fieldAt record 4 4) 0 → j ≠ wayOf (fieldAt record 4 4) 1 → t.entry j = s.entry j))

/-- R26, R27, R150, R96, R119: CLOSE of a COMPLETE stream is answered DONE and its entry becomes FREE, lanes, slots, queues
and offers staying as they are; in any other live state it is answered WRONG_STATE. ABORT stops a stream in OPEN or HOLD with
HOST_ABORT: its offers are withdrawn and its taken chunks left to complete, its queue entries removed, its unverified chunks
emptied with their slots kept, STOP takes the place of every request for data and STREAM_ABORTED is raised. In ABORTED it is
answered DONE, in the other states WRONG_STATE, and nothing changes. That a stream aborted in HOLD keeps its history and hold
failures is the model's choice (log 29). -/
def Obligations.CloseAndAbortEndTheStream : Prop :=
  ∀ (s : State) (record : List Byte) (rest : List (List Byte)) (i : StreamIndex) (c : Context) (code : Nat),
    HeadCommand s code record rest → Serving s → (s.lookup (fieldAt record 4 4)).2 = .found i c →
    (code = 2 → ∃ t, exec .closeCmd s = .next t ∧
      (c.state = .complete → Answered s t record rest .done [] ∧ t.entry i = Entry.free ∧ OtherEntries s t i ∧
        t = { s with commands := t.commands, responses := t.responses, table := t.table }) ∧
      (c.state ≠ .complete → Answered s t record rest .wrongState [] ∧
        t = { s with commands := t.commands, responses := t.responses })) ∧
    (code = 3 → c.state.receiving = true → RoomBelowHigh s →
      ∃ t d, exec .abortCmd s = .next t ∧ Answered s t record rest .done [] ∧ EnteredAborted s t i c d .hostAbort ∧
        t.pool = { s.pool with reserve := if c.headSlotless then s.pool.reserve - 1 else s.pool.reserve } ∧
        CountersKept s t [.eventsLost] ∧
        t = { s with commands := t.commands, responses := t.responses, table := t.table, pool := t.pool,
                     offered := t.offered, verifyQueue := t.verifyQueue, events := t.events, live := t.live,
                     errors := t.errors }) ∧
    (code = 3 → ∀ status, (status = .done ∧ c.state = .aborted) ∨
        (status = .wrongState ∧ (c.state = .complete ∨ c.state = .salvaging ∨ c.state = .releasing)) →
      ∃ t, exec .abortCmd s = .next t ∧ Answered s t record rest status [] ∧
        t = { s with commands := t.commands, responses := t.responses })

/-- R28, R29, R153 to R156, R80, R85, R91: with nothing in flight, RELEASE of a stream in ABORTED or SALVAGING, and a
SALVAGE that finds nothing to drain, return the entry to FREE at the event: its slots are given up, its offers leave the
list, STREAM_RELEASED is raised, the answer is DONE. The watermark test ends the event. -/
def Obligations.ReleaseReturnsTheEntry : Prop :=
  ∀ (s : State) (record : List Byte) (rest : List (List Byte)) (i : StreamIndex) (c : Context) (code : Nat) (x : Instr),
    HeadCommand s code record rest → Serving s → CanonicalForm s → (s.lookup (fieldAt record 4 4)).2 = .found i c →
    (∀ o, s.engine = some o → o.stream ≠ i) → (∀ m ∈ s.drainMap, m.stream ≠ i) →
    (code = 4 ∧ x = .releaseCmd ∧ (c.state = .aborted ∨ c.state = .salvaging)) ∨
    (code = 5 ∧ x = .salvageCmd ∧ c.state = .aborted ∧ c.pattern = false ∧ c.readyRun = [] ∧
      ∀ r ∈ c.window, r.state ≠ .verifying ∧ r.state ≠ .offered ∧ r.state ≠ .taken) →
    ∃ u, exec x s = .next u.poolTest ∧ Answered s u record rest .done [] ∧ ReturnedToFree s u i c ∧
      u.offered = (s.offered.filter fun o => decide (o.stream ≠ i)) ∧
      CountersKept s u [.retiredSlots, .eventsLost] ∧
      u = { s with commands := u.commands, responses := u.responses, table := u.table, offered := u.offered,
                   events := u.events, live := u.live, errors := u.errors,
                   pool := { s.pool with freeList := u.pool.freeList, uses := u.pool.uses, marks := u.pool.marks } }

/-- R28, R29, R152 to R155: SALVAGE of an ABORTED stream that is not a pattern stream, with a ready run or a chunk
VERIFYING, OFFERED or TAKEN, makes it SALVAGING with its cause kept. RELEASE of a stream with a chunk in flight makes it
RELEASING: its offers are withdrawn and its pending notices dropped; in RELEASING it is answered DONE. In the other cases
they are answered WRONG_STATE and nothing changes. -/
def Obligations.SalvageAndReleaseMoveTheStream : Prop :=
  ∀ (s : State) (record : List Byte) (rest : List (List Byte)) (i : StreamIndex) (c : Context) (code : Nat),
    HeadCommand s code record rest → Serving s → (s.lookup (fieldAt record 4 4)).2 = .found i c →
    (code = 5 → c.state = .aborted → c.pattern = false →
      (c.readyRun ≠ [] ∨ ∃ r ∈ c.window, r.state = .verifying ∨ r.state = .offered ∨ r.state = .taken) →
      ∃ t d, exec .salvageCmd s = .next t ∧ Answered s t record rest .done [] ∧ OtherEntries s t i ∧ Holds t i d ∧
        d = { c with state := .salvaging, streaming := d.streaming, flushPending := d.flushPending } ∧
        FlagsTested c d ∧ t = { s with commands := t.commands, responses := t.responses, table := t.table }) ∧
    (code = 4 → c.state = .aborted ∨ c.state = .salvaging →
      ((∃ o, s.engine = some o ∧ o.stream = i) ∨ ∃ m ∈ s.drainMap, m.stream = i) →
      ∃ t d, exec .releaseCmd s = .next t ∧ Answered s t record rest .done [] ∧ OtherEntries s t i ∧ Holds t i d ∧
        d = { c with state := .releasing, notices := ⟨false, [], false, false, false⟩
                     window := d.window, streaming := d.streaming, flushPending := d.flushPending } ∧
        (∀ p, d.window[p]? = (c.window[p]?).map fun r : ChunkRecord => r.withdrawnBy (s.offersAt i p)) ∧
        FlagsTested c d ∧ t.offered = (s.offered.filter fun o => decide (o.stream ≠ i)) ∧
        t = { s with commands := t.commands, responses := t.responses, table := t.table, offered := t.offered }) ∧
    (∀ x status, (code = 5 ∧ x = .salvageCmd ∧ status = .wrongState ∧ (c.state ≠ .aborted ∨ c.pattern = true)) ∨
        (code = 4 ∧ x = .releaseCmd ∧ status = .wrongState ∧ (c.state.receiving = true ∨ c.state = .complete)) ∨
        (code = 4 ∧ x = .releaseCmd ∧ status = .done ∧ c.state = .releasing) →
      ∃ t, exec x s = .next t ∧ Answered s t record rest status [] ∧
        t = { s with commands := t.commands, responses := t.responses })

/-- R30, R31, R114: EXTEND of a stream in OPEN or HOLD sets the clamped capacity and reserve, clears early-warning-issued
and capacity-reached, and adds COMMIT when the window end rises; a smaller capacity is BAD_PARAM. FLUSH sets flush pending,
which the same event clears again when the frontier chunk is not VERIFIED. In the other states both are WRONG_STATE. -/
def Obligations.ExtendAndFlushWhileReceiving : Prop :=
  ∀ (s : State) (record : List Byte) (rest : List (List Byte)) (i : StreamIndex) (c : Context) (code : Nat),
    HeadCommand s code record rest → Serving s → (s.lookup (fieldAt record 4 4)).2 = .found i c →
    let cap := min (fieldAt record 24 8) (2 ^ 32)
    let reserve := if cap ≤ fieldAt record 32 8 then cap - 1 else fieldAt record 32 8
    let e : Nat → Nat := fun top => min (min (c.committed + 65536 * c.w) (65536 * top)) (c.final.getD (65536 * top))
    (code = 6 → c.state.receiving = true → c.cap ≤ cap →
      ∃ t, exec .extendCmd s = .next t ∧ Answered s t record rest .done (le 8 cap ++ le 8 reserve) ∧
        OtherEntries s t i ∧ Holds t i { c with
          cap := cap, reserve := reserve, earlyWarningIssued := false, capacityReached := false
          notices := { c.notices with commit := c.notices.commit || decide (e c.cap < e cap) } } ∧
        t = { s with commands := t.commands, responses := t.responses, table := t.table }) ∧
    (code = 7 → c.state.receiving = true →
      ∃ t, exec .flushCmd s = .next t ∧ Answered s t record rest .done [] ∧ OtherEntries s t i ∧
        Holds t i { c with
          flushPending := c.frontierVerified
          streaming := c.streaming && (c.frontierVerified || c.inWritersHands) } ∧
        t = { s with commands := t.commands, responses := t.responses, table := t.table }) ∧
    (∀ x status, (code = 6 ∧ x = .extendCmd ∧ status = .badParam ∧ c.state.receiving = true ∧ cap < c.cap) ∨
        (code = 6 ∧ x = .extendCmd ∧ status = .wrongState ∧ c.state.receiving = false) ∨
        (code = 7 ∧ x = .flushCmd ∧ status = .wrongState ∧ c.state.receiving = false) →
      ∃ t, exec x s = .next t ∧ Answered s t record rest status [] ∧
        t = { s with commands := t.commands, responses := t.responses })

/-! ## Reports, errors and settings -/

/-- R170, R172, R173, R176: QUERY, COUNTERS and STATUS are answered DONE with their data and change nothing but the two
queues, STATUS in every device state. The COUNTERS data is 148 bytes, counter k of the snapshot at byte 4·k; the STATUS
data is 86 bytes with the device state, the device time and the pool's figures at their places; the QUERY data holds the
stream state, W, B, T and the committed offset at theirs. -/
def Obligations.ReportsChangeNothing : Prop :=
  ∀ (s : State) (record : List Byte) (rest : List (List Byte)) (code : Nat),
    HeadCommand s code record rest →
    (code = 13 → ∃ t data, exec .statusCmd s = .next t ∧ Answered s t record rest .done data ∧
      t = { s with commands := t.commands, responses := t.responses } ∧ data.length = 86 ∧
      fieldAt data 0 1 = s.device.code ∧ fieldAt data 1 1 = s.device.stepCode ∧
      fieldAt data 2 8 = s.time % 2 ^ 64 ∧ fieldAt data 10 2 = s.pool.free % 65536 ∧
      fieldAt data 12 2 = s.pool.reserve % 65536 ∧ fieldAt data 14 2 = s.pool.spare % 65536 ∧
      fieldAt data 16 2 = s.pool.retiredCount % 65536 ∧ fieldAt data 18 1 = s.pool.state.code ∧
      fieldAt data 74 1 = (if s.errors.tableParity then 1 else 0) + (if s.errors.bufferUncorrected then 2 else 0) +
        (if s.errors.commandOverrun then 4 else 0) + (if s.errors.eventsLost then 8 else 0)) ∧
    (code = 11 → Serving s → ∃ t data, exec .countersCmd s = .next t ∧ Answered s t record rest .done data ∧
      t = { s with commands := t.commands, responses := t.responses } ∧ data.length = 148 ∧
      (∀ k : Fin 32, fieldAt data (4 * k.val) 4 = s.snapshot[k].value % 2 ^ 32) ∧
      fieldAt data 132 4 = s.intervalNumber.toNat) ∧
    ∀ i c, code = 8 → Serving s → (s.lookup (fieldAt record 4 4)).2 = .found i c →
      ∃ t data, exec .queryCmd s = .next t ∧ Answered s t record rest .done data ∧
        t = { s with commands := t.commands, responses := t.responses } ∧
        fieldAt data 0 1 = c.state.code ∧ fieldAt data 3 1 = c.w % 256 ∧ fieldAt data 4 1 = c.b % 256 ∧
        fieldAt data 5 1 = c.t % 256 ∧ fieldAt data 23 8 = c.committed % 2 ^ 64

/-- R167: CLEAR_ERRORS is answered DONE with the four flags and the first-error record as they stood at its take, and
clears the flags and empties the record. Nothing else changes but the two queues. -/
def Obligations.ClearErrorsReportsAndClears : Prop :=
  ∀ (s : State) (record : List Byte) (rest : List (List Byte)), HeadCommand s 12 record rest → Serving s →
    ∃ t data, exec .clearErrorsCmd s = .next t ∧ Answered s t record rest .done data ∧ data.length = 12 ∧
      fieldAt data 0 1 = (if s.errors.tableParity then 1 else 0) + (if s.errors.bufferUncorrected then 2 else 0) +
        (if s.errors.commandOverrun then 4 else 0) + (if s.errors.eventsLost then 8 else 0) ∧
      (s.errors.first = none → fieldAt data 1 11 = 0) ∧
      (∀ f, s.errors.first = some f → fieldAt data 1 1 = f.kind.code ∧
        fieldAt data 2 1 = (if f.stream.isSome then 1 else 0) + (if f.slot.isSome then 2 else 0) +
          (if f.chunk.isSome then 4 else 0) ∧
        fieldAt data 4 2 = (f.stream.map fun i => i.val).getD 0 ∧ fieldAt data 6 2 = (f.slot.map fun i => i.val).getD 0 ∧
        fieldAt data 8 4 = f.chunk.getD 0 % 2 ^ 32) ∧
      t.errors = ⟨false, false, false, false, none⟩ ∧
      t = { s with commands := t.commands, responses := t.responses, errors := t.errors }

/-- R171, R87, R86, R160, R169: CONFIGURE sets each presented value, clamped, leaves the others and answers the settings
as they then stand. The pool state follows the new watermarks; a CONFIGURE of watermarks alone that changes it raises
the pool event and flags every ACTIVE lane. An idle limit that is lowered or turned on reports the streams already idle
so long; an interval already past its new length ends. That its own records are judged by the enables before it is the
model's choice (log 11). -/
def Obligations.ConfigureClampsAndTests : Prop :=
  ∀ (s : State) (record : List Byte) (rest : List (List Byte)),
    HeadCommand s 10 record rest → Serving s → AllParityGood s → s.settings.InRange →
    let present : Nat → Bool := fun bit => (fieldAt record 4 2).testBit bit
    let value : Nat → Nat → Nat → Nat := fun bit off old => if present bit then fieldAt record off 2 else old
    let g := s.settings
    let low := min (value 0 6 g.low) 1024
    let high := min (max (value 1 8 g.high) (low + 1)) 2047
    let idle := min (value 3 12 g.idleLimit) 3600
    let length := max 1 (min (value 4 14 g.intervalLength) 3600)
    let state : PoolState := match s.pool.state with
      | .ok => if s.pool.spare < low then .low else .ok
      | .low => if high ≤ s.pool.spare then .ok else .low
    ∃ t, exec .configureCmd s = .next t ∧
      t.settings = { low := low, high := high, drainTimeout := max 1 (value 2 10 g.drainTimeout), idleLimit := idle,
                     intervalLength := length
                     enables := if present 5 then BitVec.ofNat 14 (fieldAt record 16 2) else g.enables } ∧
      Answered s t record rest .done (le 2 low ++ le 2 high ++ le 2 t.settings.drainTimeout ++ le 2 idle ++
        le 2 length ++ le 2 t.settings.enables.toNat) ∧
      AllParityGood t ∧
      (∀ i, t.ctx? i = (s.ctx? i).map fun c => { c with
        idleReported := c.idleReported || decide (0 < idle ∧ (g.idleLimit = 0 ∨ idle < g.idleLimit) ∧
          c.state.receiving = true ∧ c.lastArrival + 1000 * idle ≤ s.time) }) ∧
      (present 4 = true → s.intervalStart + 1000 * length ≤ s.time →
        t.intervalStart = s.time ∧ t.intervalNumber = s.intervalNumber + 1 ∧
        t.snapshotElapsed = s.time - s.intervalStart) ∧
      (present 4 = false ∨ s.time < s.intervalStart + 1000 * length →
        t.intervalStart = s.intervalStart ∧ t.intervalNumber = s.intervalNumber ∧ t.snapshot = s.snapshot ∧
        t.snapshotElapsed = s.snapshotElapsed ∧ CountersKept s t [.eventsLost]) ∧
      t.pool = { s.pool with state := state } ∧
      (∀ l, t.lane l = if state ≠ s.pool.state ∧ (s.lane l).state = .active
        then { s.lane l with flag := some state } else s.lane l) ∧
      (present 3 = false → present 4 = false →
        (state ≠ s.pool.state →
          Raised s t (.pool state s.pool.free s.pool.reserve s.pool.spare s.pool.retiredCount)) ∧
        (state = s.pool.state → t.events = s.events ∧ t.errors = s.errors)) ∧
      t = { s with commands := t.commands, responses := t.responses, settings := t.settings, lanes := t.lanes,
                   table := t.table, pool := t.pool, events := t.events, live := t.live, errors := t.errors,
                   intervalStart := t.intervalStart, intervalNumber := t.intervalNumber, snapshot := t.snapshot,
                   snapshotElapsed := t.snapshotElapsed }

/-! ## Resets, self-test and timers -/

/-- R175, R93, R36, R38, R118, R120: a reset leaves every block as after power-on, the lines sampled and a lane reset
signalled. The RESET command, taken in every device state, keeps the retired slots with their marks and the drain tag
counter and queues its DONE; power-on reset clears them. The buffer is left to the walk; the queue of commands, the
upsets and the free values are the model's own. The levels sampled are operands by the model's choice (log 7, 21). -/
def Obligations.ResetsRestartTheDevice : Prop :=
  ∀ (s : State) (sample : ResetSample),
    let fresh : State := { State.reset with
      lanes := Vector.ofFn fun l => Lane.reset sample.links[l]
      signal := sample.signal, buffer := s.buffer, words := s.words
      ports := { s.ports with laneResetSignals := s.ports.laneResetSignals + 1 }
      disturbances := s.disturbances, freeCount := s.freeCount, pending := s.pending }
    exec (.powerOnReset sample) s = .next fresh ∧
    ∀ record rest, HeadCommand s 14 record rest → CanonicalForm s →
      ∃ t, exec (.resetCmd sample) s = .next t ∧
        t.responses = [⟨commandCode record, .done, commandId record, []⟩] ∧
        (∀ slot, t.pool.use slot = if s.pool.use slot = .retired then .retired else .free) ∧
        (∀ slot, t.pool.mark slot = (s.pool.mark slot && decide (s.pool.use slot = .retired))) ∧
        t.pool.freeList.Pairwise (· < ·) ∧ (∀ slot, slot ∈ t.pool.freeList ↔ s.pool.use slot ≠ .retired) ∧
        t.pool.reserve = 0 ∧ t.pool.state = .ok ∧
        t = { fresh with pool := t.pool, tagCounter := s.tagCounter, responses := t.responses }

/-- R174, R93, R7, R38, R120, R169: the self-test. Each step acts only while it runs; a fail makes the device FAILED
with the step. The walk fails when a word outside the retired slots read back wrong, leaves the other words sound and
the retired slots as they were; the table test leaves every entry FREE. The known answer is E3069283; with it the device
becomes READY, the lanes whose link is up become ACTIVE and the writer READY, each with its event, and the first
interval begins. Nothing else enters READY, and only a reset leaves READY or FAILED. The outcomes as operands, a
step out of its time without effect, and the bytes the walk leaves outside the retired slots, not given here, are the
model's choice (log 1, 8, 17). -/
def Obligations.SelfTestLeadsToReady : Prop :=
  ∀ s : State,
    (∀ bad, s.device ≠ .starting .bufferWalk → exec (.bufferWalk bad) s = .next s) ∧
    (∀ bad, s.device = .starting .bufferWalk → CanonicalForm s → (∀ w ∈ bad, w < 16777216) →
      ∃ t, exec (.bufferWalk bad) s = .next t ∧
        ((∀ w ∈ bad, ∃ slot : Slot, slot.val = w / 8192 ∧ s.pool.use slot = .retired) →
          t.device = .starting .tableTest) ∧
        ((∃ w ∈ bad, ∃ slot : Slot, slot.val = w / 8192 ∧ s.pool.use slot ≠ .retired) →
          t.device = .failed .bufferWalk) ∧
        (∀ slot w, w < 8192 →
          t.condition slot w = if s.pool.use slot = .retired then s.condition slot w else .sound) ∧
        (∀ slot y, y < 65536 → s.pool.use slot = .retired →
          t.byteAt (bufferAddress slot y) = s.byteAt (bufferAddress slot y)) ∧
        t = { s with device := t.device, buffer := t.buffer, words := t.words }) ∧
    (∀ bad, s.device ≠ .starting .tableTest → exec (.streamTableTest bad) s = .next s) ∧
    (∀ bad, s.device = .starting .tableTest → exec (.streamTableTest bad) s =
      .next { s with table := [], device := if bad = [] then .starting .knownAnswer else .failed .tableTest }) ∧
    checkOf knownAnswerInput = 0xE3069283 ∧
    (∀ flips, s.device ≠ .starting .knownAnswer → exec (.knownAnswer flips) s = .next s) ∧
    (∀ flips, s.device = .starting .knownAnswer → flips ≠ 0 →
      exec (.knownAnswer flips) s = .next { s with device := .failed .knownAnswer }) ∧
    (s.device = .starting .knownAnswer → s.table = [] → s.events = [] → s.settings = .default →
      (∀ l, (s.lane l).state = .down) → s.pool.state = .ok → 64 ≤ s.pool.spare →
      ∃ t, exec (.knownAnswer 0) s = .next t ∧ t.device = .ready ∧ t.intervalStart = s.time ∧
        (∀ l, t.lane l = if (s.lane l).link = .up
          then { s.lane l with state := .active, credit := 32, owed := 0, flag := some .ok } else s.lane l) ∧
        t.events = ((laneIds.filter fun l => decide ((s.lane l).link = .up)).map fun l =>
            (⟨s.time, .laneChanged l .active .deviceReady⟩ : EventRecord)) ++
          (if s.signal = .ready then [⟨s.time, .writerChanged .ready .deviceReady⟩] else []) ∧
        t.writerState = (match s.signal with | .ready => .ready | .offline => .offline) ∧
        t = { s with device := t.device, intervalStart := t.intervalStart, lanes := t.lanes, events := t.events }) ∧
    ∀ x t, exec x s = .next t →
      (s.device ≠ .ready → t.device = .ready → x = .knownAnswer 0 ∧ s.device = .starting .knownAnswer) ∧
      ((s.device = .ready ∨ ∃ step, s.device = .failed step) → t.device ≠ s.device →
        ∃ sample, x = .resetCmd sample ∨ x = .powerOnReset sample)

/-- R32 to R35, R80, R85, R91, R96, R119, R156: while the device is READY a scrub checks the entry at the scrub position,
which then advances. A FREE entry with bad parity is counted and flagged and is good again. A live one is detached: RELEASING
with CONTEXT_ERROR and no notices, its offers withdrawn and its queue entries removed; DEVICE_ERROR and STREAM_ABORTED are
raised, of one already RELEASING DEVICE_ERROR alone. With a chunk in flight it waits; with none it returns to FREE at the same
event, its slots given up by ascending window position. The model's choices are that a scrub outside READY is a command
without effect (log 1), that the watermark test ends the event (log 10), that the state and head record which decide the head
reserve, and the tag and committed offset raised, are taken as the damaged entry reads (log 13), that an entry is FREE or
live as it reads, whatever it was before the upset (log 30, 37), and that an entry detached already raises no second
STREAM_ABORTED (log 28). -/
def Obligations.ScrubChecksTheEntry : Prop :=
  ∀ s : State,
    let i := s.scrubPosition
    (s.device ≠ .ready → exec .scrub s = .next s) ∧
    (Serving s → (s.entry i).parityGood = true → exec .scrub s = .next { s with scrubPosition := i + 1 }) ∧
    (Serving s → s.entry i = ⟨false, none⟩ → ∃ t, exec .scrub s = .next t ∧ t.scrubPosition = i + 1 ∧
      t.entry i = Entry.free ∧ OtherEntries s t i ∧ Counted s t .tableParityErrors 1 ∧
      t.errors = { s.errors with
        tableParity := true, first := s.errors.first.or (some ⟨.tableParity, some i, none, none⟩) } ∧
      t = { s with scrubPosition := t.scrubPosition, table := t.table, live := t.live, errors := t.errors }) ∧
    ∀ c, Serving s → s.entry i = ⟨false, some c⟩ →
      let noted : State := { s with errors := { s.errors with
        tableParity := true, first := s.errors.first.or (some ⟨.tableParity, some i, none, none⟩) } }
      let told := noted.raise (.deviceError .tableParity (some i) (some c.tag) none none)
      let said := if c.state = .releasing then told else told.raise (.streamAborted i c.tag .contextError c.committed)
      let kept : State → Prop := fun u =>
        u.scrubPosition = i + 1 ∧ u.offered = (s.offered.filter fun o => decide (o.stream ≠ i)) ∧
        u.verifyQueue = (s.verifyQueue.filter fun q => decide (q.stream ≠ i)) ∧
        u.counter .tableParityErrors = (s.counter .tableParityErrors).add 1 ∧
        CountersKept s u [.tableParityErrors, .retiredSlots, .eventsLost] ∧
        u = { s with scrubPosition := u.scrubPosition, table := u.table, live := u.live, errors := u.errors,
                     events := u.events, offered := u.offered, verifyQueue := u.verifyQueue, pool := { s.pool with
                       freeList := u.pool.freeList, uses := u.pool.uses, marks := u.pool.marks
                       reserve := if c.state.receiving && c.headSlotless then s.pool.reserve - 1 else s.pool.reserve } }
      (((∃ o, s.engine = some o ∧ o.stream = i) ∨ ∃ m ∈ s.drainMap, m.stream = i) →
        ∃ u d, exec .scrub s = .next u.poolTest ∧ OtherEntries s u i ∧ Holds u i d ∧
          d = { c with state := .releasing, cause := some .contextError, notices := ⟨false, [], false, false, false⟩
                       window := d.window, streaming := d.streaming, flushPending := d.flushPending } ∧
          (∀ p, d.window[p]? = (c.window[p]?).map fun r : ChunkRecord =>
            (r.withdrawnBy (s.offersAt i p)).unqueuedBy (s.queuedAt i p)) ∧
          FlagsTested c d ∧ u.events = said.events ∧ u.errors = said.errors ∧
          u.counter .retiredSlots = s.counter .retiredSlots ∧ u.pool.freeList = s.pool.freeList ∧
          u.pool.uses = s.pool.uses ∧ u.pool.marks = s.pool.marks ∧ kept u) ∧
      ((∀ o, s.engine = some o → o.stream ≠ i) → (∀ m ∈ s.drainMap, m.stream ≠ i) → CanonicalForm s →
        ∃ u, exec .scrub s = .next u.poolTest ∧ ReturnedToFree said u i { c with cause := some .contextError } ∧ kept u)

/-- R159, R169, R168: the two timers. An idle expiry that is reached reports a stream in OPEN or HOLD once; an interval
expiry that is reached copies the live set to the snapshot, clears it, counts the interval and begins the next. Not
READY, turned off or not yet reached, they do nothing. The model's choices are that an
expiry may come late, and before its time has no effect (log 1, 5), and that an idle expiry looks at the entry as it stands
before its parity is checked (log 22). -/
def Obligations.TimersActWhenDue : Prop :=
  ∀ s : State,
    (∀ i, s.device ≠ .ready ∨ s.settings.idleLimit = 0 → exec (.idleExpiry i) s = .next s) ∧
    (∀ i, Serving s → (∀ c, s.ctx? i = some c → c.state.receiving = false ∨ c.idleReported = true ∨
        s.time < c.lastArrival + 1000 * s.settings.idleLimit) → exec (.idleExpiry i) s = .next s) ∧
    (∀ i c, Serving s → Holds s i c → 0 < s.settings.idleLimit → c.state.receiving = true → c.idleReported = false →
      c.lastArrival + 1000 * s.settings.idleLimit ≤ s.time →
      ∃ t, exec (.idleExpiry i) s = .next t ∧ OtherEntries s t i ∧ Holds t i { c with idleReported := true } ∧
        Raised s t (.streamIdle i c.tag c.committed c.lastArrival) ∧ CountersKept s t [.eventsLost] ∧
        t = { s with table := t.table, events := t.events, live := t.live, errors := t.errors }) ∧
    (s.device ≠ .ready ∨ s.time < s.intervalStart + 1000 * s.settings.intervalLength →
      exec .intervalExpiry s = .next s) ∧
    (s.device = .ready → s.intervalStart + 1000 * s.settings.intervalLength ≤ s.time →
      ∃ t, exec .intervalExpiry s = .next t ∧ t.snapshot = s.live ∧
        t.snapshotElapsed = s.time - s.intervalStart ∧ t.intervalNumber = s.intervalNumber + 1 ∧
        t.intervalStart = s.time ∧
        (∀ k, t.counter k = if k = .eventsLost ∧ s.settings.enables.getLsbD 13 = true ∧ 256 ≤ s.events.length
          then ⟨1, false⟩ else ⟨0, false⟩) ∧
        Raised s t (.interval (s.intervalNumber + 1) (s.time - s.intervalStart)) ∧
        t = { s with snapshot := t.snapshot, snapshotElapsed := t.snapshotElapsed, intervalNumber := t.intervalNumber,
                     intervalStart := t.intervalStart, live := t.live, events := t.events, errors := t.errors })

/-! ## Record layouts -/

/-- R177, 11.2 to 11.4: a segment, a READ, a COMPLETE and an OPEN record, laid out least significant byte first with every
field at every value its bytes hold, read back as they were written. -/
def Obligations.RecordsReadBack : Prop :=
  (∀ (tag offset length : Nat) (flags : Byte) (payload : List Byte), tag < 2 ^ 32 → offset < 2 ^ 48 → length < 2 ^ 16 →
    parseSegment (le 4 tag ++ le 6 offset ++ le 2 length ++ [flags] ++ [0, 0, 0] ++ payload) =
      some ⟨tag, offset, length, flags.getLsbD 0, payload⟩) ∧
  (∀ record, parseSegment record = none ↔ record.length < 16) ∧
  (∀ (tag : Word) (start length : Nat), start < 2 ^ 32 → length < 2 ^ 32 →
    parseRead (le 4 tag.toNat ++ le 4 start ++ le 4 length) = ⟨tag, start, length⟩) ∧
  (∀ (tag check : Word) (status : Byte), parseCompletion (le 4 tag.toNat ++ [status] ++ [0, 0, 0] ++ le 4 check.toNat) =
    ⟨tag, if status = 1 then .stored else if status = 3 then .targetFull else if status = 4 then .poisoned
      else .writeFailed, check⟩) ∧
  ∀ (code : Byte) (id tag target base cap reserve start : Nat) (w b t flags : Byte),
    id < 2 ^ 16 → tag < 2 ^ 32 → target < 2 ^ 32 → base < 2 ^ 48 → cap < 2 ^ 64 → reserve < 2 ^ 64 → start < 2 ^ 64 →
    let record := [code, 0] ++ le 2 id ++ le 4 tag ++ [w, b, t, flags] ++ le 4 target ++ le 6 base ++ [0, 0] ++
      le 8 cap ++ le 8 reserve ++ le 8 start
    commandCode record = code.toNat ∧ commandId record = id ∧
    parseOpen record = ⟨tag, w.toNat, b.toNat, t.toNat, flags.getLsbD 0, target, base, cap, reserve, start⟩

/-! ## What every step keeps -/

/-- The reset state meets every invariant below (R175). The levels and the byte it starts from are the model's choice
(log 7, 8). -/
def Obligations.ResetMeetsInvariants : Prop :=
  CanonicalForm State.reset ∧ State.reset.pool.Partition ∧ CreditAccounts State.reset ∧ RestsUnlessReady State.reset ∧
    QueueBounds State.reset ∧ State.reset.tagsPresent.Nodup ∧ State.reset.settings.InRange ∧
    State.reset.live.Saturating ∧ State.reset.snapshot.Saturating ∧ PoolFollowsSpare State.reset ∧
    RecordsSound State.reset ∧
    State.reset.interruptLine = false ∧ State.reset.device = .starting .bufferWalk

/-- The buffer, the table, the ECC conditions and the slots' uses and marks keep their canonical form: equal contents
are equal data. The form, and the byte an unlisted address reads as, are the model's choice (log 8). -/
def Obligations.StepKeepsCanonicalForm : Prop :=
  ∀ s t : State, CanonicalForm s → step s = .next t → CanonicalForm t

/-- R79, R80, R85, R91, R92: the free list always holds each FREE slot once and no other slot, and at most 64 slots are
retired. -/
def Obligations.StepKeepsSlotPartition : Prop :=
  ∀ s t : State, s.pool.Partition → step s = .next t → t.pool.Partition

/-- R36, R41, R43, R50, R141, R38, R94, R97, R116: every lane keeps its credit account, and outside READY the lanes are
DOWN and nothing waits in the Check Unit or at the drain port. -/
def Obligations.StepKeepsCreditAccounts : Prop :=
  ∀ s t : State, CreditAccounts s → RestsUnlessReady s → step s = .next t → CreditAccounts t ∧ RestsUnlessReady t

/-- R36, R116, R118, R161, R164, R168, R171: the queues keep their bounds, no two records present share a drain tag, the
settings stay in range, and every counter stays within 32 bits, at the maximum when its mark is set. -/
def Obligations.StepKeepsBoundsAndTags : Prop :=
  ∀ s t : State, QueueBounds s → s.tagsPresent.Nodup → s.settings.InRange → s.live.Saturating → s.snapshot.Saturating →
    step s = .next t →
    QueueBounds t ∧ t.tagsPresent.Nodup ∧ t.settings.InRange ∧ t.live.Saturating ∧ t.snapshot.Saturating

/-- R86: after every step of a READY device a well pool has at least the low watermark to spare and a low one less than
the high watermark. -/
def Obligations.StepKeepsPoolState : Prop :=
  ∀ s t : State, s.settings.InRange → PoolFollowsSpare s → step s = .next t → PoolFollowsSpare t

/-- R79, R85, R156, R52, R57, R61, R62, R70, R133, R134: no command lets the chunk records and the pool part. A slot stays
recorded for a stream and a window position exactly while the record there holds it; every range list stays sorted with no two
ranges that overlap or touch; in OPEN and HOLD the records describe the window above a committed offset that is not F, and
hold no slot wholly beyond F; a COMPLETE stream holds none; no entry is live outside READY. (Commands alone: an upset may
leave any record, log 3.) -/
def Obligations.CommandsKeepRecordsSound : Prop :=
  ∀ (x : Instr) (s t : State), CanonicalForm s → s.pool.Partition → RecordsSound s → exec x s = .next t → RecordsSound t

/-- R17, R16, R61, R133: no command takes a stream's progress back. A context that a command leaves live keeps its tag,
window size, batch, threshold, pattern, target and base, its committed offset does not fall, its capacity does not shrink,
its final end once known stands, and its committed offset stays a multiple of 65,536 or its final end. -/
def Obligations.ProgressNeverReverses : Prop :=
  ∀ (x : Instr) (s t : State), s.TableWF → (∀ i c, s.ctx? i = some c → c.Aligned) → exec x s = .next t →
    (∀ i d, t.ctx? i = some d → d.Aligned) ∧
    ∀ i c d, s.ctx? i = some c → t.ctx? i = some d →
      d.tag = c.tag ∧ d.w = c.w ∧ d.b = c.b ∧ d.t = c.t ∧ d.pattern = c.pattern ∧ d.target = c.target ∧
        d.base = c.base ∧ c.committed ≤ d.committed ∧ c.cap ≤ d.cap ∧ (∀ f, c.final = some f → d.final = some f)

end
end

