-- ==== Sys2Proof/Laws/State.lean ====
section
/-! SUPPORT. One lemma for each field under each elementary update of the state. -/

namespace Sys2Proof.Machine

/-! ## setEntry -/

@[simp] theorem State.setEntry_device (s : State) (i : StreamIndex) (e : Entry) : (s.setEntry i e).device = s.device := rfl
@[simp] theorem State.setEntry_time (s : State) (i : StreamIndex) (e : Entry) : (s.setEntry i e).time = s.time := rfl
@[simp] theorem State.setEntry_settings (s : State) (i : StreamIndex) (e : Entry) : (s.setEntry i e).settings = s.settings := rfl
@[simp] theorem State.setEntry_errors (s : State) (i : StreamIndex) (e : Entry) : (s.setEntry i e).errors = s.errors := rfl
@[simp] theorem State.setEntry_commands (s : State) (i : StreamIndex) (e : Entry) : (s.setEntry i e).commands = s.commands := rfl
@[simp] theorem State.setEntry_responses (s : State) (i : StreamIndex) (e : Entry) : (s.setEntry i e).responses = s.responses := rfl
@[simp] theorem State.setEntry_events (s : State) (i : StreamIndex) (e : Entry) : (s.setEntry i e).events = s.events := rfl
@[simp] theorem State.setEntry_live (s : State) (i : StreamIndex) (e : Entry) : (s.setEntry i e).live = s.live := rfl
@[simp] theorem State.setEntry_snapshot (s : State) (i : StreamIndex) (e : Entry) : (s.setEntry i e).snapshot = s.snapshot := rfl
@[simp] theorem State.setEntry_snapshotElapsed (s : State) (i : StreamIndex) (e : Entry) : (s.setEntry i e).snapshotElapsed = s.snapshotElapsed := rfl
@[simp] theorem State.setEntry_intervalNumber (s : State) (i : StreamIndex) (e : Entry) : (s.setEntry i e).intervalNumber = s.intervalNumber := rfl
@[simp] theorem State.setEntry_intervalStart (s : State) (i : StreamIndex) (e : Entry) : (s.setEntry i e).intervalStart = s.intervalStart := rfl
@[simp] theorem State.setEntry_lanes (s : State) (i : StreamIndex) (e : Entry) : (s.setEntry i e).lanes = s.lanes := rfl
@[simp] theorem State.setEntry_scrubPosition (s : State) (i : StreamIndex) (e : Entry) : (s.setEntry i e).scrubPosition = s.scrubPosition := rfl
@[simp] theorem State.setEntry_pool (s : State) (i : StreamIndex) (e : Entry) : (s.setEntry i e).pool = s.pool := rfl
@[simp] theorem State.setEntry_buffer (s : State) (i : StreamIndex) (e : Entry) : (s.setEntry i e).buffer = s.buffer := rfl
@[simp] theorem State.setEntry_words (s : State) (i : StreamIndex) (e : Entry) : (s.setEntry i e).words = s.words := rfl
@[simp] theorem State.setEntry_verifyQueue (s : State) (i : StreamIndex) (e : Entry) : (s.setEntry i e).verifyQueue = s.verifyQueue := rfl
@[simp] theorem State.setEntry_engine (s : State) (i : StreamIndex) (e : Entry) : (s.setEntry i e).engine = s.engine := rfl
@[simp] theorem State.setEntry_offered (s : State) (i : StreamIndex) (e : Entry) : (s.setEntry i e).offered = s.offered := rfl
@[simp] theorem State.setEntry_drainMap (s : State) (i : StreamIndex) (e : Entry) : (s.setEntry i e).drainMap = s.drainMap := rfl
@[simp] theorem State.setEntry_tagCounter (s : State) (i : StreamIndex) (e : Entry) : (s.setEntry i e).tagCounter = s.tagCounter := rfl
@[simp] theorem State.setEntry_arbiter (s : State) (i : StreamIndex) (e : Entry) : (s.setEntry i e).arbiter = s.arbiter := rfl
@[simp] theorem State.setEntry_signal (s : State) (i : StreamIndex) (e : Entry) : (s.setEntry i e).signal = s.signal := rfl
@[simp] theorem State.setEntry_ports (s : State) (i : StreamIndex) (e : Entry) : (s.setEntry i e).ports = s.ports := rfl
@[simp] theorem State.setEntry_disturbances (s : State) (i : StreamIndex) (e : Entry) : (s.setEntry i e).disturbances = s.disturbances := rfl
@[simp] theorem State.setEntry_freeCount (s : State) (i : StreamIndex) (e : Entry) : (s.setEntry i e).freeCount = s.freeCount := rfl
@[simp] theorem State.setEntry_pending (s : State) (i : StreamIndex) (e : Entry) : (s.setEntry i e).pending = s.pending := rfl

/-! ## setCtx -/

@[simp] theorem State.setCtx_device (s : State) (i : StreamIndex) (c : Context) : (s.setCtx i c).device = s.device := rfl
@[simp] theorem State.setCtx_time (s : State) (i : StreamIndex) (c : Context) : (s.setCtx i c).time = s.time := rfl
@[simp] theorem State.setCtx_settings (s : State) (i : StreamIndex) (c : Context) : (s.setCtx i c).settings = s.settings := rfl
@[simp] theorem State.setCtx_errors (s : State) (i : StreamIndex) (c : Context) : (s.setCtx i c).errors = s.errors := rfl
@[simp] theorem State.setCtx_commands (s : State) (i : StreamIndex) (c : Context) : (s.setCtx i c).commands = s.commands := rfl
@[simp] theorem State.setCtx_responses (s : State) (i : StreamIndex) (c : Context) : (s.setCtx i c).responses = s.responses := rfl
@[simp] theorem State.setCtx_events (s : State) (i : StreamIndex) (c : Context) : (s.setCtx i c).events = s.events := rfl
@[simp] theorem State.setCtx_live (s : State) (i : StreamIndex) (c : Context) : (s.setCtx i c).live = s.live := rfl
@[simp] theorem State.setCtx_snapshot (s : State) (i : StreamIndex) (c : Context) : (s.setCtx i c).snapshot = s.snapshot := rfl
@[simp] theorem State.setCtx_snapshotElapsed (s : State) (i : StreamIndex) (c : Context) : (s.setCtx i c).snapshotElapsed = s.snapshotElapsed := rfl
@[simp] theorem State.setCtx_intervalNumber (s : State) (i : StreamIndex) (c : Context) : (s.setCtx i c).intervalNumber = s.intervalNumber := rfl
@[simp] theorem State.setCtx_intervalStart (s : State) (i : StreamIndex) (c : Context) : (s.setCtx i c).intervalStart = s.intervalStart := rfl
@[simp] theorem State.setCtx_lanes (s : State) (i : StreamIndex) (c : Context) : (s.setCtx i c).lanes = s.lanes := rfl
@[simp] theorem State.setCtx_scrubPosition (s : State) (i : StreamIndex) (c : Context) : (s.setCtx i c).scrubPosition = s.scrubPosition := rfl
@[simp] theorem State.setCtx_pool (s : State) (i : StreamIndex) (c : Context) : (s.setCtx i c).pool = s.pool := rfl
@[simp] theorem State.setCtx_buffer (s : State) (i : StreamIndex) (c : Context) : (s.setCtx i c).buffer = s.buffer := rfl
@[simp] theorem State.setCtx_words (s : State) (i : StreamIndex) (c : Context) : (s.setCtx i c).words = s.words := rfl
@[simp] theorem State.setCtx_verifyQueue (s : State) (i : StreamIndex) (c : Context) : (s.setCtx i c).verifyQueue = s.verifyQueue := rfl
@[simp] theorem State.setCtx_engine (s : State) (i : StreamIndex) (c : Context) : (s.setCtx i c).engine = s.engine := rfl
@[simp] theorem State.setCtx_offered (s : State) (i : StreamIndex) (c : Context) : (s.setCtx i c).offered = s.offered := rfl
@[simp] theorem State.setCtx_drainMap (s : State) (i : StreamIndex) (c : Context) : (s.setCtx i c).drainMap = s.drainMap := rfl
@[simp] theorem State.setCtx_tagCounter (s : State) (i : StreamIndex) (c : Context) : (s.setCtx i c).tagCounter = s.tagCounter := rfl
@[simp] theorem State.setCtx_arbiter (s : State) (i : StreamIndex) (c : Context) : (s.setCtx i c).arbiter = s.arbiter := rfl
@[simp] theorem State.setCtx_signal (s : State) (i : StreamIndex) (c : Context) : (s.setCtx i c).signal = s.signal := rfl
@[simp] theorem State.setCtx_ports (s : State) (i : StreamIndex) (c : Context) : (s.setCtx i c).ports = s.ports := rfl
@[simp] theorem State.setCtx_disturbances (s : State) (i : StreamIndex) (c : Context) : (s.setCtx i c).disturbances = s.disturbances := rfl
@[simp] theorem State.setCtx_freeCount (s : State) (i : StreamIndex) (c : Context) : (s.setCtx i c).freeCount = s.freeCount := rfl
@[simp] theorem State.setCtx_pending (s : State) (i : StreamIndex) (c : Context) : (s.setCtx i c).pending = s.pending := rfl

/-! ## freeEntry -/

@[simp] theorem State.freeEntry_device (s : State) (i : StreamIndex) : (s.freeEntry i).device = s.device := rfl
@[simp] theorem State.freeEntry_time (s : State) (i : StreamIndex) : (s.freeEntry i).time = s.time := rfl
@[simp] theorem State.freeEntry_settings (s : State) (i : StreamIndex) : (s.freeEntry i).settings = s.settings := rfl
@[simp] theorem State.freeEntry_errors (s : State) (i : StreamIndex) : (s.freeEntry i).errors = s.errors := rfl
@[simp] theorem State.freeEntry_commands (s : State) (i : StreamIndex) : (s.freeEntry i).commands = s.commands := rfl
@[simp] theorem State.freeEntry_responses (s : State) (i : StreamIndex) : (s.freeEntry i).responses = s.responses := rfl
@[simp] theorem State.freeEntry_events (s : State) (i : StreamIndex) : (s.freeEntry i).events = s.events := rfl
@[simp] theorem State.freeEntry_live (s : State) (i : StreamIndex) : (s.freeEntry i).live = s.live := rfl
@[simp] theorem State.freeEntry_snapshot (s : State) (i : StreamIndex) : (s.freeEntry i).snapshot = s.snapshot := rfl
@[simp] theorem State.freeEntry_snapshotElapsed (s : State) (i : StreamIndex) : (s.freeEntry i).snapshotElapsed = s.snapshotElapsed := rfl
@[simp] theorem State.freeEntry_intervalNumber (s : State) (i : StreamIndex) : (s.freeEntry i).intervalNumber = s.intervalNumber := rfl
@[simp] theorem State.freeEntry_intervalStart (s : State) (i : StreamIndex) : (s.freeEntry i).intervalStart = s.intervalStart := rfl
@[simp] theorem State.freeEntry_lanes (s : State) (i : StreamIndex) : (s.freeEntry i).lanes = s.lanes := rfl
@[simp] theorem State.freeEntry_scrubPosition (s : State) (i : StreamIndex) : (s.freeEntry i).scrubPosition = s.scrubPosition := rfl
@[simp] theorem State.freeEntry_pool (s : State) (i : StreamIndex) : (s.freeEntry i).pool = s.pool := rfl
@[simp] theorem State.freeEntry_buffer (s : State) (i : StreamIndex) : (s.freeEntry i).buffer = s.buffer := rfl
@[simp] theorem State.freeEntry_words (s : State) (i : StreamIndex) : (s.freeEntry i).words = s.words := rfl
@[simp] theorem State.freeEntry_verifyQueue (s : State) (i : StreamIndex) : (s.freeEntry i).verifyQueue = s.verifyQueue := rfl
@[simp] theorem State.freeEntry_engine (s : State) (i : StreamIndex) : (s.freeEntry i).engine = s.engine := rfl
@[simp] theorem State.freeEntry_offered (s : State) (i : StreamIndex) : (s.freeEntry i).offered = s.offered := rfl
@[simp] theorem State.freeEntry_drainMap (s : State) (i : StreamIndex) : (s.freeEntry i).drainMap = s.drainMap := rfl
@[simp] theorem State.freeEntry_tagCounter (s : State) (i : StreamIndex) : (s.freeEntry i).tagCounter = s.tagCounter := rfl
@[simp] theorem State.freeEntry_arbiter (s : State) (i : StreamIndex) : (s.freeEntry i).arbiter = s.arbiter := rfl
@[simp] theorem State.freeEntry_signal (s : State) (i : StreamIndex) : (s.freeEntry i).signal = s.signal := rfl
@[simp] theorem State.freeEntry_ports (s : State) (i : StreamIndex) : (s.freeEntry i).ports = s.ports := rfl
@[simp] theorem State.freeEntry_disturbances (s : State) (i : StreamIndex) : (s.freeEntry i).disturbances = s.disturbances := rfl
@[simp] theorem State.freeEntry_freeCount (s : State) (i : StreamIndex) : (s.freeEntry i).freeCount = s.freeCount := rfl
@[simp] theorem State.freeEntry_pending (s : State) (i : StreamIndex) : (s.freeEntry i).pending = s.pending := rfl

/-! ## setLane -/

@[simp] theorem State.setLane_device (s : State) (l : LaneId) (v : Lane) : (s.setLane l v).device = s.device := rfl
@[simp] theorem State.setLane_time (s : State) (l : LaneId) (v : Lane) : (s.setLane l v).time = s.time := rfl
@[simp] theorem State.setLane_settings (s : State) (l : LaneId) (v : Lane) : (s.setLane l v).settings = s.settings := rfl
@[simp] theorem State.setLane_errors (s : State) (l : LaneId) (v : Lane) : (s.setLane l v).errors = s.errors := rfl
@[simp] theorem State.setLane_commands (s : State) (l : LaneId) (v : Lane) : (s.setLane l v).commands = s.commands := rfl
@[simp] theorem State.setLane_responses (s : State) (l : LaneId) (v : Lane) : (s.setLane l v).responses = s.responses := rfl
@[simp] theorem State.setLane_events (s : State) (l : LaneId) (v : Lane) : (s.setLane l v).events = s.events := rfl
@[simp] theorem State.setLane_live (s : State) (l : LaneId) (v : Lane) : (s.setLane l v).live = s.live := rfl
@[simp] theorem State.setLane_snapshot (s : State) (l : LaneId) (v : Lane) : (s.setLane l v).snapshot = s.snapshot := rfl
@[simp] theorem State.setLane_snapshotElapsed (s : State) (l : LaneId) (v : Lane) : (s.setLane l v).snapshotElapsed = s.snapshotElapsed := rfl
@[simp] theorem State.setLane_intervalNumber (s : State) (l : LaneId) (v : Lane) : (s.setLane l v).intervalNumber = s.intervalNumber := rfl
@[simp] theorem State.setLane_intervalStart (s : State) (l : LaneId) (v : Lane) : (s.setLane l v).intervalStart = s.intervalStart := rfl
@[simp] theorem State.setLane_table (s : State) (l : LaneId) (v : Lane) : (s.setLane l v).table = s.table := rfl
@[simp] theorem State.setLane_scrubPosition (s : State) (l : LaneId) (v : Lane) : (s.setLane l v).scrubPosition = s.scrubPosition := rfl
@[simp] theorem State.setLane_pool (s : State) (l : LaneId) (v : Lane) : (s.setLane l v).pool = s.pool := rfl
@[simp] theorem State.setLane_buffer (s : State) (l : LaneId) (v : Lane) : (s.setLane l v).buffer = s.buffer := rfl
@[simp] theorem State.setLane_words (s : State) (l : LaneId) (v : Lane) : (s.setLane l v).words = s.words := rfl
@[simp] theorem State.setLane_verifyQueue (s : State) (l : LaneId) (v : Lane) : (s.setLane l v).verifyQueue = s.verifyQueue := rfl
@[simp] theorem State.setLane_engine (s : State) (l : LaneId) (v : Lane) : (s.setLane l v).engine = s.engine := rfl
@[simp] theorem State.setLane_offered (s : State) (l : LaneId) (v : Lane) : (s.setLane l v).offered = s.offered := rfl
@[simp] theorem State.setLane_drainMap (s : State) (l : LaneId) (v : Lane) : (s.setLane l v).drainMap = s.drainMap := rfl
@[simp] theorem State.setLane_tagCounter (s : State) (l : LaneId) (v : Lane) : (s.setLane l v).tagCounter = s.tagCounter := rfl
@[simp] theorem State.setLane_arbiter (s : State) (l : LaneId) (v : Lane) : (s.setLane l v).arbiter = s.arbiter := rfl
@[simp] theorem State.setLane_signal (s : State) (l : LaneId) (v : Lane) : (s.setLane l v).signal = s.signal := rfl
@[simp] theorem State.setLane_ports (s : State) (l : LaneId) (v : Lane) : (s.setLane l v).ports = s.ports := rfl
@[simp] theorem State.setLane_disturbances (s : State) (l : LaneId) (v : Lane) : (s.setLane l v).disturbances = s.disturbances := rfl
@[simp] theorem State.setLane_freeCount (s : State) (l : LaneId) (v : Lane) : (s.setLane l v).freeCount = s.freeCount := rfl
@[simp] theorem State.setLane_pending (s : State) (l : LaneId) (v : Lane) : (s.setLane l v).pending = s.pending := rfl

/-! ## modifyLane -/

@[simp] theorem State.modifyLane_device (s : State) (l : LaneId) (f : Lane → Lane) : (s.modifyLane l f).device = s.device := rfl
@[simp] theorem State.modifyLane_time (s : State) (l : LaneId) (f : Lane → Lane) : (s.modifyLane l f).time = s.time := rfl
@[simp] theorem State.modifyLane_settings (s : State) (l : LaneId) (f : Lane → Lane) : (s.modifyLane l f).settings = s.settings := rfl
@[simp] theorem State.modifyLane_errors (s : State) (l : LaneId) (f : Lane → Lane) : (s.modifyLane l f).errors = s.errors := rfl
@[simp] theorem State.modifyLane_commands (s : State) (l : LaneId) (f : Lane → Lane) : (s.modifyLane l f).commands = s.commands := rfl
@[simp] theorem State.modifyLane_responses (s : State) (l : LaneId) (f : Lane → Lane) : (s.modifyLane l f).responses = s.responses := rfl
@[simp] theorem State.modifyLane_events (s : State) (l : LaneId) (f : Lane → Lane) : (s.modifyLane l f).events = s.events := rfl
@[simp] theorem State.modifyLane_live (s : State) (l : LaneId) (f : Lane → Lane) : (s.modifyLane l f).live = s.live := rfl
@[simp] theorem State.modifyLane_snapshot (s : State) (l : LaneId) (f : Lane → Lane) : (s.modifyLane l f).snapshot = s.snapshot := rfl
@[simp] theorem State.modifyLane_snapshotElapsed (s : State) (l : LaneId) (f : Lane → Lane) : (s.modifyLane l f).snapshotElapsed = s.snapshotElapsed := rfl
@[simp] theorem State.modifyLane_intervalNumber (s : State) (l : LaneId) (f : Lane → Lane) : (s.modifyLane l f).intervalNumber = s.intervalNumber := rfl
@[simp] theorem State.modifyLane_intervalStart (s : State) (l : LaneId) (f : Lane → Lane) : (s.modifyLane l f).intervalStart = s.intervalStart := rfl
@[simp] theorem State.modifyLane_table (s : State) (l : LaneId) (f : Lane → Lane) : (s.modifyLane l f).table = s.table := rfl
@[simp] theorem State.modifyLane_scrubPosition (s : State) (l : LaneId) (f : Lane → Lane) : (s.modifyLane l f).scrubPosition = s.scrubPosition := rfl
@[simp] theorem State.modifyLane_pool (s : State) (l : LaneId) (f : Lane → Lane) : (s.modifyLane l f).pool = s.pool := rfl
@[simp] theorem State.modifyLane_buffer (s : State) (l : LaneId) (f : Lane → Lane) : (s.modifyLane l f).buffer = s.buffer := rfl
@[simp] theorem State.modifyLane_words (s : State) (l : LaneId) (f : Lane → Lane) : (s.modifyLane l f).words = s.words := rfl
@[simp] theorem State.modifyLane_verifyQueue (s : State) (l : LaneId) (f : Lane → Lane) : (s.modifyLane l f).verifyQueue = s.verifyQueue := rfl
@[simp] theorem State.modifyLane_engine (s : State) (l : LaneId) (f : Lane → Lane) : (s.modifyLane l f).engine = s.engine := rfl
@[simp] theorem State.modifyLane_offered (s : State) (l : LaneId) (f : Lane → Lane) : (s.modifyLane l f).offered = s.offered := rfl
@[simp] theorem State.modifyLane_drainMap (s : State) (l : LaneId) (f : Lane → Lane) : (s.modifyLane l f).drainMap = s.drainMap := rfl
@[simp] theorem State.modifyLane_tagCounter (s : State) (l : LaneId) (f : Lane → Lane) : (s.modifyLane l f).tagCounter = s.tagCounter := rfl
@[simp] theorem State.modifyLane_arbiter (s : State) (l : LaneId) (f : Lane → Lane) : (s.modifyLane l f).arbiter = s.arbiter := rfl
@[simp] theorem State.modifyLane_signal (s : State) (l : LaneId) (f : Lane → Lane) : (s.modifyLane l f).signal = s.signal := rfl
@[simp] theorem State.modifyLane_ports (s : State) (l : LaneId) (f : Lane → Lane) : (s.modifyLane l f).ports = s.ports := rfl
@[simp] theorem State.modifyLane_disturbances (s : State) (l : LaneId) (f : Lane → Lane) : (s.modifyLane l f).disturbances = s.disturbances := rfl
@[simp] theorem State.modifyLane_freeCount (s : State) (l : LaneId) (f : Lane → Lane) : (s.modifyLane l f).freeCount = s.freeCount := rfl
@[simp] theorem State.modifyLane_pending (s : State) (l : LaneId) (f : Lane → Lane) : (s.modifyLane l f).pending = s.pending := rfl

/-! ## count -/

@[simp] theorem State.count_device (s : State) (k : Counter) (n : Nat) : (s.count k n).device = s.device := rfl
@[simp] theorem State.count_time (s : State) (k : Counter) (n : Nat) : (s.count k n).time = s.time := rfl
@[simp] theorem State.count_settings (s : State) (k : Counter) (n : Nat) : (s.count k n).settings = s.settings := rfl
@[simp] theorem State.count_errors (s : State) (k : Counter) (n : Nat) : (s.count k n).errors = s.errors := rfl
@[simp] theorem State.count_commands (s : State) (k : Counter) (n : Nat) : (s.count k n).commands = s.commands := rfl
@[simp] theorem State.count_responses (s : State) (k : Counter) (n : Nat) : (s.count k n).responses = s.responses := rfl
@[simp] theorem State.count_events (s : State) (k : Counter) (n : Nat) : (s.count k n).events = s.events := rfl
@[simp] theorem State.count_snapshot (s : State) (k : Counter) (n : Nat) : (s.count k n).snapshot = s.snapshot := rfl
@[simp] theorem State.count_snapshotElapsed (s : State) (k : Counter) (n : Nat) : (s.count k n).snapshotElapsed = s.snapshotElapsed := rfl
@[simp] theorem State.count_intervalNumber (s : State) (k : Counter) (n : Nat) : (s.count k n).intervalNumber = s.intervalNumber := rfl
@[simp] theorem State.count_intervalStart (s : State) (k : Counter) (n : Nat) : (s.count k n).intervalStart = s.intervalStart := rfl
@[simp] theorem State.count_lanes (s : State) (k : Counter) (n : Nat) : (s.count k n).lanes = s.lanes := rfl
@[simp] theorem State.count_table (s : State) (k : Counter) (n : Nat) : (s.count k n).table = s.table := rfl
@[simp] theorem State.count_scrubPosition (s : State) (k : Counter) (n : Nat) : (s.count k n).scrubPosition = s.scrubPosition := rfl
@[simp] theorem State.count_pool (s : State) (k : Counter) (n : Nat) : (s.count k n).pool = s.pool := rfl
@[simp] theorem State.count_buffer (s : State) (k : Counter) (n : Nat) : (s.count k n).buffer = s.buffer := rfl
@[simp] theorem State.count_words (s : State) (k : Counter) (n : Nat) : (s.count k n).words = s.words := rfl
@[simp] theorem State.count_verifyQueue (s : State) (k : Counter) (n : Nat) : (s.count k n).verifyQueue = s.verifyQueue := rfl
@[simp] theorem State.count_engine (s : State) (k : Counter) (n : Nat) : (s.count k n).engine = s.engine := rfl
@[simp] theorem State.count_offered (s : State) (k : Counter) (n : Nat) : (s.count k n).offered = s.offered := rfl
@[simp] theorem State.count_drainMap (s : State) (k : Counter) (n : Nat) : (s.count k n).drainMap = s.drainMap := rfl
@[simp] theorem State.count_tagCounter (s : State) (k : Counter) (n : Nat) : (s.count k n).tagCounter = s.tagCounter := rfl
@[simp] theorem State.count_arbiter (s : State) (k : Counter) (n : Nat) : (s.count k n).arbiter = s.arbiter := rfl
@[simp] theorem State.count_signal (s : State) (k : Counter) (n : Nat) : (s.count k n).signal = s.signal := rfl
@[simp] theorem State.count_ports (s : State) (k : Counter) (n : Nat) : (s.count k n).ports = s.ports := rfl
@[simp] theorem State.count_disturbances (s : State) (k : Counter) (n : Nat) : (s.count k n).disturbances = s.disturbances := rfl
@[simp] theorem State.count_freeCount (s : State) (k : Counter) (n : Nat) : (s.count k n).freeCount = s.freeCount := rfl
@[simp] theorem State.count_pending (s : State) (k : Counter) (n : Nat) : (s.count k n).pending = s.pending := rfl

/-! ## countDrop -/

@[simp] theorem State.countDrop_device (s : State) (r : DropReason) : (s.countDrop r).device = s.device := rfl
@[simp] theorem State.countDrop_time (s : State) (r : DropReason) : (s.countDrop r).time = s.time := rfl
@[simp] theorem State.countDrop_settings (s : State) (r : DropReason) : (s.countDrop r).settings = s.settings := rfl
@[simp] theorem State.countDrop_errors (s : State) (r : DropReason) : (s.countDrop r).errors = s.errors := rfl
@[simp] theorem State.countDrop_commands (s : State) (r : DropReason) : (s.countDrop r).commands = s.commands := rfl
@[simp] theorem State.countDrop_responses (s : State) (r : DropReason) : (s.countDrop r).responses = s.responses := rfl
@[simp] theorem State.countDrop_events (s : State) (r : DropReason) : (s.countDrop r).events = s.events := rfl
@[simp] theorem State.countDrop_snapshot (s : State) (r : DropReason) : (s.countDrop r).snapshot = s.snapshot := rfl
@[simp] theorem State.countDrop_snapshotElapsed (s : State) (r : DropReason) : (s.countDrop r).snapshotElapsed = s.snapshotElapsed := rfl
@[simp] theorem State.countDrop_intervalNumber (s : State) (r : DropReason) : (s.countDrop r).intervalNumber = s.intervalNumber := rfl
@[simp] theorem State.countDrop_intervalStart (s : State) (r : DropReason) : (s.countDrop r).intervalStart = s.intervalStart := rfl
@[simp] theorem State.countDrop_lanes (s : State) (r : DropReason) : (s.countDrop r).lanes = s.lanes := rfl
@[simp] theorem State.countDrop_table (s : State) (r : DropReason) : (s.countDrop r).table = s.table := rfl
@[simp] theorem State.countDrop_scrubPosition (s : State) (r : DropReason) : (s.countDrop r).scrubPosition = s.scrubPosition := rfl
@[simp] theorem State.countDrop_pool (s : State) (r : DropReason) : (s.countDrop r).pool = s.pool := rfl
@[simp] theorem State.countDrop_buffer (s : State) (r : DropReason) : (s.countDrop r).buffer = s.buffer := rfl
@[simp] theorem State.countDrop_words (s : State) (r : DropReason) : (s.countDrop r).words = s.words := rfl
@[simp] theorem State.countDrop_verifyQueue (s : State) (r : DropReason) : (s.countDrop r).verifyQueue = s.verifyQueue := rfl
@[simp] theorem State.countDrop_engine (s : State) (r : DropReason) : (s.countDrop r).engine = s.engine := rfl
@[simp] theorem State.countDrop_offered (s : State) (r : DropReason) : (s.countDrop r).offered = s.offered := rfl
@[simp] theorem State.countDrop_drainMap (s : State) (r : DropReason) : (s.countDrop r).drainMap = s.drainMap := rfl
@[simp] theorem State.countDrop_tagCounter (s : State) (r : DropReason) : (s.countDrop r).tagCounter = s.tagCounter := rfl
@[simp] theorem State.countDrop_arbiter (s : State) (r : DropReason) : (s.countDrop r).arbiter = s.arbiter := rfl
@[simp] theorem State.countDrop_signal (s : State) (r : DropReason) : (s.countDrop r).signal = s.signal := rfl
@[simp] theorem State.countDrop_ports (s : State) (r : DropReason) : (s.countDrop r).ports = s.ports := rfl
@[simp] theorem State.countDrop_disturbances (s : State) (r : DropReason) : (s.countDrop r).disturbances = s.disturbances := rfl
@[simp] theorem State.countDrop_freeCount (s : State) (r : DropReason) : (s.countDrop r).freeCount = s.freeCount := rfl
@[simp] theorem State.countDrop_pending (s : State) (r : DropReason) : (s.countDrop r).pending = s.pending := rfl

/-! ## noteError -/

@[simp] theorem State.noteError_device (s : State) (k : ErrorKind) (i : Option StreamIndex) (sl : Option Slot) (c : Option Nat) : (s.noteError k i sl c).device = s.device := rfl
@[simp] theorem State.noteError_time (s : State) (k : ErrorKind) (i : Option StreamIndex) (sl : Option Slot) (c : Option Nat) : (s.noteError k i sl c).time = s.time := rfl
@[simp] theorem State.noteError_settings (s : State) (k : ErrorKind) (i : Option StreamIndex) (sl : Option Slot) (c : Option Nat) : (s.noteError k i sl c).settings = s.settings := rfl
@[simp] theorem State.noteError_commands (s : State) (k : ErrorKind) (i : Option StreamIndex) (sl : Option Slot) (c : Option Nat) : (s.noteError k i sl c).commands = s.commands := rfl
@[simp] theorem State.noteError_responses (s : State) (k : ErrorKind) (i : Option StreamIndex) (sl : Option Slot) (c : Option Nat) : (s.noteError k i sl c).responses = s.responses := rfl
@[simp] theorem State.noteError_events (s : State) (k : ErrorKind) (i : Option StreamIndex) (sl : Option Slot) (c : Option Nat) : (s.noteError k i sl c).events = s.events := rfl
@[simp] theorem State.noteError_live (s : State) (k : ErrorKind) (i : Option StreamIndex) (sl : Option Slot) (c : Option Nat) : (s.noteError k i sl c).live = s.live := rfl
@[simp] theorem State.noteError_snapshot (s : State) (k : ErrorKind) (i : Option StreamIndex) (sl : Option Slot) (c : Option Nat) : (s.noteError k i sl c).snapshot = s.snapshot := rfl
@[simp] theorem State.noteError_snapshotElapsed (s : State) (k : ErrorKind) (i : Option StreamIndex) (sl : Option Slot) (c : Option Nat) : (s.noteError k i sl c).snapshotElapsed = s.snapshotElapsed := rfl
@[simp] theorem State.noteError_intervalNumber (s : State) (k : ErrorKind) (i : Option StreamIndex) (sl : Option Slot) (c : Option Nat) : (s.noteError k i sl c).intervalNumber = s.intervalNumber := rfl
@[simp] theorem State.noteError_intervalStart (s : State) (k : ErrorKind) (i : Option StreamIndex) (sl : Option Slot) (c : Option Nat) : (s.noteError k i sl c).intervalStart = s.intervalStart := rfl
@[simp] theorem State.noteError_lanes (s : State) (k : ErrorKind) (i : Option StreamIndex) (sl : Option Slot) (c : Option Nat) : (s.noteError k i sl c).lanes = s.lanes := rfl
@[simp] theorem State.noteError_table (s : State) (k : ErrorKind) (i : Option StreamIndex) (sl : Option Slot) (c : Option Nat) : (s.noteError k i sl c).table = s.table := rfl
@[simp] theorem State.noteError_scrubPosition (s : State) (k : ErrorKind) (i : Option StreamIndex) (sl : Option Slot) (c : Option Nat) : (s.noteError k i sl c).scrubPosition = s.scrubPosition := rfl
@[simp] theorem State.noteError_pool (s : State) (k : ErrorKind) (i : Option StreamIndex) (sl : Option Slot) (c : Option Nat) : (s.noteError k i sl c).pool = s.pool := rfl
@[simp] theorem State.noteError_buffer (s : State) (k : ErrorKind) (i : Option StreamIndex) (sl : Option Slot) (c : Option Nat) : (s.noteError k i sl c).buffer = s.buffer := rfl
@[simp] theorem State.noteError_words (s : State) (k : ErrorKind) (i : Option StreamIndex) (sl : Option Slot) (c : Option Nat) : (s.noteError k i sl c).words = s.words := rfl
@[simp] theorem State.noteError_verifyQueue (s : State) (k : ErrorKind) (i : Option StreamIndex) (sl : Option Slot) (c : Option Nat) : (s.noteError k i sl c).verifyQueue = s.verifyQueue := rfl
@[simp] theorem State.noteError_engine (s : State) (k : ErrorKind) (i : Option StreamIndex) (sl : Option Slot) (c : Option Nat) : (s.noteError k i sl c).engine = s.engine := rfl
@[simp] theorem State.noteError_offered (s : State) (k : ErrorKind) (i : Option StreamIndex) (sl : Option Slot) (c : Option Nat) : (s.noteError k i sl c).offered = s.offered := rfl
@[simp] theorem State.noteError_drainMap (s : State) (k : ErrorKind) (i : Option StreamIndex) (sl : Option Slot) (c : Option Nat) : (s.noteError k i sl c).drainMap = s.drainMap := rfl
@[simp] theorem State.noteError_tagCounter (s : State) (k : ErrorKind) (i : Option StreamIndex) (sl : Option Slot) (c : Option Nat) : (s.noteError k i sl c).tagCounter = s.tagCounter := rfl
@[simp] theorem State.noteError_arbiter (s : State) (k : ErrorKind) (i : Option StreamIndex) (sl : Option Slot) (c : Option Nat) : (s.noteError k i sl c).arbiter = s.arbiter := rfl
@[simp] theorem State.noteError_signal (s : State) (k : ErrorKind) (i : Option StreamIndex) (sl : Option Slot) (c : Option Nat) : (s.noteError k i sl c).signal = s.signal := rfl
@[simp] theorem State.noteError_ports (s : State) (k : ErrorKind) (i : Option StreamIndex) (sl : Option Slot) (c : Option Nat) : (s.noteError k i sl c).ports = s.ports := rfl
@[simp] theorem State.noteError_disturbances (s : State) (k : ErrorKind) (i : Option StreamIndex) (sl : Option Slot) (c : Option Nat) : (s.noteError k i sl c).disturbances = s.disturbances := rfl
@[simp] theorem State.noteError_freeCount (s : State) (k : ErrorKind) (i : Option StreamIndex) (sl : Option Slot) (c : Option Nat) : (s.noteError k i sl c).freeCount = s.freeCount := rfl
@[simp] theorem State.noteError_pending (s : State) (k : ErrorKind) (i : Option StreamIndex) (sl : Option Slot) (c : Option Nat) : (s.noteError k i sl c).pending = s.pending := rfl

/-! ## raiseReserve -/

@[simp] theorem State.raiseReserve_device (s : State) (n : Nat) : (s.raiseReserve n).device = s.device := rfl
@[simp] theorem State.raiseReserve_time (s : State) (n : Nat) : (s.raiseReserve n).time = s.time := rfl
@[simp] theorem State.raiseReserve_settings (s : State) (n : Nat) : (s.raiseReserve n).settings = s.settings := rfl
@[simp] theorem State.raiseReserve_errors (s : State) (n : Nat) : (s.raiseReserve n).errors = s.errors := rfl
@[simp] theorem State.raiseReserve_commands (s : State) (n : Nat) : (s.raiseReserve n).commands = s.commands := rfl
@[simp] theorem State.raiseReserve_responses (s : State) (n : Nat) : (s.raiseReserve n).responses = s.responses := rfl
@[simp] theorem State.raiseReserve_events (s : State) (n : Nat) : (s.raiseReserve n).events = s.events := rfl
@[simp] theorem State.raiseReserve_live (s : State) (n : Nat) : (s.raiseReserve n).live = s.live := rfl
@[simp] theorem State.raiseReserve_snapshot (s : State) (n : Nat) : (s.raiseReserve n).snapshot = s.snapshot := rfl
@[simp] theorem State.raiseReserve_snapshotElapsed (s : State) (n : Nat) : (s.raiseReserve n).snapshotElapsed = s.snapshotElapsed := rfl
@[simp] theorem State.raiseReserve_intervalNumber (s : State) (n : Nat) : (s.raiseReserve n).intervalNumber = s.intervalNumber := rfl
@[simp] theorem State.raiseReserve_intervalStart (s : State) (n : Nat) : (s.raiseReserve n).intervalStart = s.intervalStart := rfl
@[simp] theorem State.raiseReserve_lanes (s : State) (n : Nat) : (s.raiseReserve n).lanes = s.lanes := rfl
@[simp] theorem State.raiseReserve_table (s : State) (n : Nat) : (s.raiseReserve n).table = s.table := rfl
@[simp] theorem State.raiseReserve_scrubPosition (s : State) (n : Nat) : (s.raiseReserve n).scrubPosition = s.scrubPosition := rfl
@[simp] theorem State.raiseReserve_buffer (s : State) (n : Nat) : (s.raiseReserve n).buffer = s.buffer := rfl
@[simp] theorem State.raiseReserve_words (s : State) (n : Nat) : (s.raiseReserve n).words = s.words := rfl
@[simp] theorem State.raiseReserve_verifyQueue (s : State) (n : Nat) : (s.raiseReserve n).verifyQueue = s.verifyQueue := rfl
@[simp] theorem State.raiseReserve_engine (s : State) (n : Nat) : (s.raiseReserve n).engine = s.engine := rfl
@[simp] theorem State.raiseReserve_offered (s : State) (n : Nat) : (s.raiseReserve n).offered = s.offered := rfl
@[simp] theorem State.raiseReserve_drainMap (s : State) (n : Nat) : (s.raiseReserve n).drainMap = s.drainMap := rfl
@[simp] theorem State.raiseReserve_tagCounter (s : State) (n : Nat) : (s.raiseReserve n).tagCounter = s.tagCounter := rfl
@[simp] theorem State.raiseReserve_arbiter (s : State) (n : Nat) : (s.raiseReserve n).arbiter = s.arbiter := rfl
@[simp] theorem State.raiseReserve_signal (s : State) (n : Nat) : (s.raiseReserve n).signal = s.signal := rfl
@[simp] theorem State.raiseReserve_ports (s : State) (n : Nat) : (s.raiseReserve n).ports = s.ports := rfl
@[simp] theorem State.raiseReserve_disturbances (s : State) (n : Nat) : (s.raiseReserve n).disturbances = s.disturbances := rfl
@[simp] theorem State.raiseReserve_freeCount (s : State) (n : Nat) : (s.raiseReserve n).freeCount = s.freeCount := rfl
@[simp] theorem State.raiseReserve_pending (s : State) (n : Nat) : (s.raiseReserve n).pending = s.pending := rfl

/-! ## lowerReserve -/

@[simp] theorem State.lowerReserve_device (s : State) : (s.lowerReserve).device = s.device := rfl
@[simp] theorem State.lowerReserve_time (s : State) : (s.lowerReserve).time = s.time := rfl
@[simp] theorem State.lowerReserve_settings (s : State) : (s.lowerReserve).settings = s.settings := rfl
@[simp] theorem State.lowerReserve_errors (s : State) : (s.lowerReserve).errors = s.errors := rfl
@[simp] theorem State.lowerReserve_commands (s : State) : (s.lowerReserve).commands = s.commands := rfl
@[simp] theorem State.lowerReserve_responses (s : State) : (s.lowerReserve).responses = s.responses := rfl
@[simp] theorem State.lowerReserve_events (s : State) : (s.lowerReserve).events = s.events := rfl
@[simp] theorem State.lowerReserve_live (s : State) : (s.lowerReserve).live = s.live := rfl
@[simp] theorem State.lowerReserve_snapshot (s : State) : (s.lowerReserve).snapshot = s.snapshot := rfl
@[simp] theorem State.lowerReserve_snapshotElapsed (s : State) : (s.lowerReserve).snapshotElapsed = s.snapshotElapsed := rfl
@[simp] theorem State.lowerReserve_intervalNumber (s : State) : (s.lowerReserve).intervalNumber = s.intervalNumber := rfl
@[simp] theorem State.lowerReserve_intervalStart (s : State) : (s.lowerReserve).intervalStart = s.intervalStart := rfl
@[simp] theorem State.lowerReserve_lanes (s : State) : (s.lowerReserve).lanes = s.lanes := rfl
@[simp] theorem State.lowerReserve_table (s : State) : (s.lowerReserve).table = s.table := rfl
@[simp] theorem State.lowerReserve_scrubPosition (s : State) : (s.lowerReserve).scrubPosition = s.scrubPosition := rfl
@[simp] theorem State.lowerReserve_buffer (s : State) : (s.lowerReserve).buffer = s.buffer := rfl
@[simp] theorem State.lowerReserve_words (s : State) : (s.lowerReserve).words = s.words := rfl
@[simp] theorem State.lowerReserve_verifyQueue (s : State) : (s.lowerReserve).verifyQueue = s.verifyQueue := rfl
@[simp] theorem State.lowerReserve_engine (s : State) : (s.lowerReserve).engine = s.engine := rfl
@[simp] theorem State.lowerReserve_offered (s : State) : (s.lowerReserve).offered = s.offered := rfl
@[simp] theorem State.lowerReserve_drainMap (s : State) : (s.lowerReserve).drainMap = s.drainMap := rfl
@[simp] theorem State.lowerReserve_tagCounter (s : State) : (s.lowerReserve).tagCounter = s.tagCounter := rfl
@[simp] theorem State.lowerReserve_arbiter (s : State) : (s.lowerReserve).arbiter = s.arbiter := rfl
@[simp] theorem State.lowerReserve_signal (s : State) : (s.lowerReserve).signal = s.signal := rfl
@[simp] theorem State.lowerReserve_ports (s : State) : (s.lowerReserve).ports = s.ports := rfl
@[simp] theorem State.lowerReserve_disturbances (s : State) : (s.lowerReserve).disturbances = s.disturbances := rfl
@[simp] theorem State.lowerReserve_freeCount (s : State) : (s.lowerReserve).freeCount = s.freeCount := rfl
@[simp] theorem State.lowerReserve_pending (s : State) : (s.lowerReserve).pending = s.pending := rfl

/-! ## retireSlot -/

@[simp] theorem State.retireSlot_device (s : State) (slot : Slot) : (s.retireSlot slot).device = s.device := rfl
@[simp] theorem State.retireSlot_time (s : State) (slot : Slot) : (s.retireSlot slot).time = s.time := rfl
@[simp] theorem State.retireSlot_settings (s : State) (slot : Slot) : (s.retireSlot slot).settings = s.settings := rfl
@[simp] theorem State.retireSlot_errors (s : State) (slot : Slot) : (s.retireSlot slot).errors = s.errors := rfl
@[simp] theorem State.retireSlot_commands (s : State) (slot : Slot) : (s.retireSlot slot).commands = s.commands := rfl
@[simp] theorem State.retireSlot_responses (s : State) (slot : Slot) : (s.retireSlot slot).responses = s.responses := rfl
@[simp] theorem State.retireSlot_events (s : State) (slot : Slot) : (s.retireSlot slot).events = s.events := rfl
@[simp] theorem State.retireSlot_snapshot (s : State) (slot : Slot) : (s.retireSlot slot).snapshot = s.snapshot := rfl
@[simp] theorem State.retireSlot_snapshotElapsed (s : State) (slot : Slot) : (s.retireSlot slot).snapshotElapsed = s.snapshotElapsed := rfl
@[simp] theorem State.retireSlot_intervalNumber (s : State) (slot : Slot) : (s.retireSlot slot).intervalNumber = s.intervalNumber := rfl
@[simp] theorem State.retireSlot_intervalStart (s : State) (slot : Slot) : (s.retireSlot slot).intervalStart = s.intervalStart := rfl
@[simp] theorem State.retireSlot_lanes (s : State) (slot : Slot) : (s.retireSlot slot).lanes = s.lanes := rfl
@[simp] theorem State.retireSlot_table (s : State) (slot : Slot) : (s.retireSlot slot).table = s.table := rfl
@[simp] theorem State.retireSlot_scrubPosition (s : State) (slot : Slot) : (s.retireSlot slot).scrubPosition = s.scrubPosition := rfl
@[simp] theorem State.retireSlot_buffer (s : State) (slot : Slot) : (s.retireSlot slot).buffer = s.buffer := rfl
@[simp] theorem State.retireSlot_words (s : State) (slot : Slot) : (s.retireSlot slot).words = s.words := rfl
@[simp] theorem State.retireSlot_verifyQueue (s : State) (slot : Slot) : (s.retireSlot slot).verifyQueue = s.verifyQueue := rfl
@[simp] theorem State.retireSlot_engine (s : State) (slot : Slot) : (s.retireSlot slot).engine = s.engine := rfl
@[simp] theorem State.retireSlot_offered (s : State) (slot : Slot) : (s.retireSlot slot).offered = s.offered := rfl
@[simp] theorem State.retireSlot_drainMap (s : State) (slot : Slot) : (s.retireSlot slot).drainMap = s.drainMap := rfl
@[simp] theorem State.retireSlot_tagCounter (s : State) (slot : Slot) : (s.retireSlot slot).tagCounter = s.tagCounter := rfl
@[simp] theorem State.retireSlot_arbiter (s : State) (slot : Slot) : (s.retireSlot slot).arbiter = s.arbiter := rfl
@[simp] theorem State.retireSlot_signal (s : State) (slot : Slot) : (s.retireSlot slot).signal = s.signal := rfl
@[simp] theorem State.retireSlot_ports (s : State) (slot : Slot) : (s.retireSlot slot).ports = s.ports := rfl
@[simp] theorem State.retireSlot_disturbances (s : State) (slot : Slot) : (s.retireSlot slot).disturbances = s.disturbances := rfl
@[simp] theorem State.retireSlot_freeCount (s : State) (slot : Slot) : (s.retireSlot slot).freeCount = s.freeCount := rfl
@[simp] theorem State.retireSlot_pending (s : State) (slot : Slot) : (s.retireSlot slot).pending = s.pending := rfl

/-! ## setCondition -/

@[simp] theorem State.setCondition_device (s : State) (slot : Slot) (w : Nat) (c : WordCondition) : (s.setCondition slot w c).device = s.device := rfl
@[simp] theorem State.setCondition_time (s : State) (slot : Slot) (w : Nat) (c : WordCondition) : (s.setCondition slot w c).time = s.time := rfl
@[simp] theorem State.setCondition_settings (s : State) (slot : Slot) (w : Nat) (c : WordCondition) : (s.setCondition slot w c).settings = s.settings := rfl
@[simp] theorem State.setCondition_errors (s : State) (slot : Slot) (w : Nat) (c : WordCondition) : (s.setCondition slot w c).errors = s.errors := rfl
@[simp] theorem State.setCondition_commands (s : State) (slot : Slot) (w : Nat) (c : WordCondition) : (s.setCondition slot w c).commands = s.commands := rfl
@[simp] theorem State.setCondition_responses (s : State) (slot : Slot) (w : Nat) (c : WordCondition) : (s.setCondition slot w c).responses = s.responses := rfl
@[simp] theorem State.setCondition_events (s : State) (slot : Slot) (w : Nat) (c : WordCondition) : (s.setCondition slot w c).events = s.events := rfl
@[simp] theorem State.setCondition_live (s : State) (slot : Slot) (w : Nat) (c : WordCondition) : (s.setCondition slot w c).live = s.live := rfl
@[simp] theorem State.setCondition_snapshot (s : State) (slot : Slot) (w : Nat) (c : WordCondition) : (s.setCondition slot w c).snapshot = s.snapshot := rfl
@[simp] theorem State.setCondition_snapshotElapsed (s : State) (slot : Slot) (w : Nat) (c : WordCondition) : (s.setCondition slot w c).snapshotElapsed = s.snapshotElapsed := rfl
@[simp] theorem State.setCondition_intervalNumber (s : State) (slot : Slot) (w : Nat) (c : WordCondition) : (s.setCondition slot w c).intervalNumber = s.intervalNumber := rfl
@[simp] theorem State.setCondition_intervalStart (s : State) (slot : Slot) (w : Nat) (c : WordCondition) : (s.setCondition slot w c).intervalStart = s.intervalStart := rfl
@[simp] theorem State.setCondition_lanes (s : State) (slot : Slot) (w : Nat) (c : WordCondition) : (s.setCondition slot w c).lanes = s.lanes := rfl
@[simp] theorem State.setCondition_table (s : State) (slot : Slot) (w : Nat) (c : WordCondition) : (s.setCondition slot w c).table = s.table := rfl
@[simp] theorem State.setCondition_scrubPosition (s : State) (slot : Slot) (w : Nat) (c : WordCondition) : (s.setCondition slot w c).scrubPosition = s.scrubPosition := rfl
@[simp] theorem State.setCondition_pool (s : State) (slot : Slot) (w : Nat) (c : WordCondition) : (s.setCondition slot w c).pool = s.pool := rfl
@[simp] theorem State.setCondition_buffer (s : State) (slot : Slot) (w : Nat) (c : WordCondition) : (s.setCondition slot w c).buffer = s.buffer := rfl
@[simp] theorem State.setCondition_verifyQueue (s : State) (slot : Slot) (w : Nat) (c : WordCondition) : (s.setCondition slot w c).verifyQueue = s.verifyQueue := rfl
@[simp] theorem State.setCondition_engine (s : State) (slot : Slot) (w : Nat) (c : WordCondition) : (s.setCondition slot w c).engine = s.engine := rfl
@[simp] theorem State.setCondition_offered (s : State) (slot : Slot) (w : Nat) (c : WordCondition) : (s.setCondition slot w c).offered = s.offered := rfl
@[simp] theorem State.setCondition_drainMap (s : State) (slot : Slot) (w : Nat) (c : WordCondition) : (s.setCondition slot w c).drainMap = s.drainMap := rfl
@[simp] theorem State.setCondition_tagCounter (s : State) (slot : Slot) (w : Nat) (c : WordCondition) : (s.setCondition slot w c).tagCounter = s.tagCounter := rfl
@[simp] theorem State.setCondition_arbiter (s : State) (slot : Slot) (w : Nat) (c : WordCondition) : (s.setCondition slot w c).arbiter = s.arbiter := rfl
@[simp] theorem State.setCondition_signal (s : State) (slot : Slot) (w : Nat) (c : WordCondition) : (s.setCondition slot w c).signal = s.signal := rfl
@[simp] theorem State.setCondition_ports (s : State) (slot : Slot) (w : Nat) (c : WordCondition) : (s.setCondition slot w c).ports = s.ports := rfl
@[simp] theorem State.setCondition_disturbances (s : State) (slot : Slot) (w : Nat) (c : WordCondition) : (s.setCondition slot w c).disturbances = s.disturbances := rfl
@[simp] theorem State.setCondition_freeCount (s : State) (slot : Slot) (w : Nat) (c : WordCondition) : (s.setCondition slot w c).freeCount = s.freeCount := rfl
@[simp] theorem State.setCondition_pending (s : State) (slot : Slot) (w : Nat) (c : WordCondition) : (s.setCondition slot w c).pending = s.pending := rfl

/-! ## respond -/

@[simp] theorem State.respond_device (s : State) (r : List Byte) (st : Status) (d : List Byte) : (s.respond r st d).device = s.device := rfl
@[simp] theorem State.respond_time (s : State) (r : List Byte) (st : Status) (d : List Byte) : (s.respond r st d).time = s.time := rfl
@[simp] theorem State.respond_settings (s : State) (r : List Byte) (st : Status) (d : List Byte) : (s.respond r st d).settings = s.settings := rfl
@[simp] theorem State.respond_errors (s : State) (r : List Byte) (st : Status) (d : List Byte) : (s.respond r st d).errors = s.errors := rfl
@[simp] theorem State.respond_commands (s : State) (r : List Byte) (st : Status) (d : List Byte) : (s.respond r st d).commands = s.commands := rfl
@[simp] theorem State.respond_events (s : State) (r : List Byte) (st : Status) (d : List Byte) : (s.respond r st d).events = s.events := rfl
@[simp] theorem State.respond_live (s : State) (r : List Byte) (st : Status) (d : List Byte) : (s.respond r st d).live = s.live := rfl
@[simp] theorem State.respond_snapshot (s : State) (r : List Byte) (st : Status) (d : List Byte) : (s.respond r st d).snapshot = s.snapshot := rfl
@[simp] theorem State.respond_snapshotElapsed (s : State) (r : List Byte) (st : Status) (d : List Byte) : (s.respond r st d).snapshotElapsed = s.snapshotElapsed := rfl
@[simp] theorem State.respond_intervalNumber (s : State) (r : List Byte) (st : Status) (d : List Byte) : (s.respond r st d).intervalNumber = s.intervalNumber := rfl
@[simp] theorem State.respond_intervalStart (s : State) (r : List Byte) (st : Status) (d : List Byte) : (s.respond r st d).intervalStart = s.intervalStart := rfl
@[simp] theorem State.respond_lanes (s : State) (r : List Byte) (st : Status) (d : List Byte) : (s.respond r st d).lanes = s.lanes := rfl
@[simp] theorem State.respond_table (s : State) (r : List Byte) (st : Status) (d : List Byte) : (s.respond r st d).table = s.table := rfl
@[simp] theorem State.respond_scrubPosition (s : State) (r : List Byte) (st : Status) (d : List Byte) : (s.respond r st d).scrubPosition = s.scrubPosition := rfl
@[simp] theorem State.respond_pool (s : State) (r : List Byte) (st : Status) (d : List Byte) : (s.respond r st d).pool = s.pool := rfl
@[simp] theorem State.respond_buffer (s : State) (r : List Byte) (st : Status) (d : List Byte) : (s.respond r st d).buffer = s.buffer := rfl
@[simp] theorem State.respond_words (s : State) (r : List Byte) (st : Status) (d : List Byte) : (s.respond r st d).words = s.words := rfl
@[simp] theorem State.respond_verifyQueue (s : State) (r : List Byte) (st : Status) (d : List Byte) : (s.respond r st d).verifyQueue = s.verifyQueue := rfl
@[simp] theorem State.respond_engine (s : State) (r : List Byte) (st : Status) (d : List Byte) : (s.respond r st d).engine = s.engine := rfl
@[simp] theorem State.respond_offered (s : State) (r : List Byte) (st : Status) (d : List Byte) : (s.respond r st d).offered = s.offered := rfl
@[simp] theorem State.respond_drainMap (s : State) (r : List Byte) (st : Status) (d : List Byte) : (s.respond r st d).drainMap = s.drainMap := rfl
@[simp] theorem State.respond_tagCounter (s : State) (r : List Byte) (st : Status) (d : List Byte) : (s.respond r st d).tagCounter = s.tagCounter := rfl
@[simp] theorem State.respond_arbiter (s : State) (r : List Byte) (st : Status) (d : List Byte) : (s.respond r st d).arbiter = s.arbiter := rfl
@[simp] theorem State.respond_signal (s : State) (r : List Byte) (st : Status) (d : List Byte) : (s.respond r st d).signal = s.signal := rfl
@[simp] theorem State.respond_ports (s : State) (r : List Byte) (st : Status) (d : List Byte) : (s.respond r st d).ports = s.ports := rfl
@[simp] theorem State.respond_disturbances (s : State) (r : List Byte) (st : Status) (d : List Byte) : (s.respond r st d).disturbances = s.disturbances := rfl
@[simp] theorem State.respond_freeCount (s : State) (r : List Byte) (st : Status) (d : List Byte) : (s.respond r st d).freeCount = s.freeCount := rfl
@[simp] theorem State.respond_pending (s : State) (r : List Byte) (st : Status) (d : List Byte) : (s.respond r st d).pending = s.pending := rfl

/-! ## answerTake -/

@[simp] theorem State.answerTake_device (s : State) (b : List Byte) : (s.answerTake b).device = s.device := rfl
@[simp] theorem State.answerTake_time (s : State) (b : List Byte) : (s.answerTake b).time = s.time := rfl
@[simp] theorem State.answerTake_settings (s : State) (b : List Byte) : (s.answerTake b).settings = s.settings := rfl
@[simp] theorem State.answerTake_errors (s : State) (b : List Byte) : (s.answerTake b).errors = s.errors := rfl
@[simp] theorem State.answerTake_commands (s : State) (b : List Byte) : (s.answerTake b).commands = s.commands := rfl
@[simp] theorem State.answerTake_responses (s : State) (b : List Byte) : (s.answerTake b).responses = s.responses := rfl
@[simp] theorem State.answerTake_events (s : State) (b : List Byte) : (s.answerTake b).events = s.events := rfl
@[simp] theorem State.answerTake_live (s : State) (b : List Byte) : (s.answerTake b).live = s.live := rfl
@[simp] theorem State.answerTake_snapshot (s : State) (b : List Byte) : (s.answerTake b).snapshot = s.snapshot := rfl
@[simp] theorem State.answerTake_snapshotElapsed (s : State) (b : List Byte) : (s.answerTake b).snapshotElapsed = s.snapshotElapsed := rfl
@[simp] theorem State.answerTake_intervalNumber (s : State) (b : List Byte) : (s.answerTake b).intervalNumber = s.intervalNumber := rfl
@[simp] theorem State.answerTake_intervalStart (s : State) (b : List Byte) : (s.answerTake b).intervalStart = s.intervalStart := rfl
@[simp] theorem State.answerTake_lanes (s : State) (b : List Byte) : (s.answerTake b).lanes = s.lanes := rfl
@[simp] theorem State.answerTake_table (s : State) (b : List Byte) : (s.answerTake b).table = s.table := rfl
@[simp] theorem State.answerTake_scrubPosition (s : State) (b : List Byte) : (s.answerTake b).scrubPosition = s.scrubPosition := rfl
@[simp] theorem State.answerTake_pool (s : State) (b : List Byte) : (s.answerTake b).pool = s.pool := rfl
@[simp] theorem State.answerTake_buffer (s : State) (b : List Byte) : (s.answerTake b).buffer = s.buffer := rfl
@[simp] theorem State.answerTake_words (s : State) (b : List Byte) : (s.answerTake b).words = s.words := rfl
@[simp] theorem State.answerTake_verifyQueue (s : State) (b : List Byte) : (s.answerTake b).verifyQueue = s.verifyQueue := rfl
@[simp] theorem State.answerTake_engine (s : State) (b : List Byte) : (s.answerTake b).engine = s.engine := rfl
@[simp] theorem State.answerTake_offered (s : State) (b : List Byte) : (s.answerTake b).offered = s.offered := rfl
@[simp] theorem State.answerTake_drainMap (s : State) (b : List Byte) : (s.answerTake b).drainMap = s.drainMap := rfl
@[simp] theorem State.answerTake_tagCounter (s : State) (b : List Byte) : (s.answerTake b).tagCounter = s.tagCounter := rfl
@[simp] theorem State.answerTake_arbiter (s : State) (b : List Byte) : (s.answerTake b).arbiter = s.arbiter := rfl
@[simp] theorem State.answerTake_signal (s : State) (b : List Byte) : (s.answerTake b).signal = s.signal := rfl
@[simp] theorem State.answerTake_disturbances (s : State) (b : List Byte) : (s.answerTake b).disturbances = s.disturbances := rfl
@[simp] theorem State.answerTake_freeCount (s : State) (b : List Byte) : (s.answerTake b).freeCount = s.freeCount := rfl
@[simp] theorem State.answerTake_pending (s : State) (b : List Byte) : (s.answerTake b).pending = s.pending := rfl

/-! ## answerRead -/

@[simp] theorem State.answerRead_device (s : State) (b : List Byte) : (s.answerRead b).device = s.device := rfl
@[simp] theorem State.answerRead_time (s : State) (b : List Byte) : (s.answerRead b).time = s.time := rfl
@[simp] theorem State.answerRead_settings (s : State) (b : List Byte) : (s.answerRead b).settings = s.settings := rfl
@[simp] theorem State.answerRead_errors (s : State) (b : List Byte) : (s.answerRead b).errors = s.errors := rfl
@[simp] theorem State.answerRead_commands (s : State) (b : List Byte) : (s.answerRead b).commands = s.commands := rfl
@[simp] theorem State.answerRead_responses (s : State) (b : List Byte) : (s.answerRead b).responses = s.responses := rfl
@[simp] theorem State.answerRead_events (s : State) (b : List Byte) : (s.answerRead b).events = s.events := rfl
@[simp] theorem State.answerRead_live (s : State) (b : List Byte) : (s.answerRead b).live = s.live := rfl
@[simp] theorem State.answerRead_snapshot (s : State) (b : List Byte) : (s.answerRead b).snapshot = s.snapshot := rfl
@[simp] theorem State.answerRead_snapshotElapsed (s : State) (b : List Byte) : (s.answerRead b).snapshotElapsed = s.snapshotElapsed := rfl
@[simp] theorem State.answerRead_intervalNumber (s : State) (b : List Byte) : (s.answerRead b).intervalNumber = s.intervalNumber := rfl
@[simp] theorem State.answerRead_intervalStart (s : State) (b : List Byte) : (s.answerRead b).intervalStart = s.intervalStart := rfl
@[simp] theorem State.answerRead_lanes (s : State) (b : List Byte) : (s.answerRead b).lanes = s.lanes := rfl
@[simp] theorem State.answerRead_table (s : State) (b : List Byte) : (s.answerRead b).table = s.table := rfl
@[simp] theorem State.answerRead_scrubPosition (s : State) (b : List Byte) : (s.answerRead b).scrubPosition = s.scrubPosition := rfl
@[simp] theorem State.answerRead_pool (s : State) (b : List Byte) : (s.answerRead b).pool = s.pool := rfl
@[simp] theorem State.answerRead_buffer (s : State) (b : List Byte) : (s.answerRead b).buffer = s.buffer := rfl
@[simp] theorem State.answerRead_words (s : State) (b : List Byte) : (s.answerRead b).words = s.words := rfl
@[simp] theorem State.answerRead_verifyQueue (s : State) (b : List Byte) : (s.answerRead b).verifyQueue = s.verifyQueue := rfl
@[simp] theorem State.answerRead_engine (s : State) (b : List Byte) : (s.answerRead b).engine = s.engine := rfl
@[simp] theorem State.answerRead_offered (s : State) (b : List Byte) : (s.answerRead b).offered = s.offered := rfl
@[simp] theorem State.answerRead_drainMap (s : State) (b : List Byte) : (s.answerRead b).drainMap = s.drainMap := rfl
@[simp] theorem State.answerRead_tagCounter (s : State) (b : List Byte) : (s.answerRead b).tagCounter = s.tagCounter := rfl
@[simp] theorem State.answerRead_arbiter (s : State) (b : List Byte) : (s.answerRead b).arbiter = s.arbiter := rfl
@[simp] theorem State.answerRead_signal (s : State) (b : List Byte) : (s.answerRead b).signal = s.signal := rfl
@[simp] theorem State.answerRead_disturbances (s : State) (b : List Byte) : (s.answerRead b).disturbances = s.disturbances := rfl
@[simp] theorem State.answerRead_freeCount (s : State) (b : List Byte) : (s.answerRead b).freeCount = s.freeCount := rfl
@[simp] theorem State.answerRead_pending (s : State) (b : List Byte) : (s.answerRead b).pending = s.pending := rfl

/-! ## modifyCtx -/

@[simp] theorem State.modifyCtx_device (s : State) (i : StreamIndex) (f : Context → Context) : (s.modifyCtx i f).device = s.device := by unfold State.modifyCtx; split <;> rfl
@[simp] theorem State.modifyCtx_time (s : State) (i : StreamIndex) (f : Context → Context) : (s.modifyCtx i f).time = s.time := by unfold State.modifyCtx; split <;> rfl
@[simp] theorem State.modifyCtx_settings (s : State) (i : StreamIndex) (f : Context → Context) : (s.modifyCtx i f).settings = s.settings := by unfold State.modifyCtx; split <;> rfl
@[simp] theorem State.modifyCtx_errors (s : State) (i : StreamIndex) (f : Context → Context) : (s.modifyCtx i f).errors = s.errors := by unfold State.modifyCtx; split <;> rfl
@[simp] theorem State.modifyCtx_commands (s : State) (i : StreamIndex) (f : Context → Context) : (s.modifyCtx i f).commands = s.commands := by unfold State.modifyCtx; split <;> rfl
@[simp] theorem State.modifyCtx_responses (s : State) (i : StreamIndex) (f : Context → Context) : (s.modifyCtx i f).responses = s.responses := by unfold State.modifyCtx; split <;> rfl
@[simp] theorem State.modifyCtx_events (s : State) (i : StreamIndex) (f : Context → Context) : (s.modifyCtx i f).events = s.events := by unfold State.modifyCtx; split <;> rfl
@[simp] theorem State.modifyCtx_live (s : State) (i : StreamIndex) (f : Context → Context) : (s.modifyCtx i f).live = s.live := by unfold State.modifyCtx; split <;> rfl
@[simp] theorem State.modifyCtx_snapshot (s : State) (i : StreamIndex) (f : Context → Context) : (s.modifyCtx i f).snapshot = s.snapshot := by unfold State.modifyCtx; split <;> rfl
@[simp] theorem State.modifyCtx_snapshotElapsed (s : State) (i : StreamIndex) (f : Context → Context) : (s.modifyCtx i f).snapshotElapsed = s.snapshotElapsed := by unfold State.modifyCtx; split <;> rfl
@[simp] theorem State.modifyCtx_intervalNumber (s : State) (i : StreamIndex) (f : Context → Context) : (s.modifyCtx i f).intervalNumber = s.intervalNumber := by unfold State.modifyCtx; split <;> rfl
@[simp] theorem State.modifyCtx_intervalStart (s : State) (i : StreamIndex) (f : Context → Context) : (s.modifyCtx i f).intervalStart = s.intervalStart := by unfold State.modifyCtx; split <;> rfl
@[simp] theorem State.modifyCtx_lanes (s : State) (i : StreamIndex) (f : Context → Context) : (s.modifyCtx i f).lanes = s.lanes := by unfold State.modifyCtx; split <;> rfl
@[simp] theorem State.modifyCtx_scrubPosition (s : State) (i : StreamIndex) (f : Context → Context) : (s.modifyCtx i f).scrubPosition = s.scrubPosition := by unfold State.modifyCtx; split <;> rfl
@[simp] theorem State.modifyCtx_pool (s : State) (i : StreamIndex) (f : Context → Context) : (s.modifyCtx i f).pool = s.pool := by unfold State.modifyCtx; split <;> rfl
@[simp] theorem State.modifyCtx_buffer (s : State) (i : StreamIndex) (f : Context → Context) : (s.modifyCtx i f).buffer = s.buffer := by unfold State.modifyCtx; split <;> rfl
@[simp] theorem State.modifyCtx_words (s : State) (i : StreamIndex) (f : Context → Context) : (s.modifyCtx i f).words = s.words := by unfold State.modifyCtx; split <;> rfl
@[simp] theorem State.modifyCtx_verifyQueue (s : State) (i : StreamIndex) (f : Context → Context) : (s.modifyCtx i f).verifyQueue = s.verifyQueue := by unfold State.modifyCtx; split <;> rfl
@[simp] theorem State.modifyCtx_engine (s : State) (i : StreamIndex) (f : Context → Context) : (s.modifyCtx i f).engine = s.engine := by unfold State.modifyCtx; split <;> rfl
@[simp] theorem State.modifyCtx_offered (s : State) (i : StreamIndex) (f : Context → Context) : (s.modifyCtx i f).offered = s.offered := by unfold State.modifyCtx; split <;> rfl
@[simp] theorem State.modifyCtx_drainMap (s : State) (i : StreamIndex) (f : Context → Context) : (s.modifyCtx i f).drainMap = s.drainMap := by unfold State.modifyCtx; split <;> rfl
@[simp] theorem State.modifyCtx_tagCounter (s : State) (i : StreamIndex) (f : Context → Context) : (s.modifyCtx i f).tagCounter = s.tagCounter := by unfold State.modifyCtx; split <;> rfl
@[simp] theorem State.modifyCtx_arbiter (s : State) (i : StreamIndex) (f : Context → Context) : (s.modifyCtx i f).arbiter = s.arbiter := by unfold State.modifyCtx; split <;> rfl
@[simp] theorem State.modifyCtx_signal (s : State) (i : StreamIndex) (f : Context → Context) : (s.modifyCtx i f).signal = s.signal := by unfold State.modifyCtx; split <;> rfl
@[simp] theorem State.modifyCtx_ports (s : State) (i : StreamIndex) (f : Context → Context) : (s.modifyCtx i f).ports = s.ports := by unfold State.modifyCtx; split <;> rfl
@[simp] theorem State.modifyCtx_disturbances (s : State) (i : StreamIndex) (f : Context → Context) : (s.modifyCtx i f).disturbances = s.disturbances := by unfold State.modifyCtx; split <;> rfl
@[simp] theorem State.modifyCtx_freeCount (s : State) (i : StreamIndex) (f : Context → Context) : (s.modifyCtx i f).freeCount = s.freeCount := by unfold State.modifyCtx; split <;> rfl
@[simp] theorem State.modifyCtx_pending (s : State) (i : StreamIndex) (f : Context → Context) : (s.modifyCtx i f).pending = s.pending := by unfold State.modifyCtx; split <;> rfl

/-! ## raise -/

@[simp] theorem State.raise_device (s : State) (e : Event) : (s.raise e).device = s.device := by unfold State.raise; split_ifs <;> rfl
@[simp] theorem State.raise_time (s : State) (e : Event) : (s.raise e).time = s.time := by unfold State.raise; split_ifs <;> rfl
@[simp] theorem State.raise_settings (s : State) (e : Event) : (s.raise e).settings = s.settings := by unfold State.raise; split_ifs <;> rfl
@[simp] theorem State.raise_commands (s : State) (e : Event) : (s.raise e).commands = s.commands := by unfold State.raise; split_ifs <;> rfl
@[simp] theorem State.raise_responses (s : State) (e : Event) : (s.raise e).responses = s.responses := by unfold State.raise; split_ifs <;> rfl
@[simp] theorem State.raise_snapshot (s : State) (e : Event) : (s.raise e).snapshot = s.snapshot := by unfold State.raise; split_ifs <;> rfl
@[simp] theorem State.raise_snapshotElapsed (s : State) (e : Event) : (s.raise e).snapshotElapsed = s.snapshotElapsed := by unfold State.raise; split_ifs <;> rfl
@[simp] theorem State.raise_intervalNumber (s : State) (e : Event) : (s.raise e).intervalNumber = s.intervalNumber := by unfold State.raise; split_ifs <;> rfl
@[simp] theorem State.raise_intervalStart (s : State) (e : Event) : (s.raise e).intervalStart = s.intervalStart := by unfold State.raise; split_ifs <;> rfl
@[simp] theorem State.raise_lanes (s : State) (e : Event) : (s.raise e).lanes = s.lanes := by unfold State.raise; split_ifs <;> rfl
@[simp] theorem State.raise_table (s : State) (e : Event) : (s.raise e).table = s.table := by unfold State.raise; split_ifs <;> rfl
@[simp] theorem State.raise_scrubPosition (s : State) (e : Event) : (s.raise e).scrubPosition = s.scrubPosition := by unfold State.raise; split_ifs <;> rfl
@[simp] theorem State.raise_pool (s : State) (e : Event) : (s.raise e).pool = s.pool := by unfold State.raise; split_ifs <;> rfl
@[simp] theorem State.raise_buffer (s : State) (e : Event) : (s.raise e).buffer = s.buffer := by unfold State.raise; split_ifs <;> rfl
@[simp] theorem State.raise_words (s : State) (e : Event) : (s.raise e).words = s.words := by unfold State.raise; split_ifs <;> rfl
@[simp] theorem State.raise_verifyQueue (s : State) (e : Event) : (s.raise e).verifyQueue = s.verifyQueue := by unfold State.raise; split_ifs <;> rfl
@[simp] theorem State.raise_engine (s : State) (e : Event) : (s.raise e).engine = s.engine := by unfold State.raise; split_ifs <;> rfl
@[simp] theorem State.raise_offered (s : State) (e : Event) : (s.raise e).offered = s.offered := by unfold State.raise; split_ifs <;> rfl
@[simp] theorem State.raise_drainMap (s : State) (e : Event) : (s.raise e).drainMap = s.drainMap := by unfold State.raise; split_ifs <;> rfl
@[simp] theorem State.raise_tagCounter (s : State) (e : Event) : (s.raise e).tagCounter = s.tagCounter := by unfold State.raise; split_ifs <;> rfl
@[simp] theorem State.raise_arbiter (s : State) (e : Event) : (s.raise e).arbiter = s.arbiter := by unfold State.raise; split_ifs <;> rfl
@[simp] theorem State.raise_signal (s : State) (e : Event) : (s.raise e).signal = s.signal := by unfold State.raise; split_ifs <;> rfl
@[simp] theorem State.raise_ports (s : State) (e : Event) : (s.raise e).ports = s.ports := by unfold State.raise; split_ifs <;> rfl
@[simp] theorem State.raise_disturbances (s : State) (e : Event) : (s.raise e).disturbances = s.disturbances := by unfold State.raise; split_ifs <;> rfl
@[simp] theorem State.raise_freeCount (s : State) (e : Event) : (s.raise e).freeCount = s.freeCount := by unfold State.raise; split_ifs <;> rfl
@[simp] theorem State.raise_pending (s : State) (e : Event) : (s.raise e).pending = s.pending := by unfold State.raise; split_ifs <;> rfl

/-! ## writeByte -/

@[simp] theorem State.writeByte_device (s : State) (slot : Slot) (y : Nat) (b : Byte) : (s.writeByte slot y b).device = s.device := by unfold State.writeByte; split <;> rfl
@[simp] theorem State.writeByte_time (s : State) (slot : Slot) (y : Nat) (b : Byte) : (s.writeByte slot y b).time = s.time := by unfold State.writeByte; split <;> rfl
@[simp] theorem State.writeByte_settings (s : State) (slot : Slot) (y : Nat) (b : Byte) : (s.writeByte slot y b).settings = s.settings := by unfold State.writeByte; split <;> rfl
@[simp] theorem State.writeByte_errors (s : State) (slot : Slot) (y : Nat) (b : Byte) : (s.writeByte slot y b).errors = s.errors := by unfold State.writeByte; split <;> rfl
@[simp] theorem State.writeByte_commands (s : State) (slot : Slot) (y : Nat) (b : Byte) : (s.writeByte slot y b).commands = s.commands := by unfold State.writeByte; split <;> rfl
@[simp] theorem State.writeByte_responses (s : State) (slot : Slot) (y : Nat) (b : Byte) : (s.writeByte slot y b).responses = s.responses := by unfold State.writeByte; split <;> rfl
@[simp] theorem State.writeByte_events (s : State) (slot : Slot) (y : Nat) (b : Byte) : (s.writeByte slot y b).events = s.events := by unfold State.writeByte; split <;> rfl
@[simp] theorem State.writeByte_live (s : State) (slot : Slot) (y : Nat) (b : Byte) : (s.writeByte slot y b).live = s.live := by unfold State.writeByte; split <;> rfl
@[simp] theorem State.writeByte_snapshot (s : State) (slot : Slot) (y : Nat) (b : Byte) : (s.writeByte slot y b).snapshot = s.snapshot := by unfold State.writeByte; split <;> rfl
@[simp] theorem State.writeByte_snapshotElapsed (s : State) (slot : Slot) (y : Nat) (b : Byte) : (s.writeByte slot y b).snapshotElapsed = s.snapshotElapsed := by unfold State.writeByte; split <;> rfl
@[simp] theorem State.writeByte_intervalNumber (s : State) (slot : Slot) (y : Nat) (b : Byte) : (s.writeByte slot y b).intervalNumber = s.intervalNumber := by unfold State.writeByte; split <;> rfl
@[simp] theorem State.writeByte_intervalStart (s : State) (slot : Slot) (y : Nat) (b : Byte) : (s.writeByte slot y b).intervalStart = s.intervalStart := by unfold State.writeByte; split <;> rfl
@[simp] theorem State.writeByte_lanes (s : State) (slot : Slot) (y : Nat) (b : Byte) : (s.writeByte slot y b).lanes = s.lanes := by unfold State.writeByte; split <;> rfl
@[simp] theorem State.writeByte_table (s : State) (slot : Slot) (y : Nat) (b : Byte) : (s.writeByte slot y b).table = s.table := by unfold State.writeByte; split <;> rfl
@[simp] theorem State.writeByte_scrubPosition (s : State) (slot : Slot) (y : Nat) (b : Byte) : (s.writeByte slot y b).scrubPosition = s.scrubPosition := by unfold State.writeByte; split <;> rfl
@[simp] theorem State.writeByte_pool (s : State) (slot : Slot) (y : Nat) (b : Byte) : (s.writeByte slot y b).pool = s.pool := by unfold State.writeByte; split <;> rfl
@[simp] theorem State.writeByte_words (s : State) (slot : Slot) (y : Nat) (b : Byte) : (s.writeByte slot y b).words = s.words := by unfold State.writeByte; split <;> rfl
@[simp] theorem State.writeByte_verifyQueue (s : State) (slot : Slot) (y : Nat) (b : Byte) : (s.writeByte slot y b).verifyQueue = s.verifyQueue := by unfold State.writeByte; split <;> rfl
@[simp] theorem State.writeByte_engine (s : State) (slot : Slot) (y : Nat) (b : Byte) : (s.writeByte slot y b).engine = s.engine := by unfold State.writeByte; split <;> rfl
@[simp] theorem State.writeByte_offered (s : State) (slot : Slot) (y : Nat) (b : Byte) : (s.writeByte slot y b).offered = s.offered := by unfold State.writeByte; split <;> rfl
@[simp] theorem State.writeByte_drainMap (s : State) (slot : Slot) (y : Nat) (b : Byte) : (s.writeByte slot y b).drainMap = s.drainMap := by unfold State.writeByte; split <;> rfl
@[simp] theorem State.writeByte_tagCounter (s : State) (slot : Slot) (y : Nat) (b : Byte) : (s.writeByte slot y b).tagCounter = s.tagCounter := by unfold State.writeByte; split <;> rfl
@[simp] theorem State.writeByte_arbiter (s : State) (slot : Slot) (y : Nat) (b : Byte) : (s.writeByte slot y b).arbiter = s.arbiter := by unfold State.writeByte; split <;> rfl
@[simp] theorem State.writeByte_signal (s : State) (slot : Slot) (y : Nat) (b : Byte) : (s.writeByte slot y b).signal = s.signal := by unfold State.writeByte; split <;> rfl
@[simp] theorem State.writeByte_ports (s : State) (slot : Slot) (y : Nat) (b : Byte) : (s.writeByte slot y b).ports = s.ports := by unfold State.writeByte; split <;> rfl
@[simp] theorem State.writeByte_disturbances (s : State) (slot : Slot) (y : Nat) (b : Byte) : (s.writeByte slot y b).disturbances = s.disturbances := by unfold State.writeByte; split <;> rfl
@[simp] theorem State.writeByte_freeCount (s : State) (slot : Slot) (y : Nat) (b : Byte) : (s.writeByte slot y b).freeCount = s.freeCount := by unfold State.writeByte; split <;> rfl
@[simp] theorem State.writeByte_pending (s : State) (slot : Slot) (y : Nat) (b : Byte) : (s.writeByte slot y b).pending = s.pending := by unfold State.writeByte; split <;> rfl

/-! ## poolTest -/

@[simp] theorem State.poolTest_device (s : State) : (s.poolTest).device = s.device := by unfold State.poolTest; dsimp only; split <;> simp
@[simp] theorem State.poolTest_time (s : State) : (s.poolTest).time = s.time := by unfold State.poolTest; dsimp only; split <;> simp
@[simp] theorem State.poolTest_settings (s : State) : (s.poolTest).settings = s.settings := by unfold State.poolTest; dsimp only; split <;> simp
@[simp] theorem State.poolTest_commands (s : State) : (s.poolTest).commands = s.commands := by unfold State.poolTest; dsimp only; split <;> simp
@[simp] theorem State.poolTest_responses (s : State) : (s.poolTest).responses = s.responses := by unfold State.poolTest; dsimp only; split <;> simp
@[simp] theorem State.poolTest_snapshot (s : State) : (s.poolTest).snapshot = s.snapshot := by unfold State.poolTest; dsimp only; split <;> simp
@[simp] theorem State.poolTest_snapshotElapsed (s : State) : (s.poolTest).snapshotElapsed = s.snapshotElapsed := by unfold State.poolTest; dsimp only; split <;> simp
@[simp] theorem State.poolTest_intervalNumber (s : State) : (s.poolTest).intervalNumber = s.intervalNumber := by unfold State.poolTest; dsimp only; split <;> simp
@[simp] theorem State.poolTest_intervalStart (s : State) : (s.poolTest).intervalStart = s.intervalStart := by unfold State.poolTest; dsimp only; split <;> simp
@[simp] theorem State.poolTest_table (s : State) : (s.poolTest).table = s.table := by unfold State.poolTest; dsimp only; split <;> simp
@[simp] theorem State.poolTest_scrubPosition (s : State) : (s.poolTest).scrubPosition = s.scrubPosition := by unfold State.poolTest; dsimp only; split <;> simp
@[simp] theorem State.poolTest_buffer (s : State) : (s.poolTest).buffer = s.buffer := by unfold State.poolTest; dsimp only; split <;> simp
@[simp] theorem State.poolTest_words (s : State) : (s.poolTest).words = s.words := by unfold State.poolTest; dsimp only; split <;> simp
@[simp] theorem State.poolTest_verifyQueue (s : State) : (s.poolTest).verifyQueue = s.verifyQueue := by unfold State.poolTest; dsimp only; split <;> simp
@[simp] theorem State.poolTest_engine (s : State) : (s.poolTest).engine = s.engine := by unfold State.poolTest; dsimp only; split <;> simp
@[simp] theorem State.poolTest_offered (s : State) : (s.poolTest).offered = s.offered := by unfold State.poolTest; dsimp only; split <;> simp
@[simp] theorem State.poolTest_drainMap (s : State) : (s.poolTest).drainMap = s.drainMap := by unfold State.poolTest; dsimp only; split <;> simp
@[simp] theorem State.poolTest_tagCounter (s : State) : (s.poolTest).tagCounter = s.tagCounter := by unfold State.poolTest; dsimp only; split <;> simp
@[simp] theorem State.poolTest_arbiter (s : State) : (s.poolTest).arbiter = s.arbiter := by unfold State.poolTest; dsimp only; split <;> simp
@[simp] theorem State.poolTest_signal (s : State) : (s.poolTest).signal = s.signal := by unfold State.poolTest; dsimp only; split <;> simp
@[simp] theorem State.poolTest_ports (s : State) : (s.poolTest).ports = s.ports := by unfold State.poolTest; dsimp only; split <;> simp
@[simp] theorem State.poolTest_disturbances (s : State) : (s.poolTest).disturbances = s.disturbances := by unfold State.poolTest; dsimp only; split <;> simp
@[simp] theorem State.poolTest_freeCount (s : State) : (s.poolTest).freeCount = s.freeCount := by unfold State.poolTest; dsimp only; split <;> simp
@[simp] theorem State.poolTest_pending (s : State) : (s.poolTest).pending = s.pending := by unfold State.poolTest; dsimp only; split <;> simp

/-! ## giveUp -/

@[simp] theorem State.giveUp_device (s : State) (slot : Slot) (force : Bool) : (s.giveUp slot force).device = s.device := by unfold State.giveUp; split <;> rfl
@[simp] theorem State.giveUp_time (s : State) (slot : Slot) (force : Bool) : (s.giveUp slot force).time = s.time := by unfold State.giveUp; split <;> rfl
@[simp] theorem State.giveUp_settings (s : State) (slot : Slot) (force : Bool) : (s.giveUp slot force).settings = s.settings := by unfold State.giveUp; split <;> rfl
@[simp] theorem State.giveUp_errors (s : State) (slot : Slot) (force : Bool) : (s.giveUp slot force).errors = s.errors := by unfold State.giveUp; split <;> rfl
@[simp] theorem State.giveUp_commands (s : State) (slot : Slot) (force : Bool) : (s.giveUp slot force).commands = s.commands := by unfold State.giveUp; split <;> rfl
@[simp] theorem State.giveUp_responses (s : State) (slot : Slot) (force : Bool) : (s.giveUp slot force).responses = s.responses := by unfold State.giveUp; split <;> rfl
@[simp] theorem State.giveUp_events (s : State) (slot : Slot) (force : Bool) : (s.giveUp slot force).events = s.events := by unfold State.giveUp; split <;> rfl
@[simp] theorem State.giveUp_snapshot (s : State) (slot : Slot) (force : Bool) : (s.giveUp slot force).snapshot = s.snapshot := by unfold State.giveUp; split <;> rfl
@[simp] theorem State.giveUp_snapshotElapsed (s : State) (slot : Slot) (force : Bool) : (s.giveUp slot force).snapshotElapsed = s.snapshotElapsed := by unfold State.giveUp; split <;> rfl
@[simp] theorem State.giveUp_intervalNumber (s : State) (slot : Slot) (force : Bool) : (s.giveUp slot force).intervalNumber = s.intervalNumber := by unfold State.giveUp; split <;> rfl
@[simp] theorem State.giveUp_intervalStart (s : State) (slot : Slot) (force : Bool) : (s.giveUp slot force).intervalStart = s.intervalStart := by unfold State.giveUp; split <;> rfl
@[simp] theorem State.giveUp_lanes (s : State) (slot : Slot) (force : Bool) : (s.giveUp slot force).lanes = s.lanes := by unfold State.giveUp; split <;> rfl
@[simp] theorem State.giveUp_table (s : State) (slot : Slot) (force : Bool) : (s.giveUp slot force).table = s.table := by unfold State.giveUp; split <;> rfl
@[simp] theorem State.giveUp_scrubPosition (s : State) (slot : Slot) (force : Bool) : (s.giveUp slot force).scrubPosition = s.scrubPosition := by unfold State.giveUp; split <;> rfl
@[simp] theorem State.giveUp_buffer (s : State) (slot : Slot) (force : Bool) : (s.giveUp slot force).buffer = s.buffer := by unfold State.giveUp; split <;> rfl
@[simp] theorem State.giveUp_words (s : State) (slot : Slot) (force : Bool) : (s.giveUp slot force).words = s.words := by unfold State.giveUp; split <;> rfl
@[simp] theorem State.giveUp_verifyQueue (s : State) (slot : Slot) (force : Bool) : (s.giveUp slot force).verifyQueue = s.verifyQueue := by unfold State.giveUp; split <;> rfl
@[simp] theorem State.giveUp_engine (s : State) (slot : Slot) (force : Bool) : (s.giveUp slot force).engine = s.engine := by unfold State.giveUp; split <;> rfl
@[simp] theorem State.giveUp_offered (s : State) (slot : Slot) (force : Bool) : (s.giveUp slot force).offered = s.offered := by unfold State.giveUp; split <;> rfl
@[simp] theorem State.giveUp_drainMap (s : State) (slot : Slot) (force : Bool) : (s.giveUp slot force).drainMap = s.drainMap := by unfold State.giveUp; split <;> rfl
@[simp] theorem State.giveUp_tagCounter (s : State) (slot : Slot) (force : Bool) : (s.giveUp slot force).tagCounter = s.tagCounter := by unfold State.giveUp; split <;> rfl
@[simp] theorem State.giveUp_arbiter (s : State) (slot : Slot) (force : Bool) : (s.giveUp slot force).arbiter = s.arbiter := by unfold State.giveUp; split <;> rfl
@[simp] theorem State.giveUp_signal (s : State) (slot : Slot) (force : Bool) : (s.giveUp slot force).signal = s.signal := by unfold State.giveUp; split <;> rfl
@[simp] theorem State.giveUp_ports (s : State) (slot : Slot) (force : Bool) : (s.giveUp slot force).ports = s.ports := by unfold State.giveUp; split <;> rfl
@[simp] theorem State.giveUp_disturbances (s : State) (slot : Slot) (force : Bool) : (s.giveUp slot force).disturbances = s.disturbances := by unfold State.giveUp; split <;> rfl
@[simp] theorem State.giveUp_freeCount (s : State) (slot : Slot) (force : Bool) : (s.giveUp slot force).freeCount = s.freeCount := by unfold State.giveUp; split <;> rfl
@[simp] theorem State.giveUp_pending (s : State) (slot : Slot) (force : Bool) : (s.giveUp slot force).pending = s.pending := by unfold State.giveUp; split <;> rfl

/-! ## giveUpAt -/

@[simp] theorem State.giveUpAt_device (s : State) (i : StreamIndex) (pos : Nat) (force : Bool) : (s.giveUpAt i pos force).device = s.device := by unfold State.giveUpAt; split <;> simp
@[simp] theorem State.giveUpAt_time (s : State) (i : StreamIndex) (pos : Nat) (force : Bool) : (s.giveUpAt i pos force).time = s.time := by unfold State.giveUpAt; split <;> simp
@[simp] theorem State.giveUpAt_settings (s : State) (i : StreamIndex) (pos : Nat) (force : Bool) : (s.giveUpAt i pos force).settings = s.settings := by unfold State.giveUpAt; split <;> simp
@[simp] theorem State.giveUpAt_errors (s : State) (i : StreamIndex) (pos : Nat) (force : Bool) : (s.giveUpAt i pos force).errors = s.errors := by unfold State.giveUpAt; split <;> simp
@[simp] theorem State.giveUpAt_commands (s : State) (i : StreamIndex) (pos : Nat) (force : Bool) : (s.giveUpAt i pos force).commands = s.commands := by unfold State.giveUpAt; split <;> simp
@[simp] theorem State.giveUpAt_responses (s : State) (i : StreamIndex) (pos : Nat) (force : Bool) : (s.giveUpAt i pos force).responses = s.responses := by unfold State.giveUpAt; split <;> simp
@[simp] theorem State.giveUpAt_events (s : State) (i : StreamIndex) (pos : Nat) (force : Bool) : (s.giveUpAt i pos force).events = s.events := by unfold State.giveUpAt; split <;> simp
@[simp] theorem State.giveUpAt_snapshot (s : State) (i : StreamIndex) (pos : Nat) (force : Bool) : (s.giveUpAt i pos force).snapshot = s.snapshot := by unfold State.giveUpAt; split <;> simp
@[simp] theorem State.giveUpAt_snapshotElapsed (s : State) (i : StreamIndex) (pos : Nat) (force : Bool) : (s.giveUpAt i pos force).snapshotElapsed = s.snapshotElapsed := by unfold State.giveUpAt; split <;> simp
@[simp] theorem State.giveUpAt_intervalNumber (s : State) (i : StreamIndex) (pos : Nat) (force : Bool) : (s.giveUpAt i pos force).intervalNumber = s.intervalNumber := by unfold State.giveUpAt; split <;> simp
@[simp] theorem State.giveUpAt_intervalStart (s : State) (i : StreamIndex) (pos : Nat) (force : Bool) : (s.giveUpAt i pos force).intervalStart = s.intervalStart := by unfold State.giveUpAt; split <;> simp
@[simp] theorem State.giveUpAt_lanes (s : State) (i : StreamIndex) (pos : Nat) (force : Bool) : (s.giveUpAt i pos force).lanes = s.lanes := by unfold State.giveUpAt; split <;> simp
@[simp] theorem State.giveUpAt_table (s : State) (i : StreamIndex) (pos : Nat) (force : Bool) : (s.giveUpAt i pos force).table = s.table := by unfold State.giveUpAt; split <;> simp
@[simp] theorem State.giveUpAt_scrubPosition (s : State) (i : StreamIndex) (pos : Nat) (force : Bool) : (s.giveUpAt i pos force).scrubPosition = s.scrubPosition := by unfold State.giveUpAt; split <;> simp
@[simp] theorem State.giveUpAt_buffer (s : State) (i : StreamIndex) (pos : Nat) (force : Bool) : (s.giveUpAt i pos force).buffer = s.buffer := by unfold State.giveUpAt; split <;> simp
@[simp] theorem State.giveUpAt_words (s : State) (i : StreamIndex) (pos : Nat) (force : Bool) : (s.giveUpAt i pos force).words = s.words := by unfold State.giveUpAt; split <;> simp
@[simp] theorem State.giveUpAt_verifyQueue (s : State) (i : StreamIndex) (pos : Nat) (force : Bool) : (s.giveUpAt i pos force).verifyQueue = s.verifyQueue := by unfold State.giveUpAt; split <;> simp
@[simp] theorem State.giveUpAt_engine (s : State) (i : StreamIndex) (pos : Nat) (force : Bool) : (s.giveUpAt i pos force).engine = s.engine := by unfold State.giveUpAt; split <;> simp
@[simp] theorem State.giveUpAt_offered (s : State) (i : StreamIndex) (pos : Nat) (force : Bool) : (s.giveUpAt i pos force).offered = s.offered := by unfold State.giveUpAt; split <;> simp
@[simp] theorem State.giveUpAt_drainMap (s : State) (i : StreamIndex) (pos : Nat) (force : Bool) : (s.giveUpAt i pos force).drainMap = s.drainMap := by unfold State.giveUpAt; split <;> simp
@[simp] theorem State.giveUpAt_tagCounter (s : State) (i : StreamIndex) (pos : Nat) (force : Bool) : (s.giveUpAt i pos force).tagCounter = s.tagCounter := by unfold State.giveUpAt; split <;> simp
@[simp] theorem State.giveUpAt_arbiter (s : State) (i : StreamIndex) (pos : Nat) (force : Bool) : (s.giveUpAt i pos force).arbiter = s.arbiter := by unfold State.giveUpAt; split <;> simp
@[simp] theorem State.giveUpAt_signal (s : State) (i : StreamIndex) (pos : Nat) (force : Bool) : (s.giveUpAt i pos force).signal = s.signal := by unfold State.giveUpAt; split <;> simp
@[simp] theorem State.giveUpAt_ports (s : State) (i : StreamIndex) (pos : Nat) (force : Bool) : (s.giveUpAt i pos force).ports = s.ports := by unfold State.giveUpAt; split <;> simp
@[simp] theorem State.giveUpAt_disturbances (s : State) (i : StreamIndex) (pos : Nat) (force : Bool) : (s.giveUpAt i pos force).disturbances = s.disturbances := by unfold State.giveUpAt; split <;> simp
@[simp] theorem State.giveUpAt_freeCount (s : State) (i : StreamIndex) (pos : Nat) (force : Bool) : (s.giveUpAt i pos force).freeCount = s.freeCount := by unfold State.giveUpAt; split <;> simp
@[simp] theorem State.giveUpAt_pending (s : State) (i : StreamIndex) (pos : Nat) (force : Bool) : (s.giveUpAt i pos force).pending = s.pending := by unfold State.giveUpAt; split <;> simp

/-! ## The fields they change -/

@[simp] theorem State.setEntry_table (s : State) (i : StreamIndex) (e : Entry) :
    (s.setEntry i e).table = cellPut Entry.free s.table i e := rfl
@[simp] theorem State.setLane_lanes (s : State) (l : LaneId) (v : Lane) : (s.setLane l v).lanes = s.lanes.set l v := rfl
@[simp] theorem State.count_live (s : State) (k : Counter) (n : Nat) :
    (s.count k n).live = s.live.set k.place ((s.live[k.place]).add n) := rfl
@[simp] theorem State.respond_responses (s : State) (r : List Byte) (st : Status) (d : List Byte) :
    (s.respond r st d).responses = s.responses ++ [⟨commandCode r, st, commandId r, d⟩] := rfl
@[simp] theorem State.raiseReserve_pool (s : State) (n : Nat) :
    (s.raiseReserve n).pool = { s.pool with reserve := s.pool.reserve + n } := rfl
@[simp] theorem State.lowerReserve_pool (s : State) :
    s.lowerReserve.pool = { s.pool with reserve := s.pool.reserve - 1 } := rfl
@[simp] theorem State.retireSlot_pool (s : State) (slot : Slot) : (s.retireSlot slot).pool = s.pool.retire slot := rfl

end Sys2Proof.Machine
end

