-- ==== Sys2Proof/Laws/Cells.lean ====
section
/-! SUPPORT. Sparse data: what a key reads as after a write, the canonical form kept, and equal readings are equal data;
then the same for entries, lanes, counters and buffer bytes. -/

namespace Sys2Proof.Machine

section
variable {κ α : Type} [LinearOrder κ] {d : α}

@[simp] theorem cellGet_nil (k : κ) : cellGet d [] k = d := rfl

theorem cellGet_of_lt {m : List (κ × α)} {k : κ} (h : ∀ c ∈ m, k < c.1) : cellGet d m k = d := by
  induction m with
  | nil => rfl
  | cons c rest ih =>
    have hc := h c (by simp)
    rw [cellGet, if_neg hc.ne]
    exact ih fun x hx => h x (by simp [hx])

variable [DecidableEq α]

theorem cellsWF_cons {c : κ × α} {m : List (κ × α)} :
    CellsWF d (c :: m) ↔ (∀ x ∈ m, c.1 < x.1) ∧ c.2 ≠ d ∧ CellsWF d m := by
  simp only [CellsWF, List.pairwise_cons, List.mem_cons, forall_eq_or_imp]
  tauto

/-- A read after a write to the same key gives the value written; every other key reads as before. -/
theorem cellGet_cellPut {m : List (κ × α)} (h : CellsWF d m) (k j : κ) (v : α) :
    cellGet d (cellPut d m k v) j = if j = k then v else cellGet d m j := by
  induction m with
  | nil =>
    unfold cellPut
    by_cases hv : v = d <;> by_cases hj : j = k <;> simp [cellGet, hv, hj]
  | cons c rest ih =>
    obtain ⟨hlt, hc, hr⟩ := cellsWF_cons.mp h
    unfold cellPut
    by_cases h1 : k < c.1
    · rw [if_pos h1]
      by_cases hv : v = d
      · rw [if_pos hv]
        by_cases hj : j = k
        · rw [if_pos hj, hv, hj]
          refine cellGet_of_lt fun x hx => ?_
          rcases List.mem_cons.mp hx with rfl | hx
          · exact h1
          · exact h1.trans (hlt x hx)
        · rw [if_neg hj]
      · rw [if_neg hv, cellGet]
    · rw [if_neg h1]
      by_cases h2 : k = c.1
      · rw [if_pos h2]
        by_cases hv : v = d
        · rw [if_pos hv]
          by_cases hj : j = k
          · rw [if_pos hj, hv, hj, h2]
            exact cellGet_of_lt hlt
          · rw [if_neg hj, cellGet, if_neg (h2 ▸ hj)]
        · rw [if_neg hv, cellGet, cellGet]
          by_cases hj : j = k
          · rw [if_pos hj, if_pos hj]
          · rw [if_neg hj, if_neg hj, if_neg (h2 ▸ hj)]
      · rw [if_neg h2, cellGet, cellGet, ih hr]
        by_cases hj : j = c.1
        · rw [if_pos hj, if_neg (fun e : j = k => h2 (e ▸ hj)), if_pos hj]
        · rw [if_neg hj, if_neg hj]

theorem mem_cellPut {m : List (κ × α)} {k : κ} {v : α} {x : κ × α} (h : x ∈ cellPut d m k v) : x = (k, v) ∨ x ∈ m := by
  induction m with
  | nil => unfold cellPut at h; split_ifs at h <;> simp_all
  | cons c rest ih =>
    unfold cellPut at h
    split_ifs at h <;> simp only [List.mem_cons] at h ⊢ <;> grind

/-- A write keeps the canonical form. -/
theorem cellPut_wf {m : List (κ × α)} (h : CellsWF d m) (k : κ) (v : α) : CellsWF d (cellPut d m k v) := by
  induction m with
  | nil => unfold cellPut; split_ifs with hv <;> simp [CellsWF, hv]
  | cons c rest ih =>
    obtain ⟨hlt, hc, hr⟩ := cellsWF_cons.mp h
    unfold cellPut
    split_ifs with h1 hv h2 hv2
    · exact h
    · refine cellsWF_cons.mpr ⟨fun x hx => ?_, hv, h⟩
      rcases List.mem_cons.mp hx with rfl | hx
      · exact h1
      · exact h1.trans (hlt x hx)
    · exact hr
    · exact cellsWF_cons.mpr ⟨fun x hx => h2 ▸ hlt x hx, hv2, hr⟩
    · refine cellsWF_cons.mpr ⟨fun x hx => ?_, hc, ih hr⟩
      rcases mem_cellPut hx with rfl | hx
      · exact lt_of_le_of_ne (not_lt.mp h1) fun e => h2 e.symm
      · exact hlt x hx

/-- A part of canonical data is canonical. -/
theorem cellsWF_filter {m : List (κ × α)} (h : CellsWF d m) (p : κ × α → Bool) : CellsWF d (m.filter p) :=
  ⟨h.1.sublist List.filter_sublist, fun c hc => h.2 c (List.mem_of_mem_filter hc)⟩

/-- A key reads as a value that is not the default exactly when the pair is listed. -/
theorem mem_iff_cellGet {m : List (κ × α)} (h : CellsWF d m) (k : κ) (v : α) (hv : v ≠ d) :
    (k, v) ∈ m ↔ cellGet d m k = v := by
  induction m with
  | nil => simp [cellGet, hv.symm]
  | cons c rest ih =>
    obtain ⟨hlt, hc, hr⟩ := cellsWF_cons.mp h
    by_cases hk : k = c.1
    · have : (k, v) ∉ rest := fun hm => absurd (hlt _ hm) (by simp [hk])
      simp only [List.mem_cons, this, or_false, cellGet, if_pos hk]
      exact ⟨fun e => by rw [← e], fun e => by ext1 <;> simp [hk, e]⟩
    · simp only [List.mem_cons, cellGet, if_neg hk, ← ih hr]
      exact ⟨fun e => e.resolve_left fun e => hk (by rw [← e]), Or.inr⟩

/-- What a part of canonical data reads as, when membership in the part is told by the key. -/
theorem cellGet_filter {m : List (κ × α)} (h : CellsWF d m) (p : κ → Bool) (k : κ) :
    cellGet d (m.filter fun c => p c.1) k = if p k then cellGet d m k else d := by
  induction m with
  | nil => simp
  | cons c rest ih =>
    obtain ⟨hlt, _, hr⟩ := cellsWF_cons.mp h
    rw [List.filter_cons]
    by_cases hk : k = c.1
    · subst hk
      split_ifs with hp
      · rw [cellGet, cellGet, if_pos rfl, if_pos rfl]
      · exact cellGet_of_lt fun x hx => hlt x (List.mem_of_mem_filter hx)
    · split_ifs with hp hq <;> simp_all [cellGet]

/-- Equal readings are equal data. -/
theorem cells_ext {m n : List (κ × α)} (hm : CellsWF d m) (hn : CellsWF d n)
    (h : ∀ k, cellGet d m k = cellGet d n k) : m = n := by
  have hd : ∀ l : List (κ × α), CellsWF d l → (l.map Prod.fst).Nodup := fun l hl =>
    List.Pairwise.map _ (fun a b hab => ne_of_lt hab) hl.1
  refine List.Perm.eq_of_pairwise (le := fun a b => a.1 < b.1) (fun a b _ _ h1 h2 => absurd h1 (lt_asymm h2)) hm.1 hn.1 ?_
  refine (List.perm_ext_iff_of_nodup (List.Nodup.of_map _ (hd m hm)) (List.Nodup.of_map _ (hd n hn))).mpr ?_
  rintro ⟨k, v⟩
  by_cases hv : v = d
  · exact ⟨fun hx => absurd hv (hm.2 _ hx), fun hx => absurd hv (hn.2 _ hx)⟩
  · rw [mem_iff_cellGet hm k v hv, mem_iff_cellGet hn k v hv, h k]

end

/-! ## Entries of the Stream Table -/

theorem State.entry_setEntry {s : State} (h : s.TableWF) (i j : StreamIndex) (e : Entry) :
    (s.setEntry i e).entry j = if j = i then e else s.entry j := cellGet_cellPut h i j e

theorem State.entry_setCtx {s : State} (h : s.TableWF) (i j : StreamIndex) (c : Context) :
    (s.setCtx i c).entry j = if j = i then ⟨true, some c⟩ else s.entry j := State.entry_setEntry h i j _

theorem State.setEntry_tableWF {s : State} (h : s.TableWF) (i : StreamIndex) (e : Entry) :
    (s.setEntry i e).TableWF := cellPut_wf h i e

theorem State.modifyCtx_tableWF {s : State} (h : s.TableWF) (i : StreamIndex) (f : Context → Context) :
    (s.modifyCtx i f).TableWF := by
  unfold State.modifyCtx
  split
  · exact State.setEntry_tableWF h _ _
  · exact h

/-- What an entry holds after its context was changed. -/
theorem State.ctx?_modifyCtx {s : State} (h : s.TableWF) (i j : StreamIndex) (f : Context → Context) :
    (s.modifyCtx i f).ctx? j = if j = i then (s.ctx? i).map f else s.ctx? j := by
  unfold State.modifyCtx
  split
  · rename_i c hc
    unfold State.ctx?
    rw [State.entry_setCtx h]
    split_ifs with hj
    · rw [show (s.entry i).ctx = some c from hc]; rfl
    · rfl
  · rename_i hc
    split_ifs with hj
    · rw [hj, hc]; rfl
    · rfl

/-! ## Lanes and counters -/

theorem State.lane_setLane (s : State) (l m : LaneId) (v : Lane) :
    (s.setLane l v).lane m = if m = l then v else s.lane m := by
  unfold State.lane State.setLane
  simp only [Fin.getElem_fin]
  rw [Vector.getElem_set]
  simp only [Fin.ext_iff, eq_comm]

theorem State.lane_modifyLane (s : State) (l m : LaneId) (f : Lane → Lane) :
    (s.modifyLane l f).lane m = if m = l then f (s.lane l) else s.lane m := State.lane_setLane s l m _

theorem DropReason.place_injective : Function.Injective DropReason.place := by
  intro a b h
  cases a <;> cases b <;> first | rfl | exact absurd h (by decide)

theorem Counter.place_injective : Function.Injective Counter.place := by
  intro a b h
  have hv := congrArg Fin.val h
  cases a <;> cases b <;>
    simp only [Counter.place] at hv <;>
    first
      | rfl
      | (congr 1; exact Fin.ext hv)
      | (congr 1; exact DropReason.place_injective (Fin.ext (by omega)))
      | (exfalso; revert hv; simp; omega)
      | (exfalso; revert hv; simp)

/-- An addition to one counter leaves every other as it was. -/
theorem State.counted_count (s : State) (k : Counter) (n : Nat) : Counted s (s.count k n) k n := by
  intro j
  unfold State.counter
  simp only [State.count_live, Fin.getElem_fin, Vector.getElem_set]
  by_cases hj : j = k
  · subst hj; simp
  · rw [if_neg hj, if_neg]
    exact fun e => hj (Counter.place_injective (Fin.ext e)).symm

/-! ## The chunk buffer -/

/-- A byte of the buffer after a write of a slot's byte. -/
theorem State.byteAt_writeByte {s : State} (h : Memory.wf s.buffer) (slot : Slot) (y a : Nat) (b : Byte)
    (hy : y < Config.chunkSize) :
    (s.writeByte slot y b).byteAt a = if a = bufferAddress slot y then b else s.byteAt a := by
  unfold State.writeByte State.byteAt
  rw [if_pos hy]
  exact cellGet_cellPut h.1 _ _ _

theorem bufferAddress_lt (slot : Slot) {y : Nat} (hy : y < Config.chunkSize) : bufferAddress slot y < bufferBytes := by
  have := slot.isLt
  unfold bufferAddress bufferBytes Config.chunkSize at *
  omega

/-- A write of one byte keeps the buffer's canonical form. -/
theorem State.writeByte_wf {s : State} (h : Memory.wf s.buffer) (slot : Slot) (y : Nat) (b : Byte) :
    Memory.wf (s.writeByte slot y b).buffer := by
  unfold State.writeByte
  split
  · rename_i hy
    refine ⟨cellPut_wf h.1 _ _, fun c hc => ?_⟩
    rcases mem_cellPut hc with rfl | hc
    · exact bufferAddress_lt slot hy
    · exact h.2 c hc
  · exact h

/-- Several writes keep it. -/
theorem State.writeBytes_wf (slot : Slot) (f : Nat → Byte) (ys : List Nat) :
    ∀ s : State, Memory.wf s.buffer → Memory.wf (ys.foldl (fun t y => t.writeByte slot y (f y)) s).buffer := by
  induction ys with
  | nil => exact fun _ h => h
  | cons y rest ih => exact fun s h => ih _ (State.writeByte_wf h slot y (f y))

theorem State.reportRead_buffer (s : State) (slot : Slot) (ws : List Nat) (i : StreamIndex) (k : Nat) :
    (s.reportRead slot ws i k).buffer = s.buffer := by
  unfold State.reportRead
  dsimp only
  split_ifs <;> simp

theorem State.setConditions_buffer (slot : Slot) (f : State → Nat → WordCondition) (ws : List Nat) :
    ∀ s : State, (ws.foldl (fun t w => t.setCondition slot w (f t w)) s).buffer = s.buffer := by
  induction ws with
  | nil => exact fun _ => rfl
  | cons w rest ih => exact fun s => ih _

/-- The write of a piece keeps the buffer's canonical form. -/
theorem State.writePiece_wf {s : State} (h : Memory.wf s.buffer) (slot : Slot) (piece : Range) (held : List Range)
    (bytes : List Byte) (i : StreamIndex) (k : Nat) : Memory.wf (s.writePiece slot piece held bytes i k).buffer := by
  unfold State.writePiece
  refine State.writeBytes_wf slot _ _ _ ?_
  rw [State.setConditions_buffer slot (fun t w => writtenCondition _ (t.condition slot w)), State.reportRead_buffer]
  exact h

/-- The buffer walk keeps it. -/
theorem State.walked_wf {s : State} (h : Memory.wf s.buffer) : Memory.wf s.walked.buffer :=
  ⟨cellsWF_filter h.1 _, fun c hc => h.2 c (List.mem_of_mem_filter hc)⟩

/-- An upset of a word keeps it. -/
theorem upsetBytes_wf {m : List Host.Cell} (h : Memory.wf m) (w : Fin 16777216) (bytes : Vector Byte 8) :
    Memory.wf (upsetBytes m w.val bytes) := by
  unfold upsetBytes
  generalize List.finRange 8 = l
  induction l generalizing m with
  | nil => exact h
  | cons j rest ih =>
    refine ih ⟨cellPut_wf h.1 _ _, fun c hc => ?_⟩
    rcases mem_cellPut hc with rfl | hc
    · have := w.isLt
      have := j.isLt
      simp only [Config.wordBytes, bufferBytes]
      omega
    · exact h.2 c hc

/-- The buffer at reset has the canonical form. -/
theorem reset_buffer_wf : Memory.wf State.reset.buffer := by
  exact ⟨⟨List.Pairwise.nil, by simp [State.reset]⟩, by simp [State.reset]⟩

end Sys2Proof.Machine
end

