-- ==== Sys2Proof/Laws/Streams.lean ====
section
/-! SUPPORT. What the operations that the rows share can do to the state: one lemma for each, all in one vocabulary. -/

namespace Sys2Proof.Machine

/-- What a shared operation on a stream may do: it may change the table, the pool, the counters and the error summary,
set device notice flags of ACTIVE lanes, append events within the queue's bound, and remove entries of the verify queue
and of the offered list. It changes nothing else. -/
structure StreamOp (s t : State) : Prop where
  rest : t = { s with table := t.table, pool := t.pool, lanes := t.lanes, events := t.events, live := t.live,
                      errors := t.errors, offered := t.offered, verifyQueue := t.verifyQueue }
  lanes : ∀ l, t.lane l = { s.lane l with flag := (t.lane l).flag } ∧
    ((s.lane l).state ≠ .active → (t.lane l).flag = (s.lane l).flag)
  events : s.events <+: t.events
  bound : s.events.length ≤ Config.eventDepth → t.events.length ≤ Config.eventDepth
  offered : t.offered.Sublist s.offered
  queue : t.verifyQueue.Sublist s.verifyQueue

theorem StreamOp.refl (s : State) : StreamOp s s :=
  ⟨rfl, fun _ => ⟨rfl, fun _ => rfl⟩, List.prefix_refl _, id, .refl _, .refl _⟩

theorem StreamOp.trans {s t u : State} (h : StreamOp s t) (g : StreamOp t u) : StreamOp s u where
  rest := by rw [g.rest, h.rest]
  lanes l := by
    refine ⟨by rw [(g.lanes l).1, (h.lanes l).1], fun hs => ?_⟩
    have ht : (t.lane l).state = (s.lane l).state := by rw [(h.lanes l).1]
    rw [(g.lanes l).2 (ht ▸ hs), (h.lanes l).2 hs]
  events := h.events.trans g.events
  bound b := g.bound (h.bound b)
  offered := g.offered.trans h.offered
  queue := g.queue.trans h.queue

/-- An operation that leaves lanes, events, offers and the verify queue alone. -/
theorem StreamOp.of_eq {s t : State}
    (h : t = { s with table := t.table, pool := t.pool, live := t.live, errors := t.errors }) : StreamOp s t := by
  have hl : t.lanes = s.lanes := by rw [h]
  have he : t.events = s.events := by rw [h]
  have ho : t.offered = s.offered := by rw [h]
  have hq : t.verifyQueue = s.verifyQueue := by rw [h]
  exact ⟨by rw [hl, he, ho, hq]; exact h, fun l => by simp [State.lane, hl], he ▸ List.prefix_refl _, fun b => he ▸ b,
    ho ▸ .refl _, hq ▸ .refl _⟩

/-! ## Elementary updates -/

theorem State.setEntry_op (s : State) (i : StreamIndex) (e : Entry) : StreamOp s (s.setEntry i e) := .of_eq rfl

theorem State.setCtx_op (s : State) (i : StreamIndex) (c : Context) : StreamOp s (s.setCtx i c) := .of_eq rfl

theorem State.modifyCtx_op (s : State) (i : StreamIndex) (f : Context → Context) : StreamOp s (s.modifyCtx i f) := by
  unfold State.modifyCtx
  split
  · exact s.setCtx_op _ _
  · exact .refl s

theorem State.modifyChunk_op (s : State) (i : StreamIndex) (pos : Nat) (f : ChunkRecord → ChunkRecord) :
    StreamOp s (s.modifyChunk i pos f) := s.modifyCtx_op _ _

theorem State.count_op (s : State) (k : Counter) (n : Nat) : StreamOp s (s.count k n) := .of_eq rfl

theorem State.noteError_op (s : State) (k : ErrorKind) (i : Option StreamIndex) (slot : Option Slot) (c : Option Nat) :
    StreamOp s (s.noteError k i slot c) := .of_eq rfl

theorem State.setPool_op (s : State) (p : Pool) : StreamOp s { s with pool := p } := .of_eq rfl

/-- A raised event: queued at the tail within the bound, or lost, or disabled. -/
theorem State.raise_op (s : State) (e : Event) : StreamOp s (s.raise e) := by
  unfold State.raise
  split_ifs with h1 h2
  · refine ⟨rfl, fun l => ⟨rfl, fun _ => rfl⟩, List.prefix_append _ _, fun _ => ?_, .refl _, .refl _⟩
    simpa using h2
  · exact (s.count_op _ _).trans (State.noteError_op _ _ _ _ _)
  · exact .refl s

/-- The watermark test. -/
theorem State.poolTest_op (s : State) : StreamOp s s.poolTest := by
  unfold State.poolTest
  dsimp only
  split_ifs with h
  · refine StreamOp.trans ?_ (State.raise_op _ _)
    refine ⟨rfl, fun l => ?_, List.prefix_refl _, id, .refl _, .refl _⟩
    simp only [State.lane, Fin.getElem_fin, Vector.getElem_map]
    unfold flagActive
    split_ifs with ha
    · exact ⟨rfl, fun hn => absurd ha hn⟩
    · exact ⟨rfl, fun _ => rfl⟩
  · exact .refl s

/-! ## The Slot Pool -/

theorem State.giveUp_op (s : State) (slot : Slot) (force : Bool) : StreamOp s (s.giveUp slot force) := by
  unfold State.giveUp
  split_ifs
  · exact .of_eq rfl
  · exact .of_eq rfl

theorem State.giveUpAt_op (s : State) (i : StreamIndex) (pos : Nat) (force : Bool) :
    StreamOp s (s.giveUpAt i pos force) := by
  unfold State.giveUpAt
  split
  · exact s.giveUp_op _ _
  · exact .refl s

theorem State.giveUpAll_op (forced : Option Nat) (l : List (Slot × Nat)) :
    ∀ s : State, StreamOp s (s.giveUpAll forced l) := by
  induction l with
  | nil => exact .refl
  | cons x rest ih => exact fun s => (s.giveUp_op _ _).trans (ih _)

theorem State.retireFromChunk_op (s : State) (i : StreamIndex) (pos : Nat) : StreamOp s (s.retireFromChunk i pos) := by
  unfold State.retireFromChunk
  split
  · exact .refl s
  · have h : ∀ slot n, StreamOp s (((s.retireSlot slot).modifyCtx i fun c =>
        c.modifyChunk pos fun r => { r with slot := none }).raiseReserve n) := fun slot n =>
      ((StreamOp.of_eq rfl : StreamOp s (s.retireSlot slot)).trans (State.modifyCtx_op _ _ _)).trans (.of_eq rfl)
    dsimp only
    split_ifs
    · exact h _ _
    · exact .refl s
    · exact h _ _
    · exact .refl s

theorem State.retireGiven_op (s : State) (i : StreamIndex) (r : Option Nat) : StreamOp s (s.retireGiven i r) := by
  cases r
  · exact .refl s
  · exact s.retireFromChunk_op i _

/-! ## Withdrawal, release, the tests at an event's end -/

theorem State.modifyChunks_op (i : StreamIndex) (f : ChunkRecord → ChunkRecord) (ps : List Nat) :
    ∀ s : State, StreamOp s (ps.foldl (fun t p => t.modifyChunk i p f) s) := by
  induction ps with
  | nil => exact .refl
  | cons p rest ih => exact fun s => (s.modifyChunk_op _ _ _).trans (ih _)

/-- Only offers and entries are removed when a list is filtered. -/
theorem StreamOp.filter_offered (s : State) (p : Offer → Bool) : StreamOp s { s with offered := s.offered.filter p } :=
  ⟨rfl, fun _ => ⟨rfl, fun _ => rfl⟩, List.prefix_refl _, id, List.filter_sublist, .refl _⟩

theorem StreamOp.filter_queue (s : State) (p : ChunkName → Bool) :
    StreamOp s { s with verifyQueue := s.verifyQueue.filter p } :=
  ⟨rfl, fun _ => ⟨rfl, fun _ => rfl⟩, List.prefix_refl _, id, .refl _, List.filter_sublist⟩

theorem State.withdrawOffers_op (s : State) (i : StreamIndex) : StreamOp s (s.withdrawOffers i) :=
  (State.modifyChunks_op i _ _ s).trans (StreamOp.filter_offered _ _)

theorem State.clearQueue_op (s : State) (i : StreamIndex) : StreamOp s (s.clearQueue i) :=
  (State.modifyChunks_op i _ _ s).trans (StreamOp.filter_queue _ _)

theorem State.enterReleasing_op (s : State) (i : StreamIndex) (cause : Option Cause) :
    StreamOp s (s.enterReleasing i cause) := (s.modifyCtx_op _ _).trans (State.withdrawOffers_op _ _)

theorem State.toFree_op (s : State) (i : StreamIndex) (c : Context) (forced : Option Nat) :
    StreamOp s (s.toFree i c forced) :=
  ((State.giveUpAll_op forced _ s).trans (State.raise_op _ _)).trans (State.setEntry_op _ _ _)

theorem State.endInFlight_op (s : State) (i : StreamIndex) (pos : Nat) (force : Bool) :
    StreamOp s (s.endInFlight i pos force) := by
  unfold State.endInFlight
  refine (s.modifyChunk_op i pos ChunkRecord.givenUp).trans ?_
  dsimp only
  split
  · exact .refl _
  · split
    · exact State.giveUpAt_op _ _ _ _
    · exact State.toFree_op _ _ _ _

theorem State.testFree_op (s : State) (i : StreamIndex) : StreamOp s (s.testFree i) := by
  unfold State.testFree
  split
  · split_ifs
    · exact s.toFree_op _ _ _
    · exact .refl s
  · exact .refl s

theorem State.settle_op (s : State) (i : StreamIndex) : StreamOp s (s.settle i) := by
  unfold State.settle
  refine (s.modifyCtx_op i Context.testDrainFlags).trans (StreamOp.trans ?_ (State.testFree_op _ i))
  split
  · split_ifs
    · exact State.enterReleasing_op _ _ _
    · exact .refl _
  · exact .refl _

theorem State.settleAll_op (l : List StreamIndex) : ∀ s : State, StreamOp s (s.settleAll l) := by
  induction l with
  | nil => exact .refl
  | cons i rest ih => exact fun s => (s.settle_op i).trans (ih _)

/-! ## Parity errors, lookups -/

theorem State.noteParity_op (s : State) (i : StreamIndex) : StreamOp s (s.noteParity i) := .of_eq rfl

theorem State.detach_op (s : State) (i : StreamIndex) (c : Context) : StreamOp s (s.detach i c) := by
  unfold State.detach
  refine StreamOp.trans ?_ (State.clearQueue_op _ i)
  refine StreamOp.trans ?_ (State.withdrawOffers_op _ i)
  have h1 := ((s.setCtx_op i { c with state := .releasing, cause := some .contextError, notices := .none }).trans
    (State.noteParity_op _ i)).trans (State.raise_op _ (.deviceError .tableParity (some i) (some c.tag) none none))
  split_ifs
  · exact h1.trans (.of_eq rfl)
  · exact (h1.trans (State.raise_op _ _)).trans (.of_eq rfl)
  · exact h1
  · exact h1.trans (State.raise_op _ _)

theorem State.handleParity_op (s : State) (i : StreamIndex) : StreamOp s (s.handleParity i) := by
  unfold State.handleParity
  split_ifs
  · exact .refl s
  · split
    · exact (s.setEntry_op _ _).trans (State.noteParity_op _ _)
    · exact s.detach_op _ _

theorem State.handleAll_op (l : List StreamIndex) : ∀ s : State, StreamOp s (s.handleAll l) := by
  induction l with
  | nil => exact .refl
  | cons i rest ih => exact fun s => (s.handleParity_op i).trans (ih _)

theorem State.checkParity_op (s : State) (i : StreamIndex) : StreamOp s (s.checkParity i) := by
  unfold State.checkParity
  split_ifs
  · exact .refl s
  · exact (s.handleParity_op i).trans (State.settle_op _ _)

/-- An entry with sound parity is left as it is. -/
theorem State.checkParity_good {s : State} {i : StreamIndex} (h : (s.entry i).parityGood = true) : s.checkParity i = s := by
  unfold State.checkParity
  rw [if_pos h]

theorem State.checkAll_op (l : List StreamIndex) : ∀ s : State, StreamOp s (s.checkAll l) := by
  induction l with
  | nil => exact .refl
  | cons i rest ih => exact fun s => (s.checkParity_op i).trans (ih _)

theorem State.checkRead_op (s : State) (read : List StreamIndex) : StreamOp s (s.checkRead read) := by
  unfold State.checkRead
  exact State.checkAll_op _ s

/-- An event that reads no failing entry changes none. -/
theorem State.checkRead_good {s : State} {read : List StreamIndex} (h : ∀ i ∈ read, (s.entry i).parityGood = true) :
    s.checkRead read = s := by
  unfold State.checkRead
  generalize streamIndices = all
  rw [List.filter_eq_nil_iff.mpr fun i _ hi => ?_]
  · rfl
  · rw [Bool.and_eq_true, List.contains_iff_mem] at hi
    rw [h i hi.2] at hi
    exact Bool.noConfusion hi.1

theorem State.turn_op (s : State) (order : List StreamIndex) (serves : StreamIndex → Bool) :
    StreamOp s (s.turn order serves).1 := by
  unfold State.turn
  dsimp only
  exact s.checkRead_op _

/-- Where every entry has sound parity, a turn finds the first stream that may be served and changes nothing. -/
theorem State.turn_good {s : State} (h : ∀ i, (s.entry i).parityGood = true) (order : List StreamIndex)
    (serves : StreamIndex → Bool) : s.turn order serves = (s, order.find? serves) := by
  unfold State.turn
  simp only [h, Bool.true_and]
  rw [State.checkRead_good fun i _ => h i]

theorem State.lookup_op (s : State) (tag : Nat) : StreamOp s (s.lookup tag).1 := by
  unfold State.lookup
  dsimp only
  split_ifs
  · split <;> exact .refl s
  · exact (s.checkParity_op _).trans (State.checkParity_op _ _)

/-! ## Abort and ordered commit -/

theorem State.enterAborted_op (s : State) (i : StreamIndex) (cause : Cause) (retiring : Option Nat) :
    StreamOp s (s.enterAborted i cause retiring) := by
  unfold State.enterAborted
  split
  · exact .refl s
  · rename_i c _
    dsimp only
    refine StreamOp.trans ?_ (State.raise_op _ _)
    refine StreamOp.trans ?_ (State.modifyCtx_op _ _ _)
    refine StreamOp.trans ?_ (State.clearQueue_op _ _)
    refine StreamOp.trans ?_ (State.withdrawOffers_op _ _)
    refine StreamOp.trans (s.modifyCtx_op i fun d => { d with state := .aborted, cause := some cause })
      (StreamOp.trans ?_ (State.poolTest_op _))
    refine StreamOp.trans ?_ (State.retireGiven_op _ i retiring)
    split_ifs
    · exact .of_eq rfl
    · exact .refl _

theorem State.commitStep_op (s : State) (i : StreamIndex) (c : Context) : StreamOp s (s.commitStep i c) := by
  unfold State.commitStep
  dsimp only
  refine StreamOp.trans (StreamOp.trans (s.setCtx_op i c.afterCommit) ?_)
    ((State.giveUpAt_op _ i _ false).trans (State.count_op _ _ _))
  split_ifs
  · exact .of_eq rfl
  · exact .refl _

theorem State.commitSteps_op (i : StreamIndex) (n : Nat) : ∀ s : State, StreamOp s (s.commitSteps i n) := by
  induction n with
  | zero => exact .refl
  | succ n ih =>
    intro s
    unfold State.commitSteps
    split
    · split_ifs
      · exact (s.commitStep_op i _).trans (ih _)
      · exact .refl s
    · exact .refl s

theorem State.completeStream_op (s : State) (i : StreamIndex) (c : Context) (f : Nat) :
    StreamOp s (s.completeStream i c f) := (s.modifyCtx_op _ _).trans (State.raise_op _ _)

theorem State.testComplete_op (s : State) (i : StreamIndex) : StreamOp s (s.testComplete i) := by
  unfold State.testComplete
  split
  · split_ifs
    · exact State.completeStream_op _ _ _ _
    · exact .refl _
  · exact .refl _

theorem State.orderedCommit_op (s : State) (i : StreamIndex) : StreamOp s (s.orderedCommit i) := by
  unfold State.orderedCommit
  split
  · split_ifs
    · exact ((State.commitSteps_op i _ s).trans (State.modifyCtx_op _ i _)).trans (State.testComplete_op _ i)
    · exact .refl s
  · exact .refl s

/-! ## Reply lanes, put-back, turns, the idle test -/

theorem State.redirect_op (old new : Option LaneId) (l : List StreamIndex) :
    ∀ s : State, StreamOp s (s.redirect old new l) := by
  induction l with
  | nil => exact .refl
  | cons i rest ih => exact fun s => ((s.checkParity_op i).trans (State.modifyCtx_op _ _ _)).trans (ih _)

theorem State.putBackOne_op (s : State) (r : NoticeRecord) : StreamOp s (s.putBackOne r) := by
  unfold State.putBackOne
  split
  · exact s.modifyCtx_op _ _
  · exact .refl s

theorem State.putBackEach_op (l : List NoticeRecord) : ∀ s : State, StreamOp s (s.putBackEach l) := by
  induction l with
  | nil => exact .refl
  | cons r rest ih => exact fun s => (s.putBackOne_op r).trans (ih _)

theorem State.putBackAll_op (s : State) (l : List NoticeRecord) : StreamOp s (s.putBackAll l) :=
  (s.checkRead_op _).trans (State.putBackEach_op l _)

theorem State.idleTest_op (s : State) (i : StreamIndex) : StreamOp s (s.idleTest i) := by
  unfold State.idleTest
  split
  · exact .refl s
  · split_ifs
    · exact (s.setCtx_op _ _).trans (State.raise_op _ _)
    · exact s.checkParity_op i
    · exact .refl s

theorem State.idleTests_op (l : List StreamIndex) : ∀ s : State, StreamOp s (s.idleTests l) := by
  induction l with
  | nil => exact .refl
  | cons i rest ih => exact fun s => (s.idleTest_op i).trans (ih _)

/-! ## Reads of the buffer, outcomes and completions -/

theorem State.reportRead_op (s : State) (slot : Slot) (ws : List Nat) (i : StreamIndex) (k : Nat) :
    StreamOp s (s.reportRead slot ws i k) := by
  unfold State.reportRead
  dsimp only
  split_ifs
  · exact s.count_op _ _
  · exact ((s.count_op _ _).trans ((State.setPool_op _ _).trans ((State.count_op _ _ _).trans
      (State.noteError_op _ _ _ _ _)))).trans (State.raise_op _ _)

theorem State.resume_op (s : State) (i : StreamIndex) (c : Context) : StreamOp s (s.resume i c) := by
  unfold State.resume
  split_ifs
  · exact (s.modifyCtx_op _ _).trans (State.raise_op _ _)
  · exact .refl s

theorem State.failInHold_op (s : State) (i : StreamIndex) (c : Context) (r : Option Nat) :
    StreamOp s (s.failInHold i c r) := by
  unfold State.failInHold
  dsimp only
  split_ifs
  · exact ((s.modifyCtx_op _ _).trans (State.modifyCtx_op _ _ _)).trans (State.retireGiven_op _ _ _)
  · exact (s.modifyCtx_op _ _).trans (State.enterAborted_op _ _ _ _)

theorem State.testThreshold_op (s : State) (i : StreamIndex) (pos : Nat) (c : Context) :
    StreamOp s (s.testThreshold i pos c) := by
  unfold State.testThreshold
  split_ifs
  · exact (((s.modifyCtx_op _ _).trans (State.clearQueue_op _ _)).trans (State.modifyCtx_op _ _ _)).trans
      (State.raise_op _ _)
  · exact s.modifyCtx_op _ _

theorem State.failReceiving_op (s : State) (i : StreamIndex) (pos : Nat) (c : Context) (r : Option Nat) :
    StreamOp s (s.failReceiving i pos c r) := by
  unfold State.failReceiving
  dsimp only
  split_ifs
  · exact (s.setCtx_op _ _).trans (State.enterAborted_op _ _ _ _)
  · exact (s.setCtx_op _ _).trans (State.failInHold_op _ _ _ _)
  · exact ((s.setCtx_op _ _).trans (State.testThreshold_op _ _ _ _)).trans (State.retireGiven_op _ _ _)

theorem State.applyOutcome_op (s : State) (i : StreamIndex) (pos : Nat) (v : Verification) :
    StreamOp s (s.applyOutcome i pos v) := by
  have hr : ∀ c, StreamOp s (s.outcomeReceiving i pos c v) := by
    intro c
    cases v
    · exact (s.modifyCtx_op _ _).trans (State.resume_op _ _ _)
    · exact ((s.modifyCtx_op _ _).trans (State.resume_op _ _ _)).trans (State.orderedCommit_op _ _)
    · exact s.failReceiving_op _ _ _ _
  have hs : StreamOp s (s.outcomeStopped i pos v) := by
    cases v
    · exact s.modifyChunk_op _ _ _
    · exact (s.modifyCtx_op _ _).trans (State.orderedCommit_op _ _)
    · exact (s.modifyChunk_op _ _ _).trans (State.retireGiven_op _ _ _)
  unfold State.applyOutcome
  split
  · exact .refl s
  · split
    · exact hr _
    · exact hr _
    · exact hs
    · exact hs
    · exact s.endInFlight_op _ _ _
    · exact .refl s

theorem State.storeFailure_op (s : State) (i : StreamIndex) (pos : Nat) (c : Context) (r : ChunkRecord) :
    StreamOp s (s.storeFailure i pos c r) := by
  unfold State.storeFailure
  have h := s.modifyChunk_op i pos fun x => { x with state := .verified }
  dsimp only
  split_ifs
  · exact h
  · split <;> first | exact h.trans (State.enterAborted_op _ _ _ _) | exact h.trans (State.enterReleasing_op _ _ _) | exact h

theorem State.targetFull_op (s : State) (i : StreamIndex) (pos : Nat) (c : Context) :
    StreamOp s (s.targetFull i pos c) := by
  unfold State.targetFull
  have h := s.modifyChunk_op i pos fun x => { x with state := .verified }
  dsimp only
  split <;> first | exact h.trans (State.enterAborted_op _ _ _ _) | exact h.trans (State.enterReleasing_op _ _ _) | exact h

theorem State.poisonedFailure_op (s : State) (i : StreamIndex) (pos n : Nat) (c : Context) :
    StreamOp s (s.poisonedFailure i pos n c) := by
  unfold State.poisonedFailure
  dsimp only
  split
  · exact (s.modifyCtx_op _ _).trans (State.enterAborted_op _ _ _ _)
  · exact ((s.modifyCtx_op _ _).trans (State.modifyCtx_op _ _ _)).trans (State.retireFromChunk_op _ _ _)

theorem State.poisonedCompletion_op (s : State) (i : StreamIndex) (pos : Nat) (c : Context) (r : ChunkRecord) :
    StreamOp s (s.poisonedCompletion i pos c r) := by
  unfold State.poisonedCompletion
  dsimp only
  split_ifs
  · exact (s.modifyChunk_op _ _ _).trans (State.poisonedFailure_op _ _ _ _ _)
  · exact (s.modifyChunk_op _ _ _).trans (State.retireFromChunk_op _ i pos)

theorem State.applyCompletion_op (s : State) (i : StreamIndex) (pos : Nat) (st : CompletionStatus) (check : Word) :
    StreamOp s (s.applyCompletion i pos st check) := by
  have hl : ∀ c r, StreamOp s (s.completeLive i pos c r st check) := by
    intro c r
    unfold State.completeLive
    split
    · split_ifs
      · exact (s.modifyChunk_op _ _ _).trans (State.orderedCommit_op _ _)
      · exact s.storeFailure_op _ _ _ _
    · exact s.storeFailure_op _ _ _ _
    · exact s.targetFull_op _ _ _
    · exact s.poisonedCompletion_op _ _ _ _
  unfold State.applyCompletion
  split
  · exact .refl s
  · split
    · exact s.endInFlight_op _ _ _
    · exact .refl s
    · exact hl _ _
    · exact .refl s

theorem State.withdrawOne_op (s : State) (q : ChunkName) (rest : List ChunkName) :
    StreamOp s (s.withdrawOne q rest) := by
  unfold State.withdrawOne
  split
  · exact .refl s
  · split_ifs
    · exact (s.modifyChunk_op _ _ _).trans (State.giveUpAll_op _ _ _)
    · exact s.modifyChunk_op _ _ _

theorem State.withdrawEach_op (l : List ChunkName) : ∀ s : State, StreamOp s (s.withdrawEach l) := by
  induction l with
  | nil => exact .refl
  | cons q rest ih => exact fun s => (s.withdrawOne_op q rest).trans (ih _)

/-- The withdrawals of an event are as many as the records, each of its record's stream. -/
theorem State.withdrawals_streams (s : State) (names : List ChunkName) :
    (s.withdrawals names).map (·.stream) = names.map (·.stream) := by
  unfold State.withdrawals
  refine List.ext_getElem (by simp) fun n h1 h2 => ?_
  simp only [List.getElem_map, List.getElem_mapIdx]
  split
  · split_ifs <;> rfl
  · rfl

/-- Where no stream named is RELEASING, the withdrawals are the records' own names in their order. -/
theorem State.withdrawals_eq {s : State} {names : List ChunkName}
    (h : ∀ q ∈ names, ∀ c, s.ctx? q.stream = some c → c.state ≠ .releasing) : s.withdrawals names = names := by
  unfold State.withdrawals
  refine List.ext_getElem (by simp) fun n h1 h2 => ?_
  simp only [List.getElem_mapIdx]
  split
  · rename_i c hc
    rw [if_neg (h _ (List.getElem_mem h2) c hc)]
  · rfl

end Sys2Proof.Machine
end

