-- ==== Sys2Proof/Laws/Pool.lean ====
section
/-! SUPPORT. The Slot Pool's operations keep the partition of the slots (R79) and the order of the free list (R80). -/

namespace Sys2Proof.Machine

/-- A slot that the pool names for a chunk is ASSIGNED to it. -/
theorem Pool.slotOf_use {p : Pool} (h : CellsWF .free p.uses) {i : StreamIndex} {pos : Nat} {slot : Slot}
    (hs : p.slotOf i pos = some slot) : p.use slot = .assigned i pos := by
  unfold Pool.slotOf at hs
  obtain ⟨c, hc, rfl⟩ := Option.map_eq_some_iff.mp hs
  have hu : c.2 = .assigned i pos := by simpa using List.find?_some hc
  exact (mem_iff_cellGet h c.1 _ (by simp)).mp (hu ▸ List.mem_of_find?_eq_some hc)

/-- Every slot listed for a stream is ASSIGNED to it. -/
theorem Pool.slotsOf_use {p : Pool} (h : CellsWF .free p.uses) {i : StreamIndex} {x : Slot × Nat}
    (hx : x ∈ p.slotsOf i) : p.use x.1 = .assigned i x.2 := by
  unfold Pool.slotsOf at hx
  obtain ⟨c, hc, he⟩ := List.mem_filterMap.mp hx
  split at he
  · rename_i j pos hu
    split_ifs at he with hj
    obtain rfl := Option.some.inj he
    exact (mem_iff_cellGet h c.1 _ (by simp)).mp (by rw [← hj, ← hu]; exact hc)
  · exact absurd he (by simp)

theorem Pool.use_put {p : Pool} (h : CellsWF .free p.uses) (slot x : Slot) (u : SlotUse) :
    cellGet .free (cellPut .free p.uses slot u) x = if x = slot then u else p.use x := cellGet_cellPut h slot x u

/-- How many slots are RETIRED, read slot by slot. -/
theorem Pool.retiredCount_eq {p : Pool} (h : CellsWF .free p.uses) :
    p.retiredCount = ((List.finRange 2048).filter fun slot => decide (p.use slot = .retired)).length := by
  unfold Pool.retiredCount
  rw [← List.length_map (f := Prod.fst)]
  refine List.Perm.length_eq ((List.perm_ext_iff_of_nodup ?_ ?_).mpr fun slot => ?_)
  · exact List.Pairwise.map _ (fun _ _ hab => ne_of_lt hab) (h.1.sublist List.filter_sublist)
  · exact (List.nodup_finRange 2048).filter _
  · simp only [List.mem_map, List.mem_filter, decide_eq_true_eq, List.mem_finRange, true_and]
    constructor
    · rintro ⟨⟨k, u⟩, ⟨hm, hu⟩, rfl⟩
      exact (mem_iff_cellGet h k _ (by simp)).mp (hu ▸ hm)
    · exact fun hu => ⟨(slot, .retired), ⟨(mem_iff_cellGet h slot _ (by simp)).mpr hu, rfl⟩, rfl⟩

/-- Changing one slot that was not RETIRED adds at most one retired slot, and none when it does not become RETIRED. -/
theorem Pool.retiredCount_put {p : Pool} (h : CellsWF .free p.uses) (slot : Slot) (u : SlotUse)
    (hs : p.use slot ≠ .retired) :
    Pool.retiredCount { p with uses := cellPut .free p.uses slot u } =
      p.retiredCount + if u = .retired then 1 else 0 := by
  rw [Pool.retiredCount_eq (cellPut_wf h slot u), Pool.retiredCount_eq h]
  have hu : ∀ x, Pool.use { p with uses := cellPut .free p.uses slot u } x = if x = slot then u else p.use x :=
    fun x => Pool.use_put h slot x u
  simp only [hu]
  have hm := List.mem_finRange slot
  have hn := List.nodup_finRange 2048
  generalize List.finRange 2048 = l at hm hn
  induction l with
  | nil => exact absurd hm (by simp)
  | cons x rest ih =>
    obtain ⟨hx, hr⟩ := List.nodup_cons.mp hn
    by_cases he : x = slot
    · subst he
      have hrest : (rest.filter fun y => decide ((if y = x then u else p.use y) = .retired)) =
          rest.filter fun y => decide (p.use y = .retired) :=
        List.filter_congr fun y hy => by rw [if_neg fun e : y = x => hx (e ▸ hy)]
      rw [List.filter_cons, List.filter_cons, if_pos rfl, hrest]
      by_cases hu' : u = .retired <;> simp [hs, hu']
    · have := ih ((List.mem_cons.mp hm).resolve_left fun e => he e.symm) hr
      rw [List.filter_cons, List.filter_cons, if_neg he]
      by_cases hp : p.use x = .retired <;> simp [hp, this] <;> omega

/-- An ASSIGNED slot that is freed keeps the partition. -/
theorem Pool.release_partition {p : Pool} (h : p.Partition) {slot : Slot} (hs : p.use slot ≠ .free)
    (hr : p.use slot ≠ .retired) : (p.release slot).Partition := by
  obtain ⟨hn, hm, hw, hc⟩ := h
  have hnot : slot ∉ p.freeList := fun e => hs ((hm slot).mp e)
  refine ⟨?_, fun x => ?_, cellPut_wf hw slot .free, ?_⟩
  · exact List.nodup_append.mpr ⟨hn, by simp, fun a ha b hb => by
      obtain rfl := List.mem_singleton.mp hb; exact fun e => hnot (e ▸ ha)⟩
  · show x ∈ p.freeList ++ [slot] ↔ cellGet .free (cellPut .free p.uses slot .free) x = .free
    rw [Pool.use_put hw, List.mem_append, List.mem_singleton, hm x]
    by_cases hx : x = slot <;> simp [hx]
  · show Pool.retiredCount { p with uses := cellPut .free p.uses slot .free } ≤ _
    rw [Pool.retiredCount_put hw slot _ hr]
    simpa using hc

/-- An ASSIGNED slot that is retired while fewer than 64 are keeps the partition. -/
theorem Pool.retire_partition {p : Pool} (h : p.Partition) {slot : Slot} (hs : p.use slot ≠ .free)
    (hr : p.use slot ≠ .retired) (hlt : p.retiredCount < Config.retiredLimit) : (p.retire slot).Partition := by
  obtain ⟨hn, hm, hw, -⟩ := h
  refine ⟨hn, fun x => ?_, cellPut_wf hw slot .retired, ?_⟩
  · show x ∈ p.freeList ↔ cellGet .free (cellPut .free p.uses slot .retired) x = .free
    rw [Pool.use_put hw, hm x]
    by_cases hx : x = slot
    · subst hx; simp [hs]
    · rw [if_neg hx]
  · show Pool.retiredCount { p with uses := cellPut .free p.uses slot .retired } ≤ _
    rw [Pool.retiredCount_put hw slot _ hr]
    simpa using hlt

/-- A grant keeps the partition. -/
theorem Pool.assign_partition {p q : Pool} (h : p.Partition) {i : StreamIndex} {pos : Nat} {slot : Slot}
    (ha : p.assign i pos = some (slot, q)) : q.Partition := by
  obtain ⟨hn, hm, hw, hc⟩ := h
  unfold Pool.assign at ha
  split at ha
  · exact absurd ha (by simp)
  · rename_i head rest hl
    obtain ⟨rfl, rfl⟩ := Prod.mk.inj (Option.some.inj ha)
    rw [hl] at hn hm
    obtain ⟨hx, hr⟩ := List.nodup_cons.mp hn
    have hfree : p.use head = .free := (hm head).mp (by simp)
    refine ⟨hr, fun x => ?_, cellPut_wf hw _ _, ?_⟩
    · show x ∈ rest ↔ cellGet .free (cellPut .free p.uses head (.assigned i pos)) x = .free
      rw [Pool.use_put hw]
      by_cases he : x = head
      · subst he; simp [hx]
      · rw [if_neg he, ← hm x]; simp [he]
    · show Pool.retiredCount { p with uses := cellPut .free p.uses head (.assigned i pos) } ≤ _
      rw [Pool.retiredCount_put hw head _ (by rw [hfree]; simp)]
      simpa using hc

/-- A slot given up is freed at the tail of the free list or retired; the partition stays. -/
theorem State.giveUp_partition {s : State} (h : s.pool.Partition) {slot : Slot} (hs : s.pool.use slot ≠ .free)
    (hr : s.pool.use slot ≠ .retired) (force : Bool) : (s.giveUp slot force).pool.Partition := by
  unfold State.giveUp
  split_ifs with hm
  · simp only [Pool.mayRetire, Bool.and_eq_true, decide_eq_true_eq] at hm
    exact Pool.retire_partition h hs hr hm.2.1
  · exact Pool.release_partition h hs hr

/-- The slot recorded for a chunk given up; the partition stays. -/
theorem State.giveUpAt_partition {s : State} (h : s.pool.Partition) (i : StreamIndex) (pos : Nat) (force : Bool) :
    (s.giveUpAt i pos force).pool.Partition := by
  unfold State.giveUpAt
  split
  · rename_i slot hs
    have := Pool.slotOf_use h.2.2.1 hs
    exact State.giveUp_partition h (by rw [this]; simp) (by rw [this]; simp) force
  · exact h

/-- The pool at power-on reset is partitioned: every slot is FREE. -/
theorem Pool.reset_partition : Pool.reset.Partition := by
  unfold Pool.Partition Pool.use Pool.retiredCount Pool.reset
  have hn := List.nodup_finRange 2048
  have hm : ∀ slot : Slot, slot ∈ List.finRange 2048 := List.mem_finRange
  generalize List.finRange 2048 = l at hn hm
  exact ⟨hn, fun slot => ⟨fun _ => rfl, fun _ => hm slot⟩,
    ⟨List.Pairwise.nil, fun _ h => absurd h List.not_mem_nil⟩, Nat.zero_le _⟩

end Sys2Proof.Machine
end

