-- ==== Sys2Proof/WellFormed.lean ====
section
/-! DEFINITION. Which terms of Instr a partner can send: fixed-form records have the length 11_record_layouts.md gives
them, the self-test's word and entry numbers exist. A segment record may have any size (R177). Lane and stream numbers are bounded by their types. -/

namespace Sys2Proof

/-- Bytes of a READ record and of a COMPLETE record (11_record_layouts.md, 11.3). -/
def drainRecordBytes : Nat := 12
/-- Bytes of a command record (11.4). -/
def commandRecordBytes : Nat := 48
/-- Words of the chunk buffer (R79, R88). -/
def bufferWords : Nat := 16777216
/-- Entries of the Stream Table (R13). -/
def tableEntries : Nat := 512

/-- The checks on a command's operands. -/
def Instr.wellFormed : Instr → Bool
  | .pushSegment _ _ => true
  | .read record => decide (record.length = drainRecordBytes)
  | .complete record => decide (record.length = drainRecordBytes)
  | .commandWrite record => decide (record.length = commandRecordBytes)
  | .bufferWalk bad => bad.all fun w => decide (w < bufferWords)
  | .streamTableTest bad => bad.all fun i => decide (i < tableEntries)
  | .linkUp _ | .linkDown _ | .laneReset _ | .noticeTake _ | .segmentTake _ | .noticePlacement _ => true
  | .take | .writerSignal _ | .portReset | .arbiterTurn | .drainTimeout _ => true
  | .engineTake | .verifyCompletion => true
  | .openCmd | .closeCmd | .abortCmd | .releaseCmd | .salvageCmd | .extendCmd | .flushCmd | .queryCmd => true
  | .laneCmd | .configureCmd | .countersCmd | .clearErrorsCmd | .statusCmd | .resetCmd _ | .unknownCommand => true
  | .responseQueueRead | .eventQueueRead | .powerOnReset _ => true
  | .knownAnswer _ | .scrub | .idleExpiry _ | .intervalExpiry => true

end Sys2Proof
end

