-- ==== Sys2Proof/Tests/Slice0.lean ====
section
/-! SUPPORT. Tests: ill-formed terms the check refuses, worked examples and sequences of the spec run on small states,
and for every statement with hypotheses a state and operands that meet them all. -/

namespace Sys2Proof.Tests

open Sys2Proof Sys2Proof.Machine

/-! ## Small states -/

/-- A READY device with every lane up, two free slots and, so, a low pool. -/
def calm : State := { State.reset with
  device := .ready
  signal := .ready
  pool := ⟨[3, 4], [], [], 0, .low⟩
  lanes := Vector.replicate 4 ⟨.active, .up, [], 32, 0, [], none, 511⟩ }

/-- A chunk record without history. -/
def chunkRec (k : Nat) (slot : Option Slot) (st : ChunkState) (ranges : List Range) : ChunkRecord :=
  ⟨k, slot, st, ranges, 0, 0, none⟩

/-- A stream in OPEN with tag 7 and this window, whose committed offset is `committed`. -/
def stream (committed : Nat) (window : List ChunkRecord) : Context where
  state := .opened
  cause := none
  tag := 7
  w := window.length
  b := 2
  t := 2
  pattern := false
  target := 9
  base := 5000
  cap := 1000
  reserve := 16
  committed := committed
  final := none
  window := window
  history := []
  holdFailures := 0
  streaming := false
  flushPending := false
  earlyWarningIssued := false
  capacityReached := false
  idleReported := false
  lastArrival := 0
  notices := .none
  replyLane := some 0
  counts := ⟨0, 0, 0, 0, 0, 0, 0, 0, 0, 0, 0, 0, 0, 0⟩

/-- The calm device with a stream at index 14, way 0 of row 7, its slots assigned in the pool. -/
def holding (c : Context) (uses : List (Slot × SlotUse)) : State :=
  { calm with table := [(14, ⟨true, some c⟩)], pool := ⟨[3, 4], uses, [], 0, .low⟩ }

/-- What a command leaves. -/
def after (x : Instr) (s : State) : State :=
  match exec x s with
  | .next t => t
  | .fault _ => s
  | .refused _ => s

/-- A segment record (11.2) for tag 7. -/
def segment (o : Nat) (flags : Byte) (payload : List Byte) : List Byte :=
  le 4 7 ++ le 6 o ++ le 2 payload.length ++ [flags, 0, 0, 0] ++ payload

/-- A state with one record waiting in lane 0. -/
def pushed (s : State) (record : List Byte) : State :=
  s.modifyLane 0 fun v => { v with ingress := [record], credit := 31 }

/-- A state with one command record, its bytes after the identifier given, at the head of the command queue. -/
def commanded (s : State) (code : Byte) (parameters : List Byte) : State :=
  { s with commands := [[code, 0, 1, 0] ++ parameters ++ List.replicate (44 - parameters.length) 0] }

/-- The parameter bytes of OPEN (11.4). -/
def openBytes (tag w b t cap start : Nat) : List Byte :=
  le 4 tag ++ [BitVec.ofNat 8 w, BitVec.ofNat 8 b, BitVec.ofNat 8 t, 0] ++ le 4 9 ++ le 6 5000 ++ [0, 0] ++ le 8 cap ++
    le 8 0 ++ le 8 start

/-- A COMPLETE record (11.3). -/
def completion (tag : Nat) (status : Byte) (check : Nat) : List Byte := le 4 tag ++ [status, 0, 0, 0] ++ le 4 check

/-- A device context where nothing but the event records' kinds is looked at. -/
def kinds (s : State) : List Nat := s.events.map fun e => e.event.kindCode

/-! ## WellFormed: an ill-formed term for each check -/

theorem test_wellFormed_read : Instr.wellFormed (.read (List.replicate 11 0)) = false := by decide
theorem test_wellFormed_complete : Instr.wellFormed (.complete (List.replicate 13 0)) = false := by decide
theorem test_wellFormed_commandWrite : Instr.wellFormed (.commandWrite (List.replicate 47 0)) = false := by decide
theorem test_wellFormed_bufferWalk : Instr.wellFormed (.bufferWalk [0, 16777216]) = false := by decide
theorem test_wellFormed_streamTableTest : Instr.wellFormed (.streamTableTest [511, 512]) = false := by decide
theorem test_wellFormed_accepts : Instr.wellFormed (.bufferWalk [16777215]) = true ∧
    Instr.wellFormed (.read (List.replicate 12 0)) = true := by decide

/-! ## The format (chapter 1) -/

/-- R7: the known answer of the check function. -/
theorem test_knownAnswer_value : checkOf knownAnswerInput = 0xE3069283 := by decide +kernel

/-- The table of R10. -/
theorem test_pattern_table :
    [0, 250, 251, 65535, 65536, 70000, 200000, 16777216].map patternByte = [0, 250, 0, 24, 24, 223, 207, 125] := by
  decide +kernel

/-- The example of section 1.7: F = 1,000,000 ends in chunk 15 with 16,960 bytes. -/
theorem test_final_chunk : finalIndex 1000000 = 15 ∧ chunkLength (some 1000000) 15 = 16960 ∧
    chunkLength (some 1000000) 14 = 65536 := by decide

/-- Section 4.6: the window end and the early-warning point of the first sequence. -/
theorem test_window_end :
    let c := { stream 196608 [] with w := 4 }
    c.windowEnd = 458752 ∧ c.earlyWarningPoint = 64487424 := by decide

/-- Section 4.6, steps B to D: merged lists of chunk 4, 1,144 duplicate bytes at step B. -/
theorem test_merge_sequence :
    insertRange ⟨62856, 65536⟩ [⟨0, 50000⟩, ⟨60000, 64000⟩] = [⟨0, 50000⟩, ⟨60000, 65536⟩] ∧
    heldOf ⟨62856, 65536⟩ [⟨0, 50000⟩, ⟨60000, 64000⟩] = 1144 ∧
    insertRange ⟨50000, 59216⟩ [⟨0, 50000⟩, ⟨60000, 65536⟩] = [⟨0, 59216⟩, ⟨60000, 65536⟩] ∧
    isComplete (insertRange ⟨59216, 60000⟩ [⟨0, 59216⟩, ⟨60000, 65536⟩]) 65536 = true := by decide

/-- Section 4.6, step B: the two pieces of 325,000 to 334,216. -/
theorem test_pieces : piecesOf 325000 334216 = [(325000, 327680), (327680, 334216)] := by decide

/-! ## Stream commands (section 2.6) -/

/-- Row 0 with tag 256 at way 0. -/
def rowZero : State :=
  { calm with table := [(0, ⟨true, some { stream 0 [chunkRec 0 none .empty []] with tag := 256, replyLane := some 1 }⟩)] }

/-- Step 2: OPEN 512 with W 12 and B 20 takes way 1 with W 8 and B 8. -/
theorem test_open_clamps :
    let t := after .openCmd (commanded rowZero 1 (openBytes 512 12 20 0 1000 0))
    t.responses = [⟨1, .done, 1, [1, 0, 8, 8, 0, 0, 0, 0] ++ le 8 1000 ++ le 8 0⟩] ∧ t.pool.reserve = 1 := by
  decide +kernel

/-- Step 9: a start offset at the capacity end is refused. -/
theorem test_open_badParam :
    (after .openCmd (commanded calm 1 (openBytes 768 1 1 0 1 65536))).responses = [⟨1, .badParam, 1, []⟩] := by
  decide +kernel

/-- Step 10: the records of a stream opened at 65,536 with W 4 describe chunks 1 to 4. -/
theorem test_open_window :
    (((after .openCmd (commanded calm 1 (openBytes 768 4 1 0 2 65536))).ctx? 0).map fun c =>
      (c.committed, c.window.map (·.index))) = some (65536, [4, 1, 2, 3]) := by decide +kernel

/-- Step 4: a tag in use is seen before the row is. -/
theorem test_open_tagInUse :
    (after .openCmd (commanded rowZero 1 (openBytes 256 4 1 0 9 0))).responses = [⟨1, .tagInUse, 1, []⟩] := by
  decide +kernel

/-- R26: CLOSE of a stream that is not COMPLETE. -/
theorem test_close_wrongState :
    (after .closeCmd (commanded rowZero 2 (le 4 256))).responses = [⟨2, .wrongState, 1, []⟩] := by decide +kernel

/-- A parity error met first by a lookup: the segment for tag 7 is dropped, the entry at index 15 is detached. -/
theorem test_lookup_meets_parity_error :
    let s := { holding (stream 0 [chunkRec 0 none .empty []]) [] with
      table := [(14, ⟨true, some (stream 0 [chunkRec 0 none .empty []])⟩),
                (15, ⟨false, some { stream 3276800 [chunkRec 50 none .empty []] with tag := 263 }⟩)] }
    let t := after (.segmentTake 0) (pushed s (segment 0 0 [1]))
    (t.counter (.drop .contextError)).value = 1 ∧ t.entry 14 = s.entry 14 ∧ t.entry 15 = Entry.free ∧
      kinds t = [13, 2, 3] ∧ t.errors.first = some ⟨.tableParity, some 15, none, none⟩ := by decide +kernel

/-! ## Lanes (section 3.6) -/

/-- Steps 7 to 9: a quiesced lane with 8 credits and an empty queue owes every withheld credit when it returns. -/
theorem test_lane_resumes :
    ((⟨.quiesced, .up, [], 8, 0, [], none, 511⟩ : Lane).resumed .ok).owed = 24 ∧
      (⟨.active, .up, [[1], [2]], 8, 22, [], none, 511⟩ : Lane).quieted.owed = 0 := by decide

/-- R39: LANE names a lane above 3. -/
theorem test_lane_badParam :
    (after .laneCmd (commanded calm 9 [4, 1])).responses = [⟨9, .badParam, 1, []⟩] := by decide +kernel

/-- Step 10: the device notice flag is placed with the 24 credits, in the 24 bytes of section 11.2. -/
theorem test_flag_placement :
    let s := calm.setLane 2 ⟨.active, .up, [], 8, 24, [], some .ok, 511⟩
    let t := after (.noticeTake 2) (after (.noticePlacement 2) s)
    (t.lane 2).credit = 32 ∧ t.ports.notice[2] = some ([7, 24] ++ List.replicate 22 0) := by decide +kernel

/-- Step 5: a push against no credit. -/
theorem test_push_noCredit :
    let s := calm.setLane 2 ⟨.active, .up, [], 0, 0, [], none, 511⟩
    let t := after (.pushSegment 2 [1]) s
    (t.counter (.drop .noCredit)).value = 1 ∧ t.lanes = s.lanes := by decide +kernel

/-- Lane 1 lost with work on both queues: COMMIT and the GAP at position 3 are put back, the POOL_LOW is not, and the
stream's replies go to lane 0. -/
theorem test_lost_lane_hands_back :
    let window := [chunkRec 12 none .empty [], chunkRec 13 none .empty [], chunkRec 10 none .empty [],
      chunkRec 11 none .empty []]
    let s := holding { stream 655360 window with replyLane := some 1 } []
    let t := (s.redirect (some 1) (some 0) [12, 14, 40]).putBackAll
      [⟨.commit 7 655360 917504, 0, some 14⟩, ⟨.gap 7 720896 65536, 0, some 14⟩, ⟨.pool .low, 0, none⟩]
    (t.ctx? 14).map (fun d => (d.notices, d.replyLane)) = some (⟨false, [3], true, false, false⟩, some 0) := by
  decide +kernel

/-- R149: a lost lane gives a COMPLETE stream its END and COMMIT back and not the GAP of its EMPTY head chunk; an ABORTED
stream takes the GAP (R150). -/
theorem test_complete_takes_no_gap_back :
    let lost : StreamState → Option NoticeSet := fun st =>
      let s := holding { stream 65536 [chunkRec 1 none .empty []] with state := st, final := some 65536 } []
      let t := s.putBackAll
        [⟨.gap 7 65536 65536, 0, some 14⟩, ⟨.commit 7 65536 65536, 0, some 14⟩, ⟨.ended 7 65536, 0, some 14⟩]
      (t.ctx? 14).map (·.notices)
    lost .complete = some ⟨false, [], true, true, false⟩ ∧ lost .aborted = some ⟨false, [0], true, false, false⟩ := by
  decide +kernel

/-- A lost lane is empty, without credit, and keeps its round-robin position (R50, R140). -/
theorem test_lost_lane :
    (⟨.active, .up, [[1], [2], [3], [4]], 25, 3, [], some .low, 40⟩ : Lane).lost =
      ⟨.down, .down, [], 0, 0, [], none, 40⟩ := by decide

/-! ## Placement (section 4.6) and the pool (section 5.7) -/

/-- Under pool pressure the head piece is granted a slot, the other refused with NO_SLOT for the stream alone. -/
theorem test_pool_pressure :
    let s := holding (stream 0 [chunkRec 0 none .empty [], chunkRec 1 none .empty []]) []
    let s := { s with pool := { s.pool with reserve := 2 } }
    let t := after (.segmentTake 0) (pushed s (segment 65534 0 [1, 2, 3, 4]))
    (t.ctx? 14).map (fun d => d.window.map fun r => (r.slot, r.state, r.ranges)) =
      some [(some 3, .filling, [⟨65534, 65536⟩]), (none, .empty, [])] ∧
      (t.ctx? 14).map (fun d => (d.counts.noSlot, d.counts.acceptedBytes)) = some (1, 2) ∧
      (t.counter (.drop .noSlot)).value = 0 ∧ (t.pool.free, t.pool.reserve, t.pool.spare) = (1, 1, 0) ∧
      t.byteAt 262142 = 1 ∧ t.byteAt 262143 = 2 := by decide +kernel

/-- A bare LAST at the committed offset of an empty stream completes it (R62). -/
theorem test_bare_last :
    let t := after (.segmentTake 0) (pushed (holding (stream 0 [chunkRec 0 none .empty []]) []) (segment 0 1 []))
    (t.ctx? 14).map (fun d => (d.state, d.final, d.notices.ended)) = some (.complete, some 0, true) ∧ kinds t = [1] := by
  decide +kernel

/-- Step 2 of the watermark sequence: the OPEN takes spare from 64 to 63. -/
theorem test_open_crosses_low_watermark :
    let s := { calm with pool := ⟨(List.finRange 2048).take 79, [], [], 15, .ok⟩ }
    let t := after .openCmd (commanded s 1 (openBytes 1 1 1 0 1 0))
    t.pool.state = .low ∧ (t.lane 3).flag = some .low ∧
      t.events = [⟨0, .pool .low 79 16 63 0⟩] := by decide +kernel

/-- Step 7: a low watermark of 200 clamps the high one to 201 and turns the pool low. -/
theorem test_configure_watermarks :
    let s := { calm with pool := ⟨(List.finRange 2048).take 210, [], [], 16, .ok⟩ }
    let t := after .configureCmd (commanded s 10 ([1, 0] ++ le 2 200))
    t.settings.high = 201 ∧ t.pool.state = .low ∧ kinds t = [9] := by decide +kernel

/-! ## Verification (section 6.7) -/

/-- A stream whose final chunk 0 is 8 bytes in slot 5, `number` and `check` as given, and a busy engine on it. -/
def verifying (c : Context) (chunk : List Byte) : State :=
  { holding { c with final := some 8 } [(5, .assigned 14 0)] with
    engine := some ⟨14, 0, 0, 5, 8, c.pattern⟩
    buffer := ((chunk.zipIdx 327680).filter fun x => decide (x.1 ≠ 0)).map fun x => (x.2, x.1) }

/-- The chunk of a final chunk without image bytes, numbered 0. -/
def goodChunk : List Byte := [0, 0, 0, 0] ++ le 4 (checkOf (List.replicate 8 0)).toNat

/-- Step 7: a pass in HOLD returns the stream to OPEN with an empty history. -/
theorem test_pass_in_hold :
    let c := { stream 0 [chunkRec 0 (some 5) .verifying [⟨0, 8⟩]] with
      state := .hold, history := [.pass, .pass, .pass, .fail, .fail, .fail], holdFailures := 1 }
    let t := after .verifyCompletion (verifying c goodChunk)
    (t.ctx? 14).map (fun d => (d.state, d.history, d.holdFailures)) = some (.opened, [], 0) ∧ kinds t = [5] ∧
      (t.ctx? 14).bind (fun d => d.window[0]?.map fun r => (r.state, r.check)) =
        some (.verified, some (checkOf (List.replicate 8 0))) := by decide +kernel

/-- Step 4: the second fail meets T = 2 and the stream enters HOLD, GAPs giving way to RESYNC. -/
theorem test_fail_into_hold :
    let c := { stream 0 [chunkRec 0 (some 5) .verifying [⟨0, 8⟩], chunkRec 1 (some 6) .filling [⟨0, 1⟩]] with
      history := [.pass, .pass, .pass, .fail], notices := ⟨false, [1], false, false, false⟩ }
    let t := after .verifyCompletion (verifying c [1, 0, 0, 0, 0, 0, 0, 0])
    (t.ctx? 14).map (fun d => (d.state, d.notices.resync, d.notices.gaps, d.window.map (·.state))) =
      some (.hold, true, [], [.empty, .empty]) ∧ t.events = [⟨0, .streamHold 14 7 0 2⟩] := by decide +kernel

/-- R11: a chunk of ten bytes with one wrong byte and none unreadable counts one pattern error and passes. -/
theorem test_pattern_errors :
    let c := { stream 0 [chunkRec 0 (some 5) .verifying [⟨0, 8⟩]] with pattern := true }
    let t := after .verifyCompletion (verifying c [0, 1, 2, 9, 4, 5, 6, 7])
    (t.counter .patternErrors).value = 1 ∧ (t.ctx? 14).map (fun d => d.state) = some .complete := by decide +kernel

/-- R86, R91: the abort at a fourth failure, a BUFFER_ERROR, turns the pool well; POOL_OK carries the slot retired in the
same event. -/
theorem test_abort_reports_the_retired_slot :
    let c := stream 0 [chunkRec 0 none .empty [],
      { chunkRec 1 (some 5) .verifying [⟨0, 65536⟩] with failures := 3 }]
    let s := { holding c [(5, .assigned 14 1)] with
      engine := some ⟨14, 1, 1, 5, 16, false⟩
      words := [(40960, .uncorrectable)]
      pool := ⟨[3, 4], [(5, .assigned 14 1)], [], 1, .low⟩
      settings := { Settings.default with low := 1, high := 2 } }
    let t := after .verifyCompletion s
    (t.events.map (·.event)).drop 1 = [.pool .ok 2 0 2 1, .streamAborted 14 7 .chunkUnrecoverable 0] ∧
      t.pool.use 5 = .retired := by decide +kernel

/-- A verify in flight across an abort: the stream's entries leave the queue, the others keep their order. -/
theorem test_abort_clears_queue :
    let c := stream 0 [chunkRec 0 (some 5) .verifying [], chunkRec 1 (some 6) .queued [], chunkRec 2 (some 7) .verified [],
      chunkRec 3 (some 8) .queued []]
    let s := { holding c [] with verifyQueue := [⟨14, 1⟩, ⟨50, 2⟩, ⟨14, 3⟩, ⟨61, 0⟩] }
    let t := after .abortCmd (commanded s 3 (le 4 7))
    t.verifyQueue = [⟨50, 2⟩, ⟨61, 0⟩] ∧ kinds t = [2] ∧
      (t.ctx? 14).map (fun d => d.window.map (·.state)) = some [.verifying, .empty, .verified, .empty] := by
  decide +kernel

/-! ## Drain (section 7.8) and salvage (section 9.7) -/

/-- A chunk with an offers count and a recorded check value. -/
def handed (k : Nat) (slot : Slot) (st : ChunkState) (offers : Nat) : ChunkRecord :=
  ⟨k, some slot, st, [⟨0, 65536⟩], 0, offers, some 77⟩

/-- Step 3: with the streaming flag set a run of 1 suffices; the offer of chunk 1 has tag 1,002 and block 5,016. -/
theorem test_second_offer :
    let c := { stream 0 [handed 0 200 .offered 1, handed 1 201 .verified 0, chunkRec 2 (some 202) .queued [],
      chunkRec 3 (some 203) .filling []] with streaming := true }
    let t := after .arbiterTurn { holding c [] with tagCounter := 1001 }
    t.offered.map (fun o => (o.drainTag, o.block, o.index)) = [(1002, 5016, 1)] := by decide +kernel

/-- Step 10: the completion of chunk 0 commits chunks 0 and 1 in one event. -/
theorem test_two_commit_steps :
    let c := { stream 0 [handed 0 200 .taken 1, handed 1 201 .stored 1, handed 2 202 .offered 2,
      chunkRec 3 (some 203) .filling []] with streaming := true }
    let s := { holding c [(200, .assigned 14 0), (201, .assigned 14 1), (202, .assigned 14 2)] with
      drainMap := [⟨1001, 14, 0, 2000⟩] }
    let t := after (.complete (completion 1001 1 77)) s
    (t.ctx? 14).map (fun d => (d.committed, d.window.map (·.index), d.streaming)) =
      some (131072, [4, 5, 2, 3], true) ∧ t.pool.freeList = [3, 4, 200, 201] ∧
      (t.counter .chunksCommitted).value = 2 ∧ t.drainMap = [] := by decide +kernel

/-- Step 7 of the rewrite limit: the fourth failed offer aborts with STORE_FAILED. -/
theorem test_rewrite_limit :
    let s := { holding (stream 0 [handed 0 200 .taken 4]) [(200, .assigned 14 0)] with drainMap := [⟨80, 14, 0, 2000⟩] }
    let t := after (.complete (completion 80 2 0)) s
    (t.ctx? 14).map (fun d => (d.state, d.cause)) = some (.aborted, some .storeFailed) := by decide +kernel

/-- Expiry before completion: a timeout, then a stray completion. -/
theorem test_timeout_then_stray :
    let s := { holding (stream 0 [handed 0 200 .taken 1]) [(200, .assigned 14 0)] with
      drainMap := [⟨77, 14, 0, 12000⟩], time := 12000 }
    let t := after (.complete (completion 77 1 77)) (after (.drainTimeout 77) s)
    (t.counter .timeouts).value = 1 ∧ (t.counter .strayCompletions).value = 1 ∧
      (t.ctx? 14).map (fun d => d.window.map fun r => (r.state, r.offers)) = some [(.verified, 1)] := by decide +kernel

/-- The writer goes offline: the taken chunk is VERIFIED again with no offer counted, the offered list stays. -/
theorem test_writer_offline :
    let c := { stream 0 [handed 0 200 .taken 1, handed 1 201 .offered 1] with streaming := true }
    let s := { holding c [] with
      drainMap := [⟨298, 14, 0, 2000⟩], offered := [⟨14, 1, 300, 7, 1, 9, 5016, 65536, 77⟩] }
    let t := after (.writerSignal .offline) s
    t.drainMap = [] ∧ t.offered = s.offered ∧ t.events = [⟨0, .writerChanged .offline .writerSignal⟩] ∧
      (t.ctx? 14).map (fun d => d.window.map fun r => (r.state, r.offers)) = some [(.verified, 0), (.offered, 1)] := by
  decide +kernel

/-- Step 7 of abort and salvage: the last store ends the salvage and the entry returns to FREE. -/
theorem test_salvage_ends :
    let c := { stream 1441792 [chunkRec 24 none .empty [], chunkRec 25 none .empty [], handed 22 302 .taken 2,
      chunkRec 23 (some 303) .empty []] with state := .salvaging, cause := some .hostAbort }
    let s := { holding c [(302, .assigned 14 2), (303, .assigned 14 3)] with drainMap := [⟨504, 14, 2, 2000⟩] }
    let t := after (.complete (completion 504 1 77)) s
    t.entry 14 = Entry.free ∧ t.pool.freeList = [3, 4, 302, 303] ∧
      t.events = [⟨0, .streamReleased 14 7 (some .hostAbort) 1507328⟩] := by decide +kernel

/-- R80, R156: the last chunk in flight of a RELEASING stream ends; its slot joins the free list after the slot of the
chunk below it. -/
theorem test_release_in_chunk_order :
    let c := { stream 0 [chunkRec 0 (some 5) .empty [], handed 1 6 .taken 1] with
      state := .releasing, cause := some .hostAbort }
    let s := { holding c [(5, .assigned 14 0), (6, .assigned 14 1)] with drainMap := [⟨9, 14, 1, 2000⟩] }
    let t := after (.complete (completion 9 1 77)) s
    t.pool.freeList = [3, 4, 5, 6] ∧ t.entry 14 = Entry.free := by decide +kernel

/-- R121: two RELEASING streams, the records taken A1, B2, A3; the slots join the free list in that order. -/
theorem test_withdrawal_order :
    let going := fun (tag : Nat) (window : List ChunkRecord) =>
      { stream 0 window with tag := tag, state := .releasing, cause := some .hostAbort }
    let s := { calm with
      table := [(14, ⟨true, some (going 7 [handed 0 5 .taken 1, handed 1 7 .taken 1])⟩),
                (16, ⟨true, some (going 8 [handed 0 6 .taken 1])⟩)]
      pool := ⟨[3, 4], [(5, .assigned 14 0), (6, .assigned 16 0), (7, .assigned 14 1)], [], 0, .low⟩
      drainMap := [⟨9, 14, 0, 2000⟩, ⟨10, 16, 0, 2000⟩, ⟨11, 14, 1, 2000⟩] }
    let t := after (.writerSignal .offline) s
    t.pool.freeList = [3, 4, 5, 6, 7] ∧ kinds t = [12, 3, 3] ∧ t.table = [] := by decide +kernel

/-- R119: a chunk withdrawn from the drain map while its stream is RELEASING has one offer less, as QUERY shows while the
engine holds another chunk of the stream. -/
theorem test_withdrawal_lowers_offers :
    let c := { stream 0 [handed 0 5 .taken 2, chunkRec 1 (some 6) .verifying [⟨0, 65536⟩]] with state := .releasing }
    let s := { holding c [(5, .assigned 14 0), (6, .assigned 14 1)] with
      drainMap := [⟨9, 14, 0, 2000⟩], engine := some ⟨14, 1, 1, 6, 65536, false⟩ }
    ((after (.writerSignal .offline) s).ctx? 14).map (fun d => d.window.map fun r => (r.state, r.slot, r.offers)) =
      some [(.empty, none, 1), (.verifying, some 6, 0)] := by decide +kernel

/-- An offer of chunk 0 of a stream. -/
def offerOf (i : StreamIndex) (tag : Nat) (drainTag : Word) : Offer := ⟨i, 0, drainTag, tag, 0, 9, 5000, 65536, 77⟩

/-- The records of DEVICE_ERROR (13), STREAM_ABORTED (2) and STREAM_RELEASED (3) with the streams they name. -/
def named (s : State) : List (Nat × StreamIndex) := s.events.filterMap fun e =>
  match e.event with
  | .deviceError _ (some i) _ _ _ => some (e.event.kindCode, i)
  | .streamAborted i _ _ _ => some (e.event.kindCode, i)
  | .streamReleased i _ _ _ => some (e.event.kindCode, i)
  | _ => none

/-- R164: a TAKE that meets the offers of the failing entries 14 and 2, and an arbiter turn that wraps past them, raise the
records of 2 first. -/
theorem test_records_ascend :
    let s := { calm with
      table := [(2, ⟨false, some { stream 0 [handed 0 5 .offered 1] with tag := 1 }⟩),
                (14, ⟨false, some (stream 0 [handed 0 6 .offered 1])⟩)]
      pool := ⟨[3, 4], [(5, .assigned 2 0), (6, .assigned 14 0)], [], 0, .low⟩
      offered := [offerOf 14 7 10, offerOf 2 1 11] }
    let order := [(13, (2 : StreamIndex)), (2, 2), (3, 2), (13, 14), (2, 14), (3, 14)]
    named (after .take s) = order ∧ (after .take s).ports.takeAnswer = some (2 :: List.replicate 35 0) ∧
      named (s.serveFirst (turnOrder 13)) = order := by decide +kernel

/-- R164: at a port reset the STREAM_RELEASED of the failing entry 14 waits for its place between those of 2 and 16. -/
theorem test_released_ascend :
    let going := fun (tag : Nat) (slot : Slot) =>
      { stream 0 [handed 0 slot .taken 1] with tag := tag, state := .releasing, cause := some .hostAbort }
    let s := { calm with
      table := [(2, ⟨true, some (going 1 5)⟩), (14, ⟨false, some (stream 0 [handed 0 6 .offered 1])⟩),
                (16, ⟨true, some (going 8 7)⟩)]
      pool := ⟨[3, 4], [(5, .assigned 2 0), (6, .assigned 14 0), (7, .assigned 16 0)], [], 0, .low⟩
      drainMap := [⟨9, 16, 0, 2000⟩, ⟨8, 2, 0, 2000⟩], offered := [offerOf 14 7 10] }
    named (after .portReset s) = [(13, (14 : StreamIndex)), (2, 14), (3, 2), (3, 14), (3, 16)] := by decide +kernel

/-- R124: a READ of two bytes of a taken chunk, the second its last byte. -/
theorem test_read_last_bytes :
    let s := { holding (stream 0 [handed 0 5 .taken 1]) [(5, .assigned 14 0)] with
      drainMap := [⟨9, 14, 0, 2000⟩], buffer := [(393215, 0xAB)] }
    (after (.read (le 4 9 ++ le 4 65534 ++ le 4 2)) s).ports.readAnswer = some [1, 0, 0, 0, 2, 0, 0, 0, 0, 0xAB] := by
  decide +kernel

/-! ## Control port, start-up, timers -/

/-- R161, R166: a command record that finds the queue full. -/
theorem test_command_overrun :
    let t := after (.commandWrite [1]) { calm with commands := List.replicate 16 [] }
    t.commands.length = 16 ∧ t.errors.commandOverrun = true ∧ kinds t = [13] ∧ t.interruptLine = true := by decide +kernel

/-- R162: a code that names no command, while STARTING. -/
theorem test_unknown_command :
    (after .unknownCommand (commanded State.reset 15 [])).responses = [⟨15, .unknownCommand, 1, []⟩] := by decide +kernel

/-- R174: the known answer enters READY, an inverted bit FAILED. -/
theorem test_self_test_ends :
    let s := { State.reset with device := .starting .knownAnswer, signal := .ready }
    (after (.knownAnswer 0) s).device = .ready ∧ kinds (after (.knownAnswer 0) s) = [12] ∧
      (after (.knownAnswer 1) s).device = .failed .knownAnswer := by decide +kernel

/-- R176: an answer of TAKE that carries no offer is 36 bytes, the offer's field zeros. -/
theorem test_take_offline :
    (after .take State.reset).ports.takeAnswer = some (3 :: List.replicate 35 0) := by decide +kernel

/-- R93, R174: the walk skips a retired slot. -/
theorem test_walk_skips_retired :
    let s := { State.reset with pool := ⟨[], [(5, .retired)], [], 0, .ok⟩ }
    (after (.bufferWalk [40960]) s).device = .starting .tableTest ∧
      (after (.bufferWalk [40959]) s).device = .failed .bufferWalk := by decide +kernel

/-- R34: a FREE entry with bad parity at the scrub position. -/
theorem test_scrub_free_entry :
    let t := after .scrub { calm with table := [(0, ⟨false, none⟩)] }
    t.table = [] ∧ (t.counter .tableParityErrors).value = 1 ∧ t.events = [] ∧ t.scrubPosition = 1 := by decide +kernel

/-- R169: an interval expiry moves the counts to the snapshot. -/
theorem test_interval_expiry :
    let t := after .intervalExpiry ({ calm with time := 1000 }.count .timeouts 3)
    (t.counter .timeouts).value = 0 ∧ t.snapshot[26].value = 3 ∧ t.events = [⟨1000, .interval 1 1000⟩] := by
  decide +kernel

/-- R159: an idle expiry reports a silent stream once. -/
theorem test_idle_expiry :
    let s := { holding (stream 0 [chunkRec 0 none .empty []]) [] with
      time := 5000, settings := { Settings.default with idleLimit := 5 } }
    kinds (after (.idleExpiry 14) s) = [8] ∧ kinds (after (.idleExpiry 14) (after (.idleExpiry 14) s)) = [8] := by
  decide +kernel

/-- 11.4: the 48 bytes of a POOL_LOW event record. -/
theorem test_event_bytes :
    (⟨258, .pool .low 79 16 63 0⟩ : EventRecord).bytes =
      [9, 0, 0, 0, 2, 1, 0, 0, 0, 0, 0, 0] ++ List.replicate 8 0 ++ [79, 0, 16, 0, 63, 0, 0, 0] ++
        List.replicate 20 0 := by decide +kernel

/-- R175, R93: a device reset keeps the retired slots and the drain tag counter. -/
theorem test_reset_keeps_retired :
    let s := { calm with pool := ⟨[3, 4], [(5, .retired), (6, .assigned 14 0)], [(5, true), (6, true)], 0, .low⟩, tagCounter := 9 }
    let t := after (.resetCmd ⟨Vector.replicate 4 .up, .ready⟩) (commanded s 14 [])
    t.device = .starting .bufferWalk ∧ t.tagCounter = 9 ∧ t.pool.uses = [(5, .retired)] ∧ t.pool.marks = [(5, true)] ∧
      t.pool.freeList.head? = some 0 ∧ t.responses = [⟨14, .done, 1, []⟩] := by decide +kernel

/-! ## Witnesses: states and operands that meet the hypotheses of the statements -/

/-! Each premise as a Bool, which the kernel evaluates once. -/

def servingCheck (s : State) : Bool :=
  decide (s.device = .ready ∧ s.TableWF ∧ (s.pool.state = .ok → s.settings.low ≤ s.pool.spare) ∧
    (s.pool.state = .low → s.pool.spare < s.settings.high))

theorem serving_iff (s : State) : Serving s ↔ servingCheck s = true := by
  simp only [Serving, servingCheck, decide_eq_true_eq]

def canonicalCheck (s : State) : Bool :=
  decide (Memory.wf s.buffer ∧ s.TableWF ∧ CellsWF .sound s.words ∧ CellsWF .free s.pool.uses ∧
    s.pool.marks.Pairwise fun a b => a.1 < b.1) && s.pool.marks.all fun c => c.2

theorem canonical_iff (s : State) : CanonicalForm s ↔ canonicalCheck s = true := by
  unfold CanonicalForm canonicalCheck
  rw [Bool.and_eq_true, decide_eq_true_eq, List.all_eq_true]
  constructor
  · rintro ⟨a, b, c, d, e, f⟩
    exact ⟨⟨a, b, c, d, e⟩, fun x hx => Bool.eq_true_of_not_eq_false (f x hx)⟩
  · rintro ⟨⟨a, b, c, d, e⟩, f⟩
    exact ⟨a, b, c, d, e, fun x hx => by rw [f x hx]; exact Bool.noConfusion⟩

theorem allParityGood_iff (s : State) :
    AllParityGood s ↔ decide (∀ x ∈ s.table, (s.entry x.1).parityGood = true) = true := by
  have key : ∀ (m : List (StreamIndex × Entry)) i, cellGet Entry.free m i = Entry.free ∨ ∃ x ∈ m, x.1 = i := by
    intro m i
    induction m with
    | nil => exact .inl rfl
    | cons x rest ih =>
      by_cases hi : i = x.1
      · exact .inr ⟨x, by simp, hi.symm⟩
      · rcases ih with h | ⟨y, hy, hyi⟩
        · exact .inl (by unfold cellGet; rw [if_neg hi]; exact h)
        · exact .inr ⟨y, by simp [hy], hyi⟩
  rw [decide_eq_true_eq]
  refine ⟨fun h x _ => h x.1, fun h i => ?_⟩
  rcases key s.table i with hi | ⟨x, hx, rfl⟩
  · unfold State.entry
    rw [hi]
    rfl
  · exact h x hx

theorem roomBelowHigh_iff (s : State) :
    RoomBelowHigh s ↔ decide (s.pool.state = .low → s.pool.spare + 1 < s.settings.high) = true := by
  simp only [RoomBelowHigh, decide_eq_true_eq]

theorem headCommand_iff (s : State) (code : Nat) (record : List Byte) (rest : List (List Byte)) :
    HeadCommand s code record rest ↔ decide (s.commands = record :: rest ∧ commandCode record = code ∧
      s.responses.length < Config.commandDepth) = true := by
  simp only [HeadCommand, decide_eq_true_eq]

theorem headSegment_iff (s : State) (l : LaneId) (record : List Byte) (rest : List (List Byte)) :
    HeadSegment s l record rest ↔ decide ((s.lane l).state ≠ .down ∧ (s.lane l).ingress = record :: rest) = true := by
  simp only [HeadSegment, decide_eq_true_eq]

theorem sound_iff (g : Segment) : g.Sound ↔ decide (g.payload.length = g.length ∧ g.length ≤ 9216 ∧
    (g.length = 0 → g.last = true) ∧ g.offset + g.length ≤ 2 ^ 48) = true := by
  simp only [Segment.Sound, decide_eq_true_eq]

theorem holds_iff (s : State) (i : StreamIndex) (c : Context) : Holds s i c ↔ decide (s.entry i = ⟨true, some c⟩) = true := by
  simp only [Holds, decide_eq_true_eq]

/-- The one record that waits in lane 0 of a device that serves it. -/
structure Waits (s : State) (record : List Byte) : Prop where
  head : HeadSegment s 0 record []
  serving : Serving s

theorem waits_iff (s : State) (record : List Byte) :
    Waits s record ↔ decide ((s.lane 0).state ≠ .down ∧ (s.lane 0).ingress = record :: []) = true ∧
      servingCheck s = true :=
  ⟨fun h => ⟨(headSegment_iff ..).mp h.head, (serving_iff s).mp h.serving⟩,
    fun h => ⟨(headSegment_iff ..).mpr h.1, (serving_iff s).mpr h.2⟩⟩

/-- A stream that fills chunk 0 in slot 5. -/
def filling : Context := stream 0 [chunkRec 0 (some 5) .filling [⟨0, 2⟩], chunkRec 1 none .empty []]

/-- The device with the stream that fills chunk 0. -/
def receiving : State := holding filling [(5, .assigned 14 0)]

/-- The same entry with bad parity. -/
def upset : State := { receiving with table := [(14, ⟨false, some filling⟩)] }

/-- The device with a stream that stands in `st`. -/
def standing (st : StreamState) : State := holding { filling with state := st } [(5, .assigned 14 0)]

/-- A stream with chunk 0 taken and chunk 1 offered, and the records that say so. -/
def draining (st : StreamState) : State :=
  { holding { stream 0 [handed 0 5 .taken 1, handed 1 6 .offered 1] with state := st }
      [(5, .assigned 14 0), (6, .assigned 14 1)] with
    drainMap := [⟨9, 14, 0, 2000⟩], offered := [⟨14, 1, 10, 7, 1, 9, 5016, 65536, 77⟩], tagCounter := 10 }

theorem witness_StepRunsTheFrontCommand :
    { calm with pending := [.scrub] }.pending = .scrub :: [] ∧
      (calm.pending = [] ∧ calm.disturbances = [] ∧ calm.time < Config.count64Max) ∧
      { calm with disturbances := [.correctable 0] }.disturbances = .correctable 0 :: [] := by decide +kernel

theorem witness_SenderBuiltChunkVerifies :
    ((0 : Nat) < 4294967296 ∧ (4294967295 : Nat) < 4294967296 ∧ (4294967295 : Nat) ≠ 0) ∧
      ([9] ++ le 4 0 = [] ++ 9 :: le 4 0 ∧ (9 : Byte) ≠ 8) ∧
      ∃ b suf, le 4 (checkOf ([9] ++ le 4 0 ++ [0, 0, 0, 0])).toNat = [] ++ b :: suf ∧ b ≠ ~~~b :=
  ⟨by decide +kernel, by decide +kernel, _, _, rfl, by decide +kernel⟩

theorem witness_MergedListHoldsTheUnion : (2 : Nat) < 5 ∧ RangesWF [⟨0, 2⟩, ⟨7, 9⟩] := by
  unfold RangesWF; decide

theorem witness_LookupReadsTheRow :
    receiving.TableWF ∧ (receiving.entry (wayOf 7 0)).parityGood = true ∧ (receiving.entry (wayOf 7 1)).parityGood = true ∧
      (receiving.lookup 7).2 = .found 14 filling ∧ (receiving.lookup 263).2 = .notFound ∧
      upset.TableWF ∧ (upset.entry (wayOf 7 0)).parityGood = false := by decide +kernel

theorem witness_PushSegmentTakesOrRefuses :
    ((calm.lane 3).state ≠ .down ∧ 1 ≤ (calm.lane 3).credit) ∧
    (let s := calm.setLane 3 ⟨.quiesced, .up, [], 0, 0, [], none, 511⟩
     (s.lane 3).state ≠ .down ∧ (s.lane 3).credit = 0) ∧
    (let s := calm.setLane 3 (Lane.reset .down)
     (s.lane 3).state = .down ∧ s.device = .ready) ∧
    ((State.reset.lane 3).state = .down ∧ State.reset.device ≠ .ready) := by decide +kernel

theorem witness_LinkUpBringsTheLaneUp :
    let s := receiving.setLane 3 (Lane.reset .down)
    ((s.lane 3).state = .down ∧ Serving s ∧ AllParityGood s) ∧ (s.lane 0).state ≠ .down := by
  simp only [serving_iff, allParityGood_iff]
  decide +kernel

theorem witness_LinkLossEmptiesTheLane :
    let s := (receiving.setLane 3 (Lane.reset .up)).setLane 0
      ⟨.active, .up, [[1]], 31, 0, [⟨.commit 7 0 131072, 0, some 14⟩], none, 9⟩
    let done := (standing .complete).setLane 0 ⟨.active, .up, [], 32, 0, [⟨.gap 7 0 65536, 0, some 14⟩], none, 9⟩
    (Serving done ∧ AllParityGood done ∧ (done.ctx? 14).map (·.state) = some .complete ∧
      Lost done 0 14 fun n => decide (n = .gap 7 0 65536)) ∧
    Serving s ∧ AllParityGood s ∧ (s.lane 3).state = .down ∧ (s.lane 0).state ≠ .down ∧ s.ctx? 14 = some filling ∧
      s.ctx? 15 = none := by
  simp only [serving_iff, allParityGood_iff, Lost]
  decide +kernel

theorem witness_LaneCommandMovesTheLane :
    let a := commanded receiving 9
    let q := fun link => (commanded (receiving.setLane 3 ⟨.quiesced, link, [], 8, 0, [], none, 511⟩) 9 [3, 1])
    (HeadCommand (a [3, 2]) 9 ([9, 0, 1, 0, 3, 2] ++ List.replicate 42 0) [] ∧ Serving (a [3, 2]) ∧
      AllParityGood (a [3, 2]) ∧ ((a [3, 2]).lane 3).state = .active) ∧
    (HeadCommand (a [4, 3]) 9 ([9, 0, 1, 0, 4, 3] ++ List.replicate 42 0) [] ∧ Serving (a [4, 3]) ∧
      AllParityGood (a [4, 3])) ∧
    (HeadCommand (q .up) 9 ([9, 0, 1, 0, 3, 1] ++ List.replicate 42 0) [] ∧ Serving (q .up) ∧ AllParityGood (q .up) ∧
      ((q .up).lane 3).state = .quiesced ∧ ((q .up).lane 3).link = .up) ∧
    (Serving (q .down) ∧ AllParityGood (q .down) ∧ ((q .down).lane 3).link = .down) := by
  simp only [headCommand_iff, serving_iff, allParityGood_iff]
  decide +kernel

theorem witness_RecordsDroppedAtTheLane :
    let bare := pushed receiving (segment 0 0 [])
    let far := pushed receiving (segment 281474976710655 0 [1, 2])
    let lost := pushed receiving (le 4 8 ++ List.replicate 12 0)
    Waits (pushed receiving []) [] ∧
    Waits bare (segment 0 0 []) ∧
    (Waits far (segment 281474976710655 0 [1, 2]) ∧
      2 ^ 48 < fieldAt (segment 281474976710655 0 [1, 2]) 4 6 + 2) ∧
    Waits lost (le 4 8 ++ List.replicate 12 0) ∧
    (parseSegment (segment 0 0 [1]) = some ⟨7, 0, 1, false, [1]⟩ ∧ (⟨7, 0, 1, false, [1]⟩ : Segment).Sound ∧
      (calm.lookup 7).2 = .notFound ∧ (upset.lookup 7).2 = .contextError) := by
  simp only [waits_iff, sound_iff]
  decide +kernel

theorem witness_SegmentsDroppedWhole :
    let s := pushed (standing .releasing) (segment 0 0 [1])
    let old := pushed (holding (stream 65536 [chunkRec 1 none .empty []]) []) (segment 65535 0 [1])
    let refused := pushed receiving (segment 6 1 [1])
    (Waits s (segment 0 0 [1]) ∧
      (s.lookup 7).2 = .found 14 { filling with state := .releasing }) ∧
    (Waits old (segment 65535 0 [1]) ∧
      (old.lookup 7).2 = .found 14 (stream 65536 [chunkRec 1 none .empty []])) ∧
    (Waits refused (segment 6 1 [1]) ∧ (refused.lookup 7).2 = .found 14 filling) ∧
    (parseSegment (segment 6 1 [1]) = some ⟨7, 6, 1, true, [1]⟩ ∧ (⟨7, 6, 1, true, [1]⟩ : Segment).Sound) := by
  simp only [waits_iff, sound_iff]
  decide +kernel

def nextSegmentCheck (s : State) (l : LaneId) (rest : List (List Byte)) (g : Segment) (i : StreamIndex) (c : Context) :
    Bool :=
  decide ((s.lane l).state ≠ .down ∧ (s.lane l).ingress ≠ [] ∧ (s.lane l).ingress.tail = rest ∧
    (s.lane l).ingress.head?.bind parseSegment = some g ∧
    (g.payload.length = g.length ∧ g.length ≤ 9216 ∧ (g.length = 0 → g.last = true) ∧ g.offset + g.length ≤ 2 ^ 48) ∧
    (s.lookup g.tag).2 = .found i c ∧ c.state.receiving = true)

theorem nextSegment_iff (s : State) (l : LaneId) (rest : List (List Byte)) (g : Segment) (i : StreamIndex) (c : Context) :
    NextSegment s l rest g i c ↔ nextSegmentCheck s l rest g i c = true := by
  unfold nextSegmentCheck NextSegment HeadSegment Segment.Sound
  rw [decide_eq_true_eq]
  constructor
  · rintro ⟨⟨record, ⟨hd, hr⟩, hp⟩, hs, hl, hc⟩
    rw [hr]
    exact ⟨hd, List.cons_ne_nil _ _, rfl, hp, hs, hl, hc⟩
  · rintro ⟨hd, hne, ht, hp, hs, hl, hc⟩
    obtain ⟨record, tail, hr⟩ := List.exists_cons_of_ne_nil hne
    rw [hr] at ht hp
    exact ⟨⟨record, ⟨hd, hr.trans (congrArg _ ht)⟩, hp⟩, hs, hl, hc⟩

/-- The segment of the stream at index 14, context `c`, waits alone in lane 0 of a device in canonical form. -/
structure Arrives (c : Context) (s : State) (o : Nat) (last : Bool) (payload : List Byte) : Prop where
  next : NextSegment (pushed s (segment o (if last then 1 else 0) payload)) 0 []
    ⟨7, o, payload.length, last, payload⟩ 14 c
  serving : Serving (pushed s (segment o (if last then 1 else 0) payload))
  canonical : CanonicalForm (pushed s (segment o (if last then 1 else 0) payload))

def arrivesCheck (c : Context) (s : State) (o : Nat) (last : Bool) (payload : List Byte) : Bool :=
  let s := pushed s (segment o (if last then 1 else 0) payload)
  nextSegmentCheck s 0 [] ⟨7, o, payload.length, last, payload⟩ 14 c && servingCheck s && canonicalCheck s

theorem arrives_iff (c : Context) (s : State) (o : Nat) (last : Bool) (payload : List Byte) :
    Arrives c s o last payload ↔ arrivesCheck c s o last payload = true := by
  unfold arrivesCheck
  rw [Bool.and_eq_true, Bool.and_eq_true]
  exact ⟨fun h => ⟨⟨(nextSegment_iff ..).mp h.next, (serving_iff _).mp h.serving⟩, (canonical_iff _).mp h.canonical⟩,
    fun h => ⟨(nextSegment_iff ..).mpr h.1.1, (serving_iff _).mpr h.1.2, (canonical_iff _).mpr h.2⟩⟩

theorem ringWF_iff (c : Context) :
    c.RingWF ↔ decide (∀ j, j < c.w → (c.window[c.posOf (c.head + j)]?).map (·.index) = some (c.head + j)) = true := by
  simp only [Context.RingWF, decide_eq_true_eq, Option.map_eq_some_iff]

/-- A store without listed words is sound. -/
theorem wordsSound_of_none (s : State) (c : Context) (x y : Nat) (h : s.words = []) : WordsSound s c x y :=
  fun _ _ _ _ _ => by rw [h]; exact WordCondition.noConfusion

theorem lastPieceFits_iff (s : State) (c : Context) (g : Segment) (h : s.words = []) :
    LastPieceFits s c g ↔
      let k := (g.offset + g.length - 1) / 65536
      decide (0 < g.length ∧ c.committed ≤ g.offset ∧ 65536 * k ≤ g.offset ∧
        g.offset + g.length ≤ c.committed + 65536 * c.w ∧ k < c.head + c.w ∧
        (c.window[c.posOf k]?).any (fun r => decide (r.slot.isSome = true ∧ r.takesBytes = true ∧
          (insertRange g.piece r.ranges).length ≤ 8)) = true) = true := by
  simp only [LastPieceFits, decide_eq_true_eq, Option.any_eq_true]
  exact ⟨fun ⟨a, b, c, d, e, _, f⟩ => ⟨a, b, c, d, e, f⟩,
    fun ⟨a, b, c, d, e, f⟩ => ⟨a, b, c, d, e, wordsSound_of_none _ _ _ _ h, f⟩⟩

/-- One byte at the window end of a stream, set by the window, the capacity or F, and two across a capacity end that the
committed offset has reached. -/
theorem witness_SegmentBeyondTheWindow :
    let beyond := fun (c : Context) (o : Nat) (payload : List Byte) =>
      Arrives c (holding c [(5, .assigned 14 0)]) o false payload ∧ c.committed < o + payload.length ∧
        c.windowEnd ≤ max o c.committed ∧ (c.windowEnd ≤ o ∨ c.windowEnd = c.committed)
    beyond filling 131072 [1] ∧ beyond { filling with cap := 1 } 65536 [1] ∧
      beyond { filling with final := some 65544 } 65544 [1] ∧
      beyond { stream 65536 [chunkRec 1 none .empty []] with cap := 1 } 65535 [1, 2] := by
  simp only [arrives_iff]
  decide +kernel

theorem witness_FinalEndAtTheCommittedOffsetCompletes :
    let c := stream 65536 [chunkRec 1 (some 5) .empty []]
    Arrives c (holding c [(5, .assigned 14 0)]) 65535 true [1] ∧ c.final = none ∧ c.committed % 65536 = 0 ∧
      c.highestHeld = c.committed ∧ c.committed ≤ 65536 * c.cap := by
  simp only [arrives_iff]
  decide +kernel

/-- A LAST flag that is new: F is not known, F keeps the three rules of R61, the records describe the window. -/
structure FixesF (c : Context) (o : Nat) (payload : List Byte) : Prop where
  arrives : Arrives c (holding c [(5, .assigned 14 0)]) o true payload
  ring : c.RingWF
  bounds : c.final = none ∧ ¬(1 ≤ (o + payload.length) % 65536 ∧ (o + payload.length) % 65536 ≤ 7) ∧
    c.committed < o + payload.length ∧ c.highestHeld ≤ o + payload.length ∧ o + payload.length ≤ 65536 * c.cap

theorem fixesF_iff (c : Context) (o : Nat) (payload : List Byte) :
    FixesF c o payload ↔ Arrives c (holding c [(5, .assigned 14 0)]) o true payload ∧ c.RingWF ∧
      (c.final = none ∧ ¬(1 ≤ (o + payload.length) % 65536 ∧ (o + payload.length) % 65536 ≤ 7) ∧
        c.committed < o + payload.length ∧ c.highestHeld ≤ o + payload.length ∧ o + payload.length ≤ 65536 * c.cap) :=
  ⟨fun h => ⟨h.arrives, h.ring, h.bounds⟩, fun h => ⟨h.1, h.2.1, h.2.2⟩⟩

/-- A bare LAST, one whose byte lies beyond the window, one whose ten bytes are a piece of the final chunk, and a bare
LAST that repeats F. -/
theorem witness_LastFlagFixesTheFinalEnd :
    let known := { filling with final := some 9 }
    FixesF filling 16 [] ∧
    (FixesF filling 131080 [1] ∧ filling.committed + 65536 * filling.w ≤ 131080) ∧
    (FixesF filling 2 (List.replicate 10 1) ∧
      LastPieceFits (holding filling [(5, .assigned 14 0)]) filling ⟨7, 2, 10, true, List.replicate 10 1⟩) ∧
    Arrives known (holding known []) 9 true [] ∧ known.RingWF := by
  simp only [fixesF_iff, arrives_iff, ringWF_iff, lastPieceFits_iff _ _ _ (show (holding _ _).words = [] from rfl)]
  decide +kernel

/-- A piece of two bytes at offset `o` for a stream that fills chunk 0. -/
structure PieceFor (c : Context) (s : State) (o : Nat) (r : ChunkRecord) : Prop where
  arrives : Arrives c s o false [1, 2]
  piece : OnePiece ⟨7, o, 2, false, [1, 2]⟩ c r

theorem pieceFor_iff (c : Context) (s : State) (o : Nat) (r : ChunkRecord) :
    PieceFor c s o r ↔ arrivesCheck c s o false [1, 2] = true ∧ OnePiece ⟨7, o, 2, false, [1, 2]⟩ c r :=
  ⟨fun h => ⟨(arrives_iff ..).mp h.arrives, h.piece⟩, fun h => ⟨(arrives_iff ..).mpr h.1, h.2⟩⟩

/-- The bytes of a segment that reach the window go to records with a slot each, a ninth range nowhere. -/
def readyCheck (c : Context) (o n : Nat) : Bool :=
  let x := max o c.committed
  let y := min (o + n) c.windowEnd
  let record : Nat → ChunkRecord := fun k => (c.window[c.posOf k]?).getD (.fresh k)
  let chunks := (x / 65536) :: (if x / 65536 < (y - 1) / 65536 then [(y - 1) / 65536] else [])
  let piece : Nat → Range := fun k => ⟨max x (65536 * k) - 65536 * k, min y (65536 * (k + 1)) - 65536 * k⟩
  decide (x < y ∧ (∀ k ∈ chunks, (c.window[c.posOf k]?).isSome = true ∧ (record k).slot.isSome = true ∧
    (∀ r ∈ (record k).ranges, r.start < r.stop) ∧ ((record k).ranges.Pairwise fun a b => a.stop < b.start) ∧
    ((record k).takesBytes = true → (insertRange (piece k) (record k).ranges).length ≤ 8)) ∧
    (chunks.map fun k => (record k).slot).Nodup)

/-- Chunk 0 becomes complete; a piece passes the early-warning point of a stream of one chunk; two pieces, the second of a
record in QUEUED; a byte below the window, a tail beyond the capacity end; a LAST flag that repeats F. -/
theorem witness_PlacedBytesAreWritten :
    let places := fun (c : Context) (o : Nat) (last : Bool) (payload : List Byte) =>
      Arrives c (holding c [(5, .assigned 14 0)]) o last payload ∧ 0 < payload.length ∧
        (last = true → c.final = some (o + payload.length)) ∧ readyCheck c o payload.length = true
    places { filling with final := some 8 } 4 false [1, 2, 3, 4] ∧
    places (stream 0 [chunkRec 0 (some 5) .filling [⟨0, 65534⟩]]) 65534 false [1, 2] ∧
    places (stream 0 [chunkRec 0 (some 5) .filling [⟨0, 2⟩], chunkRec 1 (some 6) .queued [⟨0, 65536⟩]]) 65534 false
      [1, 2, 3, 4] ∧
    places (stream 65536 [chunkRec 1 (some 5) .filling [⟨0, 2⟩]]) 65534 false [1, 2, 3, 4] ∧
    places { filling with cap := 1 } 65534 false [1, 2, 3, 4] ∧
    places { filling with final := some 12 } 8 true [1, 2, 3, 4] ∧
    ∀ s c x y, s.words = [] → WordsSound s c x y := by
  simp only [arrives_iff]
  refine ⟨by decide +kernel, by decide +kernel, by decide +kernel, by decide +kernel, by decide +kernel, by decide +kernel,
    wordsSound_of_none⟩

theorem witness_PartialWriteChecksEcc :
    let c := { filling with earlyWarningIssued := true }
    let s := holding c [(5, .assigned 14 0)]
    PieceFor c s 2 (chunkRec 0 (some 5) .filling [⟨0, 2⟩]) ∧
    PieceFor c { s with words := [(40960, .uncorrectable)] } 2 (chunkRec 0 (some 5) .filling [⟨0, 2⟩]) := by
  simp only [pieceFor_iff, OnePiece]
  decide +kernel

/-- Two bytes below and two above the end of chunk 0, of records with a slot each or none. -/
structure TwoPiecesFor (c : Context) (s : State) : Prop where
  arrives : Arrives c s 65534 false [1, 2, 3, 4]
  pieces : ∃ a b, TwoPieces ⟨7, 65534, 4, false, [1, 2, 3, 4]⟩ c a b ∧
    (a.slot = none → 65534 / 65536 = c.head → 1 ≤ s.pool.reserve)

def ranged (r : ChunkRecord) : Bool :=
  r.takesBytes && decide ((∀ x ∈ r.ranges, x.start < x.stop) ∧ (r.ranges.Pairwise fun a b => a.stop < b.start) ∧
    (r.slot = none → r.state = .empty ∧ r.ranges = []))

theorem twoPiecesFor_of (c : Context) (s : State) (a b : ChunkRecord) (h : arrivesCheck c s 65534 false [1, 2, 3, 4] = true)
    (w : (c.window[c.posOf 0]? = some a ∧ c.window[c.posOf 1]? = some b ∧ c.posOf 0 ≠ c.posOf 1 ∧ c.committed ≤ 65534 ∧
      65538 ≤ c.windowEnd ∧ 1 ≤ s.pool.reserve) ∧ ranged a = true ∧ ranged b = true) : TwoPiecesFor c s := by
  obtain ⟨⟨wa, wb, hp, hc, he, hr⟩, ra, rb⟩ := w
  simp only [ranged, Bool.and_eq_true, decide_eq_true_eq] at ra rb
  exact ⟨(arrives_iff ..).mpr h, a, b,
    ⟨rfl, hc, he, rfl, hp, wa, wb, ra.1, rb.1, ⟨ra.2.1, ra.2.2.1⟩, ⟨rb.2.1, rb.2.2.1⟩, ra.2.2.2, rb.2.2.2⟩, fun _ _ => hr⟩

/-- Both pieces are granted a slot; the upper finds none spare; either would make a ninth range. -/
theorem witness_PieceAsksForASlotTwice :
    let reserving := fun (s : State) => { s with pool := { s.pool with reserve := 1 } }
    let tight := fun (s : State) => { s with pool := { s.pool with freeList := [3], reserve := 1 } }
    let none' := stream 0 [chunkRec 0 none .empty [], chunkRec 1 none .empty []]
    let full := (List.range 8).map fun j => (⟨4 * j + 9, 4 * j + 10⟩ : Range)
    let low := stream 0 [chunkRec 0 (some 5) .filling full, chunkRec 1 none .empty []]
    let high := stream 0 [chunkRec 0 none .empty [], chunkRec 1 (some 6) .filling full]
    TwoPiecesFor none' (reserving (holding none' [])) ∧ TwoPiecesFor none' (tight (holding none' [])) ∧
      TwoPiecesFor low (reserving (holding low [(5, .assigned 14 0)])) ∧
      TwoPiecesFor high (reserving (holding high [(6, .assigned 14 1)])) ∧
      ∀ s c x y, s.words = [] → WordsSound s c x y := by
  refine ⟨twoPiecesFor_of _ _ _ _ ?_ ⟨⟨rfl, rfl, ?_⟩, ?_⟩, twoPiecesFor_of _ _ _ _ ?_ ⟨⟨rfl, rfl, ?_⟩, ?_⟩,
    twoPiecesFor_of _ _ _ _ ?_ ⟨⟨rfl, rfl, ?_⟩, ?_⟩, twoPiecesFor_of _ _ _ _ ?_ ⟨⟨rfl, rfl, ?_⟩, ?_⟩, wordsSound_of_none⟩ <;>
    decide +kernel

theorem witness_PieceAsksForASlot :
    let c := stream 0 [chunkRec 0 none .empty [], chunkRec 1 none .empty []]
    let s := holding c []
    let tight := { s with pool := { s.pool with freeList := [3], reserve := 1 } }
    let eight := stream 0 [chunkRec 0 (some 5) .filling ((List.range 8).map fun j => ⟨4 * j, 4 * j + 1⟩)]
    PieceFor c s 0 (chunkRec 0 none .empty []) ∧
    PieceFor c s 65536 (chunkRec 1 none .empty []) ∧ 1 ≤ s.pool.spare ∧
    PieceFor c tight 65536 (chunkRec 1 none .empty []) ∧ tight.pool.spare = 0 ∧
    PieceFor eight (holding eight [(5, .assigned 14 0)]) 40
      (chunkRec 0 (some 5) .filling ((List.range 8).map fun j => ⟨4 * j, 4 * j + 1⟩)) := by
  simp only [pieceFor_iff, OnePiece]
  decide +kernel

/-- A lane that owes `owed` credits with one record in its queue or none. -/
def owing (owed : Nat) (flag : Option PoolState) (ingress : List (List Byte)) : State :=
  calm.setLane 3 ⟨.active, .up, ingress, 32 - owed - ingress.length, owed, [], flag, 511⟩

theorem witness_FlagFirstAndCreditLast :
    ((owing 0 (some .low) []).lane 3).flag = some .low ∧
    (Serving (owing 8 none [[1]]) ∧ AllParityGood (owing 8 none [[1]])) ∧
    (Serving (owing 1 none []) ∧ AllParityGood (owing 1 none [])) ∧
    (Serving (owing 7 none [[1]]) ∧ AllParityGood (owing 7 none [[1]])) ∧
    calm.table = [] ∧ ((calm.setLane 3 (Lane.reset .up)).lane 3).state ≠ .active := by
  simp only [serving_iff, allParityGood_iff]
  decide +kernel

/-- A stream with these items pending, whose notices go to lane 0. -/
def noticing (n : NoticeSet) : Context := { filling with notices := n }

/-- The first stream of a turn that starts after position 13. -/
theorem turnOrder_from_13 : ∃ rest, turnOrder 13 = [] ++ 14 :: rest :=
  ⟨_, (List.cons_head?_tail (show (14 : StreamIndex) ∈ (turnOrder 13).head? by decide +kernel)).symm⟩

theorem witness_StreamTurnEmitsOneItem :
    let s := fun n => (holding (noticing n) []).setLane 0 ⟨.active, .up, [], 32, 0, [], none, 13⟩
    let waits := fun n => (Serving (s n) ∧ AllParityGood (s n) ∧ (s n).ctx? 14 = some (noticing n) ∧ n ≠ NoticeSet.none ∧
      ((s n).lane 0).turn = 13)
    waits ⟨true, [1], true, false, true⟩ ∧ waits ⟨false, [0, 1], true, false, false⟩ ∧
    waits ⟨false, [], true, true, false⟩ ∧ waits ⟨false, [], false, false, true⟩ := by
  simp only [serving_iff, allParityGood_iff]
  decide +kernel

theorem witness_StreamTurnEmits :
    Emits (noticing ⟨true, [1], true, false, true⟩) .low (.resync 7 0) ⟨false, [1], true, false, true⟩ ∧
    Emits (noticing ⟨false, [0, 1], true, false, false⟩) .low (.gap 7 0 65536) ⟨false, [1], true, false, false⟩ ∧
    Emits (noticing ⟨false, [], true, true, false⟩) .low (.commit 7 0 65536) ⟨false, [], false, true, false⟩ ∧
    Emits { noticing ⟨false, [], false, true, false⟩ with final := some 0 } .low (.ended 7 0)
      ⟨false, [], false, false, false⟩ ∧
    Emits (noticing ⟨false, [], false, false, true⟩) .low (.stop 7 0 none) ⟨false, [], false, false, false⟩ := by
  refine ⟨.inl (by decide +kernel), .inr (.inl ⟨rfl, 0, [1], _, rfl, rfl, by decide +kernel, rfl⟩), .inr (.inr (.inl (by decide +kernel))),
    .inr (.inr (.inr (.inl ⟨rfl, rfl, rfl, rfl, ⟨0, rfl, rfl⟩, rfl⟩))), .inr (.inr (.inr (.inr (by decide +kernel))))⟩

theorem witness_StreamTurnAdvertises :
    { filling with state := .aborted }.state.receiving = false ∧ filling.state.receiving = true ∧
      ∀ r ∈ filling.window, r.slot.isSome = true → 65536 * (r.index + 1) ≤ 65536 := by decide +kernel

theorem witness_ArbiterOffersTheFrontier :
    let c := { stream 0 [handed 0 5 .verified 1, handed 1 6 .verified 0] with streaming := true }
    let s := { holding c [] with arbiter := 13 }
    (Serving s ∧ AllParityGood s ∧ s.drainLoad < 128 ∧ s.ctx? 14 = some c ∧ c.offerable = true ∧
      c.frontier = some (0, handed 0 5 .verified 1)) ∧ State.reset.device ≠ .ready := by
  simp only [serving_iff, allParityGood_iff]
  decide +kernel

theorem witness_TakeHandsOverTheHeadOffer :
    let s := draining .opened
    (Serving s ∧ s.signal = .ready ∧ s.offered = ⟨14, 1, 10, 7, 1, 9, 5016, 65536, 77⟩ :: [] ∧
      Holds s 14 (stream 0 [handed 0 5 .taken 1, handed 1 6 .offered 1])) ∧ (Serving calm ∧ calm.offered = []) ∧
      State.reset.signal = .offline := by
  simp only [serving_iff, holds_iff]
  decide +kernel

theorem witness_ReadServesTheChunksBytes :
    let s := draining .opened
    let bad := { s with words := [(49151, .uncorrectable)] }
    (s.drainRecord (BitVec.ofNat 32 (fieldAt (le 4 9 ++ le 4 65535 ++ le 4 1) 0 4)) = some ⟨9, 14, 0, 2000⟩ ∧ Serving s ∧
      CanonicalForm s ∧ Holds s 14 (stream 0 [handed 0 5 .taken 1, handed 1 6 .offered 1]) ∧
      s.pool.slotOf 14 0 = some 5) ∧ (Serving bad ∧ CanonicalForm bad ∧ bad.condition 5 8191 = .uncorrectable) ∧
      s.drainRecord 8 = none := by
  simp only [serving_iff, canonical_iff, holds_iff]
  decide +kernel

/-- A completion, status 1 and check value 77, of the chunk that `m` names on a device with this context at index 14. -/
structure Stored (s : State) (m : DrainRecord) (c : Context) (r : ChunkRecord) : Prop where
  named : s.drainRecord (BitVec.ofNat 32 (fieldAt (completion 9 1 77) 0 4)) = some m ∧ fieldAt (completion 9 1 77) 4 1 = 1 ∧
    r.check = some (BitVec.ofNat 32 (fieldAt (completion 9 1 77) 8 4)) ∧ m.stream = 14 ∧ c.window[m.pos]? = some r ∧
    (c.state.receiving = true ∨ c.state = .aborted ∨ c.state = .salvaging)
  serving : Serving s
  canonical : CanonicalForm s
  held : Holds s 14 c

def storedCheck (s : State) (m : DrainRecord) (c : Context) (r : ChunkRecord) : Bool :=
  decide (s.drainRecord (BitVec.ofNat 32 (fieldAt (completion 9 1 77) 0 4)) = some m ∧ fieldAt (completion 9 1 77) 4 1 = 1 ∧
    r.check = some (BitVec.ofNat 32 (fieldAt (completion 9 1 77) 8 4)) ∧ m.stream = 14 ∧ c.window[m.pos]? = some r ∧
    (c.state.receiving = true ∨ c.state = .aborted ∨ c.state = .salvaging)) && servingCheck s && canonicalCheck s &&
    decide (s.entry 14 = ⟨true, some c⟩)

theorem stored_iff (s : State) (m : DrainRecord) (c : Context) (r : ChunkRecord) :
    Stored s m c r ↔ storedCheck s m c r = true := by
  simp only [storedCheck, Bool.and_eq_true, decide_eq_true_eq]
  exact ⟨fun h => ⟨⟨⟨h.named, (serving_iff s).mp h.serving⟩, (canonical_iff s).mp h.canonical⟩, h.held⟩,
    fun h => ⟨h.1.1.1, (serving_iff s).mpr h.1.1.2, (canonical_iff s).mpr h.1.2, h.2⟩⟩

def commitsCheck (s : State) (c : Context) (pos n : Nat) : Bool :=
  decide ((n = 0 ∧ pos ≠ c.posOf c.head ∧ c.headStored = false) ∨
    (pos = c.posOf c.head ∧ 1 ≤ n ∧ n ≤ c.w ∧ c.committed % 65536 = 0 ∧
      (∀ j, j < n → (c.window[c.posOf (c.head + j)]?).any (fun x =>
        decide (x.slot.isSome = true ∧ s.pool.slotOf 14 (c.posOf (c.head + j)) = x.slot ∧ (1 ≤ j → x.state = .stored))) =
          true) ∧
      (n < c.w → ∀ x ∈ c.window[c.posOf (c.head + n)]?, x.state ≠ .stored) ∧
      ∀ f ∈ c.final, f = 0 ∨ c.head + n ≤ (f - 1) / 65536 + 1))

theorem commits_iff (s : State) (c : Context) (pos n : Nat) :
    s.Commits 14 c pos n ↔ commitsCheck s c pos n = true := by
  have swap : (∀ x, n < c.w → c.window[c.posOf (c.head + n)]? = some x → x.state ≠ .stored) ↔
      (n < c.w → ∀ x, c.window[c.posOf (c.head + n)]? = some x → x.state ≠ .stored) := ⟨fun h a b => h b a, fun h a b => h b a⟩
  simp only [commitsCheck, State.Commits, decide_eq_true_eq, Option.any_eq_true, Option.mem_def, swap]

/-- A chunk above the head; one step, of an aborted stream too; two steps; the final chunk; the last chunk of a
salvage. -/
theorem witness_StoredHeadCommitsInOrder :
    let c := stream 0 [handed 0 5 .taken 1, handed 1 6 .offered 1]
    let s := fun (pos : Nat) (c : Context) =>
      { holding c [(5, .assigned 14 0), (6, .assigned 14 1)] with drainMap := [⟨9, 14, pos, 2000⟩] }
    let r := handed 0 5 .taken 1
    let above := stream 0 [handed 0 5 .verified 1, handed 1 6 .taken 1]
    let two := stream 0 [r, handed 1 6 .stored 1]
    let salvage := { stream 0 [r, chunkRec 1 (some 6) .empty []] with state := .salvaging, cause := some .hostAbort }
    (Stored (s 1 above) ⟨9, 14, 1, 2000⟩ above (handed 1 6 .taken 1) ∧ (s 1 above).Commits 14 above 1 0) ∧
    (Stored (s 0 c) ⟨9, 14, 0, 2000⟩ c r ∧ (s 0 c).Commits 14 c 0 1) ∧
    (let x := { c with state := .aborted }; Stored (s 0 x) ⟨9, 14, 0, 2000⟩ x r ∧ (s 0 x).Commits 14 x 0 1) ∧
    (Stored (s 0 two) ⟨9, 14, 0, 2000⟩ two r ∧ (s 0 two).Commits 14 two 0 2) ∧
    (let x := { c with final := some 65536 }; Stored (s 0 x) ⟨9, 14, 0, 2000⟩ x r ∧ (s 0 x).Commits 14 x 0 1) ∧
    (Stored (s 0 salvage) ⟨9, 14, 0, 2000⟩ salvage r ∧ (s 0 salvage).Commits 14 salvage 0 1 ∧ (s 0 salvage).engine = none ∧
      ((s 0 salvage).drainMap.filter fun x => decide (x.drainTag ≠ 9)) = []) := by
  simp only [stored_iff, commits_iff]
  decide +kernel

/-- The drain map record with tag 9 names chunk 0 of the stream at index 14. -/
structure Holding (s : State) : Prop where
  named : s.drainRecord 9 = some ⟨9, 14, 0, 2000⟩ ∧ (s.entry 14).parityGood = true ∧ s.pool.slotOf 14 0 = some 5 ∧
    ((s.ctx? 14).bind (·.window[0]?)).isSome = true
  serving : Serving s
  canonical : CanonicalForm s

theorem holding_iff (s : State) :
    Holding s ↔ (decide (s.drainRecord 9 = some ⟨9, 14, 0, 2000⟩ ∧ (s.entry 14).parityGood = true ∧
      s.pool.slotOf 14 0 = some 5 ∧ ((s.ctx? 14).bind (·.window[0]?)).isSome = true) && servingCheck s &&
      canonicalCheck s) = true := by
  simp only [Bool.and_eq_true, decide_eq_true_eq]
  exact ⟨fun h => ⟨⟨h.named, (serving_iff s).mp h.serving⟩, (canonical_iff s).mp h.canonical⟩,
    fun h => ⟨h.1.1, (serving_iff s).mpr h.1.2, (canonical_iff s).mpr h.2⟩⟩

/-- Nothing is left to drain when chunk 0 goes back to VERIFIED with a fourth offer behind it, or is EMPTY. -/
def leftWith (st : StreamState) (r : ChunkRecord) : Context := { stream 0 [r, chunkRec 1 none .empty []] with state := st }

theorem salvageOver_iff (c : Context) :
    c.SalvageOver ↔ (decide (c.state = .salvaging ∧ c.readyRun = []) &&
      c.window.all fun x => decide (x.state ≠ .verifying ∧ x.state ≠ .offered ∧ x.state ≠ .taken)) = true := by
  simp only [Context.SalvageOver, Bool.and_eq_true, decide_eq_true_eq, List.all_eq_true, and_assoc]

/-- A tag with a record and one without; a stream in OPEN, ABORTED and SALVAGING; a salvage that goes on and one that is
over, its chunk 1 behind an EMPTY chunk 0. -/
theorem witness_StoreFailureReturnsTheChunk :
    let above := { stream 0 [chunkRec 0 (some 6) .empty [], handed 1 5 .taken 1] with state := .salvaging }
    let last := { holding above [(5, .assigned 14 1), (6, .assigned 14 0)] with drainMap := [⟨9, 14, 1, 2000⟩] }
    (Holding (draining .opened) ∧ (draining .opened).drainRecord 8 = none ∧ (draining .opened).time < 2000) ∧
    Holding { draining .aborted with time := 2000 } ∧ Holding (draining .salvaging) ∧
    ¬(leftWith .salvaging (handed 0 5 .verified 1)).SalvageOver ∧
    (Serving last ∧ CanonicalForm last ∧ last.drainRecord 9 = some ⟨9, 14, 1, 2000⟩ ∧ Holds last 14 above ∧
      Context.SalvageOver { above with window := above.window.set 1 (handed 1 5 .verified 1) } ∧ last.engine = none ∧
      (last.drainMap.filter fun y => decide (y.drainTag ≠ 9)) = []) ∧
    fieldAt (completion 9 9 0) 4 1 = 9 ∧ fieldAt (completion 9 3 0) 4 1 = 3 := by
  simp only [holding_iff, serving_iff, canonical_iff, holds_iff, salvageOver_iff]
  decide +kernel

/-- TARGET_FULL, a failed write, another check value and an expiry, at the fourth offer of a stream in OPEN; in SALVAGING
with another chunk in flight and without. -/
theorem witness_StorageFailureAborts :
    let m : DrainRecord := ⟨9, 14, 0, 2000⟩
    let r := handed 0 5 .taken 4
    let s := fun (st : StreamState) (others : List DrainRecord) =>
      { holding { stream 0 [r] with state := st } [(5, .assigned 14 0)] with drainMap := m :: others, time := 2000 }
    let fails := fun (t : State) => t.drainRecord m.drainTag = some m ∧ Serving t ∧ CanonicalForm t ∧ RoomBelowHigh t ∧
      (t.ctx? 14).isSome = true ∧ (t.entry 14).parityGood = true ∧ (t.ctx? 14).bind (·.window[m.pos]?) = some r
    let record := fun (status : Byte) (check : Nat) => m.drainTag = BitVec.ofNat 32 (fieldAt (completion 9 status check) 0 4)
    fails (s .opened []) ∧ fails (s .salvaging [⟨10, 14, 0, 3000⟩]) ∧ fails (s .salvaging []) ∧
      (record 3 0 ∧ fieldAt (completion 9 3 0) 4 1 = 3) ∧
      (record 2 0 ∧ fieldAt (completion 9 2 0) 4 1 ∉ [1, 3, 4]) ∧
      (record 1 78 ∧ fieldAt (completion 9 1 78) 4 1 = 1 ∧
        r.check ≠ some (BitVec.ofNat 32 (fieldAt (completion 9 1 78) 8 4))) ∧
      m.expiry ≤ (s .opened []).time ∧ 4 ≤ r.offers := by
  simp only [serving_iff, canonical_iff, roomBelowHigh_iff]
  decide +kernel

/-- POISONED for the first time with room to retire the slot and without; for the fourth; in ABORTED and SALVAGING, a salvage
that goes on with its offered chunk and one that is over. -/
theorem witness_PoisonedCompletionRefetches :
    let tight := fun (s : State) => { s with pool := { s.pool with reserve := 2 } }
    let fourth := fun (st : StreamState) =>
      { holding (leftWith st { handed 0 5 .taken 1 with failures := 3 }) [(5, .assigned 14 0)] with
        drainMap := [⟨9, 14, 0, 2000⟩] }
    (Holding (draining .hold) ∧ (draining .hold).pool.reserve + 1 ≤ (draining .hold).pool.free) ∧
    (Holding (tight (draining .hold)) ∧ ¬(tight (draining .hold)).pool.reserve + 1 ≤ (tight (draining .hold)).pool.free) ∧
    (Holding (fourth .opened) ∧ RoomBelowHigh (fourth .opened)) ∧ Holding (fourth .aborted) ∧
    (Holding (draining .salvaging) ∧
      ¬Context.SalvageOver { stream 0 [chunkRec 0 none .empty [], handed 1 6 .offered 1] with state := .salvaging }) ∧
    (Holding (fourth .salvaging) ∧ (leftWith .salvaging (chunkRec 0 none .empty [])).SalvageOver ∧
      (fourth .salvaging).engine = none ∧ ((fourth .salvaging).drainMap.filter fun y => decide (y.drainTag ≠ 9)) = []) ∧
    (BitVec.ofNat 32 (fieldAt (completion 9 4 0) 0 4) = 9 ∧ fieldAt (completion 9 4 0) 4 1 = 4) := by
  simp only [holding_iff, roomBelowHigh_iff, salvageOver_iff]
  decide +kernel

/-- Chunk 0 of a RELEASING stream ends with chunk 1 still taken, and as the last in flight. -/
theorem witness_ReleasingChunkGivesItsSlotUp :
    let s := draining .releasing
    let more := { s with drainMap := s.drainMap ++ [⟨10, 14, 1, 3000⟩] }
    Holding { s with time := 2000 } ∧ Holding more ∧ s.engine = none ∧
      (s.drainMap.filter fun y => decide (y.drainTag ≠ 9)) = [] ∧
      (∃ y ∈ more.drainMap.filter (fun y => decide (y.drainTag ≠ 9)), y.stream = 14) ∧
      ∀ z, s.pool.use z = .assigned 14 0 ↔ z = 5 := by
  simp only [holding_iff]
  refine ⟨by decide +kernel, by decide +kernel, rfl, by decide +kernel, by decide +kernel, fun z => ?_⟩
  by_cases h5 : z = 5 <;> by_cases h6 : z = 6 <;> simp_all [draining, holding, Pool.use, cellGet]

/-- A device that serves, whose two lists name live streams that are not COMPLETE. -/
structure Withdraws (s : State) : Prop where
  serving : Serving s
  canonical : CanonicalForm s
  live : ∀ i, ((∃ m ∈ s.drainMap, m.stream = i) ∨ ∃ o ∈ s.offered, o.stream = i) → ∃ c, Holds s i c ∧ c.state ≠ .complete

theorem withdraws_iff (s : State) :
    Withdraws s ↔ servingCheck s = true ∧ canonicalCheck s = true ∧
      (s.drainMap.map (·.stream) ++ s.offered.map (·.stream)).all (fun i => (s.entry i).parityGood &&
        (s.entry i).ctx.any fun c => decide (c.state ≠ .complete)) = true := by
  have entry : ∀ i, (∃ c, Holds s i c ∧ c.state ≠ .complete) ↔ ((s.entry i).parityGood &&
      (s.entry i).ctx.any fun c => decide (c.state ≠ .complete)) = true := fun i => by
    unfold Holds
    rw [Bool.and_eq_true, Option.any_eq_true]
    rcases s.entry i with ⟨parity, ctx⟩
    simp only [Entry.mk.injEq, decide_eq_true_eq]
    exact ⟨fun ⟨c, h, hc⟩ => ⟨h.1, c, h.2, hc⟩, fun ⟨h, c, hc, hn⟩ => ⟨c, ⟨h, hc⟩, hn⟩⟩
  simp only [List.all_eq_true, ← entry, List.mem_append, List.mem_map]
  exact ⟨fun h => ⟨(serving_iff s).mp h.serving, (canonical_iff s).mp h.canonical, h.live⟩,
    fun h => ⟨(serving_iff s).mpr h.1, (canonical_iff s).mpr h.2.1, h.2.2⟩⟩

/-- A stream in every state that may have chunks with the writer, RELEASING with the engine busy on it and not, under a
writer that is ready or offline; a device that is not READY. -/
theorem witness_WriterStateAndWithdrawals :
    let busy : EngineOp := ⟨14, 0, 0, 5, 8, false⟩
    let offline := fun (s : State) => { s with signal := .offline }
    Withdraws (draining .opened) ∧ Withdraws (draining .aborted) ∧ Withdraws (draining .salvaging) ∧
      Withdraws (draining .releasing) ∧ Withdraws { draining .releasing with engine := some busy } ∧
      Withdraws (offline (draining .opened)) ∧ Withdraws (offline (draining .releasing)) ∧
      (draining .opened).signal = .ready ∧ (offline calm).device = .ready ∧
      State.reset.device ≠ .ready ∧ State.reset.offered = [] ∧ State.reset.drainMap = [] := by
  simp only [withdraws_iff]
  decide +kernel

theorem witness_EngineTakesTheHeadEntry :
    let c := stream 0 [chunkRec 0 (some 5) .queued [⟨0, 65536⟩]]
    let s := { holding c [(5, .assigned 14 0)] with verifyQueue := [⟨14, 0⟩] }
    Serving s ∧ s.engine = none ∧ Holds s 14 c ∧ calm.verifyQueue = [] := by
  simp only [serving_iff, holds_iff]
  decide +kernel

/-- The device that verifies chunk 0, 8 bytes long, of a stream in `st` with `failures` failures so far. -/
def engaged (st : StreamState) (failures hold : Nat) (bytes : List Byte) : State :=
  verifying { stream 0 [{ chunkRec 0 (some 5) .verifying [⟨0, 8⟩] with failures := failures }] with
    state := st, holdFailures := hold } bytes

/-- The engine's operation on it. -/
def operation : EngineOp := ⟨14, 0, 0, 5, 8, false⟩

/-- The verify of the chunk ends, and its bytes are sound (`right`) or are not. -/
structure Reads (s : State) (right : Bool) : Prop where
  busy : s.engine = some operation
  serving : Serving s
  canonical : CanonicalForm s
  readable : s.condition 5 0 ≠ .uncorrectable ∧ s.pool.slotOf 14 0 = some 5 ∧ (s.ctx? 14).isSome = true
  result : decide (chunkCheck (s.slotBytes 5 0 8) = trailerCheck (s.slotBytes 5 0 8) ∧
    trailerNumber (s.slotBytes 5 0 8) = 0 % 4294967296) = right

theorem reads_iff (s : State) (right : Bool) :
    Reads s right ↔ s.engine = some operation ∧ Serving s ∧ CanonicalForm s ∧
      (s.condition 5 0 ≠ .uncorrectable ∧ s.pool.slotOf 14 0 = some 5 ∧ (s.ctx? 14).isSome = true) ∧
      decide (chunkCheck (s.slotBytes 5 0 8) = trailerCheck (s.slotBytes 5 0 8) ∧
        trailerNumber (s.slotBytes 5 0 8) = 0 % 4294967296) = right :=
  ⟨fun h => ⟨h.busy, h.serving, h.canonical, h.readable, h.result⟩, fun h => ⟨h.1, h.2.1, h.2.2.1, h.2.2.2.1, h.2.2.2.2⟩⟩

theorem witness_SoundChunkPasses :
    Reads (engaged .opened 0 0 goodChunk) true ∧ Reads (engaged .hold 2 2 goodChunk) true := by
  simp only [reads_iff, serving_iff, canonical_iff]
  decide +kernel

theorem witness_FailedChunkIsFetchedAgain :
    Reads (engaged .opened 2 0 [1]) false ∧ Reads (engaged .hold 2 1 [1]) false ∧
      Reads (verifying { stream 0 [chunkRec 0 (some 5) .verifying [⟨0, 8⟩]] with t := 1 } [1]) false := by
  simp only [reads_iff, serving_iff, canonical_iff]
  decide +kernel

theorem witness_FailureLimitsAbort :
    Reads (engaged .opened 3 0 [1]) false ∧ RoomBelowHigh (engaged .opened 3 0 [1]) ∧
      Reads (engaged .hold 2 2 [1]) false ∧ RoomBelowHigh (engaged .hold 2 2 [1]) := by
  simp only [reads_iff, serving_iff, canonical_iff, roomBelowHigh_iff]
  decide +kernel

/-- The first word of the chunk has an uncorrectable error: in OPEN, in HOLD, at the fourth failure and at the third hold
failure. -/
theorem witness_BufferErrorSendsTheSlotToRetirement :
    let s := fun (st : StreamState) (failures hold : Nat) =>
      { engaged st failures hold [1] with words := [(40960, .uncorrectable)] }
    let meets := fun (t : State) => t.engine = some operation ∧ Serving t ∧ CanonicalForm t ∧ RoomBelowHigh t ∧
      t.pool.slotOf 14 0 = some 5 ∧ t.condition 5 0 = .uncorrectable ∧ (t.entry 14).parityGood = true ∧
      ((t.ctx? 14).bind fun c => (c.window[0]?).map (·.slot)) = some (some 5)
    meets (s .opened 0 0) ∧ meets (s .hold 2 1) ∧ meets (s .opened 3 0) ∧ meets (s .hold 2 2) := by
  simp only [serving_iff, canonical_iff, roomBelowHigh_iff]
  decide +kernel

/-- The verify of a pattern chunk ends, and n commit steps follow. -/
structure Compares (s : State) (c : Context) (o : EngineOp) (n : Nat) : Prop where
  engine : s.engine = some o ∧ o.pattern = true ∧ o.stream = 14 ∧ (c.state.receiving = true ∨ c.state = .aborted) ∧
    (c.window[o.pos]?).isSome = true
  serving : Serving s
  canonical : CanonicalForm s
  held : Holds s 14 c
  commits : s.Commits 14 c o.pos n

def comparesCheck (s : State) (c : Context) (o : EngineOp) (n : Nat) : Bool :=
  decide (s.engine = some o ∧ o.pattern = true ∧ o.stream = 14 ∧ (c.state.receiving = true ∨ c.state = .aborted) ∧
    (c.window[o.pos]?).isSome = true) && servingCheck s && canonicalCheck s && decide (s.entry 14 = ⟨true, some c⟩) &&
    commitsCheck s c o.pos n

theorem compares_iff (s : State) (c : Context) (o : EngineOp) (n : Nat) :
    Compares s c o n ↔ comparesCheck s c o n = true := by
  simp only [comparesCheck, Bool.and_eq_true, decide_eq_true_eq]
  exact ⟨fun h => ⟨⟨⟨⟨h.engine, (serving_iff s).mp h.serving⟩, (canonical_iff s).mp h.canonical⟩, h.held⟩,
      (commits_iff ..).mp h.commits⟩,
    fun h => ⟨h.1.1.1.1, (serving_iff s).mpr h.1.1.1.2, (canonical_iff s).mpr h.1.1.2, h.1.2, (commits_iff ..).mpr h.2⟩⟩

/-- Above the head, and at the head: one step, two, the final chunk; an ABORTED stream; an uncorrectable word. -/
theorem witness_PatternChunkIsCompared :
    let pattern := fun (c : Context) => { c with pattern := true }
    let s := fun (c : Context) (pos : Nat) =>
      { holding c [(5, .assigned 14 0), (6, .assigned 14 1)] with
        engine := some ⟨14, pos, pos, if pos = 0 then 5 else 6, 8, true⟩, words := [(40960, .uncorrectable)] }
    let compares := fun (c : Context) (pos n : Nat) =>
      Compares (s c pos) c ⟨14, pos, pos, if pos = 0 then 5 else 6, 8, true⟩ n
    let r := chunkRec 0 (some 5) .verifying [⟨0, 8⟩]
    let one := pattern (stream 0 [r, chunkRec 1 none .empty []])
    compares (pattern (stream 0 [chunkRec 0 none .empty [], chunkRec 1 (some 6) .verifying [⟨0, 8⟩]])) 1 0 ∧
      compares one 0 1 ∧ compares (pattern (stream 0 [r, handed 1 6 .stored 0])) 0 2 ∧
      compares { one with final := some 8 } 0 1 ∧ compares { one with state := .aborted } 0 1 := by
  simp only [compares_iff]
  decide +kernel

/-- The engine's operation on chunk 0, in slot 5, ends. -/
structure Ends (s : State) : Prop where
  engine : s.engine = some operation ∧ s.pool.slotOf 14 0 = some 5 ∧ (s.entry 14).parityGood = true ∧
    ((s.ctx? 14).bind (·.window[0]?)).isSome = true
  serving : Serving s
  canonical : CanonicalForm s

def endsCheck (s : State) : Bool :=
  decide (s.engine = some operation ∧ s.pool.slotOf 14 0 = some 5 ∧ (s.entry 14).parityGood = true ∧
    ((s.ctx? 14).bind (·.window[0]?)).isSome = true) && servingCheck s && canonicalCheck s

theorem ends_iff (s : State) : Ends s ↔ endsCheck s = true := by
  simp only [endsCheck, Bool.and_eq_true, decide_eq_true_eq]
  exact ⟨fun h => ⟨⟨h.engine, (serving_iff s).mp h.serving⟩, (canonical_iff s).mp h.canonical⟩,
    fun h => ⟨h.1.1, (serving_iff s).mpr h.1.2, (canonical_iff s).mpr h.2⟩⟩

/-- An outcome finds chunk 0 of its stream in ABORTED, SALVAGING or RELEASING: a pass, a fail, an uncorrectable word; a
salvage that ends (chunk 0 EMPTY) and one that does not (VERIFIED); with a drain map record of the stream and without. -/
theorem witness_OutcomeOfAStoppedStream :
    let upset := fun (s : State) => { s with words := [(40960, .uncorrectable)] }
    let run := fun (st : ChunkState) => (stream 0 [chunkRec 0 (some 5) st []]).readyRun
    (Reads (engaged .aborted 0 0 goodChunk) true ∧ Reads (engaged .aborted 0 0 [1]) false ∧
      Reads (engaged .salvaging 0 0 goodChunk) true ∧ Reads (engaged .salvaging 0 0 [1]) false) ∧
    (Ends (upset (engaged .aborted 0 0 [1])) ∧ (upset (engaged .aborted 0 0 [1])).condition 5 0 = .uncorrectable) ∧
    (Ends (engaged .releasing 0 0 [1]) ∧ (engaged .releasing 0 0 [1]).drainMap = []) ∧
    Ends { upset (engaged .releasing 0 0 [1]) with drainMap := [⟨9, 14, 0, 2000⟩] } ∧
    run .empty = [] ∧ run .verified ≠ [] := by
  simp only [ends_iff, reads_iff, serving_iff, canonical_iff]
  decide +kernel

theorem witness_QueuesTakeAndGiveTheirOldest :
    calm.commands.length < 16 ∧ 16 ≤ { calm with commands := List.replicate 16 [] }.commands.length ∧
      calm.responses = [] ∧ calm.events = [] ∧ (calm.lane 3).output = [] ∧
      ((calm.setLane 3 ⟨.active, .up, [], 32, 0, [⟨.credit, 8, none⟩], none, 511⟩).lane 3).output =
        ⟨.credit, 8, none⟩ :: [] := by decide +kernel

/-- The command record that `commanded` puts at the head. -/
def headRecord (code : Byte) (parameters : List Byte) : List Byte :=
  [code, 0, 1, 0] ++ parameters ++ List.replicate (44 - parameters.length) 0

theorem witness_OpenWritesTheContext :
    let s := commanded calm 1 (openBytes 7 255 255 255 (2 ^ 64 - 1) 65536)
    let two := commanded receiving 1 (openBytes 263 1 0 0 1 0)
    (HeadCommand s 1 (headRecord 1 (openBytes 7 255 255 255 (2 ^ 64 - 1) 65536)) [] ∧ Serving s ∧
      (s.lookup 7).2 = .notFound ∧ s.ctx? (wayOf 7 0) = none ∧ 1 ≤ s.pool.spare) ∧
    (HeadCommand two 1 (headRecord 1 (openBytes 263 1 0 0 1 0)) [] ∧ Serving two ∧ (two.lookup 263).2 = .notFound ∧
      two.ctx? (wayOf 263 1) = none ∧ two.ctx? (wayOf 263 0) ≠ none) := by
  simp only [headCommand_iff, serving_iff]
  decide +kernel

theorem witness_OpenRefusesInOrder :
    let ask := fun (s : State) (start : Nat) => commanded s 1 (openBytes 7 1 1 1 1 start)
    let full := { calm with table := [(14, ⟨true, some { filling with tag := 263 }⟩),
      (15, ⟨true, some { filling with tag := 519 }⟩)] }
    let dry := { calm with pool := { calm.pool with reserve := 2 } }
    (HeadCommand (ask calm 65536) 1 (headRecord 1 (openBytes 7 1 1 1 1 65536)) [] ∧ Serving (ask calm 65536)) ∧
    (HeadCommand (ask upset 0) 1 (headRecord 1 (openBytes 7 1 1 1 1 0)) [] ∧ Serving (ask upset 0) ∧
      ((ask upset 0).lookup 7).2 = .contextError) ∧
    (HeadCommand (ask receiving 0) 1 (headRecord 1 (openBytes 7 1 1 1 1 0)) [] ∧ Serving (ask receiving 0) ∧
      ((ask receiving 0).lookup 7).2 = .found 14 filling) ∧
    (HeadCommand (ask full 0) 1 (headRecord 1 (openBytes 7 1 1 1 1 0)) [] ∧ Serving (ask full 0) ∧
      ((ask full 0).lookup 7).2 = .notFound ∧ (ask full 0).ctx? (wayOf 7 0) ≠ none ∧
      (ask full 0).ctx? (wayOf 7 1) ≠ none) ∧
    (HeadCommand (ask dry 0) 1 (headRecord 1 (openBytes 7 1 1 1 1 0)) [] ∧ Serving (ask dry 0) ∧
      ((ask dry 0).lookup 7).2 = .notFound ∧ (ask dry 0).ctx? (wayOf 7 0) = none ∧ (ask dry 0).pool.spare = 0) := by
  simp only [headCommand_iff, serving_iff]
  decide +kernel

theorem witness_HostCommandsTurnedAway :
    (1, Instr.openCmd) ∈ guardedCommands ∧ calm.commands = [] ∧
    (HeadCommand (commanded State.reset 12 []) 12 (headRecord 12 []) [] ∧ State.reset.device ≠ .ready) ∧
    HeadCommand (commanded State.reset 0 []) 0 (headRecord 0 []) [] ∧
    HeadCommand (commanded State.reset 15 []) 15 (headRecord 15 []) [] ∧
    (HeadCommand (commanded calm 2 (le 4 7)) 2 (headRecord 2 (le 4 7)) [] ∧ Serving (commanded calm 2 (le 4 7)) ∧
      ((commanded calm 2 (le 4 7)).lookup (fieldAt (headRecord 2 (le 4 7)) 4 4)).2 = .notFound) ∧
    (HeadCommand (commanded upset 8 (le 4 7)) 8 (headRecord 8 (le 4 7)) [] ∧ Serving (commanded upset 8 (le 4 7)) ∧
      ((commanded upset 8 (le 4 7)).lookup (fieldAt (headRecord 8 (le 4 7)) 4 4)).2 = .contextError) := by
  simp only [headCommand_iff, serving_iff]
  decide +kernel

/-- A command that names the stream of `s` by its tag, and finds it. -/
structure Finds (s : State) (code : Byte) (c : Context) : Prop where
  head : HeadCommand (commanded s code (le 4 7)) code.toNat (headRecord code (le 4 7)) []
  serving : Serving (commanded s code (le 4 7))
  canonical : CanonicalForm (commanded s code (le 4 7))
  room : RoomBelowHigh (commanded s code (le 4 7))
  found : ((commanded s code (le 4 7)).lookup (fieldAt (headRecord code (le 4 7)) 4 4)).2 = .found 14 c

theorem finds_iff (s : State) (code : Byte) (c : Context) :
    Finds s code c ↔
      HeadCommand (commanded s code (le 4 7)) code.toNat (headRecord code (le 4 7)) [] ∧
      Serving (commanded s code (le 4 7)) ∧ CanonicalForm (commanded s code (le 4 7)) ∧
      RoomBelowHigh (commanded s code (le 4 7)) ∧
      ((commanded s code (le 4 7)).lookup (fieldAt (headRecord code (le 4 7)) 4 4)).2 = .found 14 c :=
  ⟨fun h => ⟨h.head, h.serving, h.canonical, h.room, h.found⟩, fun h => ⟨h.1, h.2.1, h.2.2.1, h.2.2.2.1, h.2.2.2.2⟩⟩

theorem witness_CloseAndAbortEndTheStream :
    Finds (standing .complete) 2 { filling with state := .complete } ∧ Finds receiving 2 filling ∧ Finds receiving 3 filling ∧
      Finds (standing .hold) 3 { filling with state := .hold } ∧
      Finds (standing .aborted) 3 { filling with state := .aborted } ∧
      Finds (standing .releasing) 3 { filling with state := .releasing } := by
  simp only [finds_iff, headCommand_iff, serving_iff, canonical_iff, roomBelowHigh_iff]
  decide +kernel

theorem witness_ReleaseReturnsTheEntry :
    let c := { filling with state := .aborted }
    Finds (standing .aborted) 4 c ∧ Finds (standing .aborted) 5 c ∧ c.readyRun = [] ∧
      (∀ r ∈ c.window, r.state ≠ .verifying ∧ r.state ≠ .offered ∧ r.state ≠ .taken) ∧
      (standing .aborted).engine = none ∧ (standing .aborted).drainMap = [] := by
  simp only [finds_iff, headCommand_iff, serving_iff, canonical_iff, roomBelowHigh_iff]
  decide +kernel

theorem witness_SalvageAndReleaseMoveTheStream :
    let c := { stream 0 [handed 0 5 .taken 1, handed 1 6 .offered 1] with state := .aborted }
    Finds (draining .aborted) 5 c ∧ (∃ r ∈ c.window, r.state = .taken) ∧ Finds (draining .aborted) 4 c ∧
      (∃ m ∈ (draining .aborted).drainMap, m.stream = 14) ∧
      Finds (standing .releasing) 4 { filling with state := .releasing } ∧
      Finds (holding { filling with state := .aborted, pattern := true } []) 5
        { filling with state := .aborted, pattern := true } := by
  simp only [finds_iff, headCommand_iff, serving_iff, canonical_iff, roomBelowHigh_iff]
  decide +kernel

theorem witness_ExtendAndFlushWhileReceiving :
    let record := headRecord 6 (le 4 7 ++ List.replicate 16 0 ++ le 8 1000 ++ le 8 1000)
    let t := { receiving with commands := [record] }
    (HeadCommand t 6 record [] ∧ Serving t ∧ (t.lookup (fieldAt record 4 4)).2 = .found 14 filling ∧
      filling.cap ≤ min (fieldAt record 24 8) (2 ^ 32)) ∧ Finds receiving 6 filling ∧ Finds receiving 7 filling ∧
      Finds (standing .complete) 7 { filling with state := .complete } := by
  simp only [finds_iff, headCommand_iff, serving_iff, canonical_iff, roomBelowHigh_iff]
  decide +kernel

theorem witness_ReportsChangeNothing :
    HeadCommand (commanded State.reset 13 []) 13 (headRecord 13 []) [] ∧
      (HeadCommand (commanded calm 11 []) 11 (headRecord 11 []) [] ∧ Serving (commanded calm 11 [])) ∧
      Finds receiving 8 filling := by
  simp only [finds_iff, headCommand_iff, serving_iff, canonical_iff, roomBelowHigh_iff]
  decide +kernel

theorem witness_ClearErrorsReportsAndClears :
    HeadCommand (commanded calm 12 []) 12 (headRecord 12 []) [] ∧ Serving (commanded calm 12 []) ∧
      calm.errors.first = none ∧
      (calm.noteError .commandOverrun none none none).errors.first = some ⟨.commandOverrun, none, none, none⟩ := by
  simp only [headCommand_iff, serving_iff]
  decide +kernel

theorem witness_ConfigureClampsAndTests :
    let parameters := le 2 31 ++ le 2 1025 ++ le 2 0 ++ le 2 0 ++ le 2 3601 ++ le 2 0
    let s := commanded receiving 10 parameters
    let marks := commanded receiving 10 (le 2 3 ++ le 2 0 ++ le 2 1)
    (HeadCommand s 10 (headRecord 10 parameters) [] ∧ Serving s ∧ AllParityGood s ∧ s.settings.InRange) ∧
    (HeadCommand marks 10 (headRecord 10 (le 2 3 ++ le 2 0 ++ le 2 1)) [] ∧ Serving marks ∧ AllParityGood marks ∧
      marks.settings.InRange) := by
  simp only [headCommand_iff, serving_iff, AllParityGood, Settings.InRange]
  decide +kernel

theorem witness_ResetsRestartTheDevice :
    let s := commanded { receiving with pool := { receiving.pool with marks := [(5, true)] } } 14 []
    HeadCommand s 14 (headRecord 14 []) [] ∧ CanonicalForm s := by
  simp only [headCommand_iff, canonical_iff]
  decide +kernel

theorem witness_SelfTestLeadsToReady :
    let walk := { State.reset with pool := ⟨[], [(5, .retired)], [], 0, .ok⟩ }
    let last := { State.reset with
      device := .starting .knownAnswer, pool := ⟨(List.finRange 2048).take 64, [], [], 0, .ok⟩ }
    (walk.device = .starting .bufferWalk ∧ CanonicalForm walk ∧ walk.pool.use 5 = .retired ∧ (5 : Slot).val = 40960 / 8192) ∧
    (last.device = .starting .knownAnswer ∧ last.table = [] ∧ last.events = [] ∧ last.settings = .default ∧
      (∀ l, (last.lane l).state = .down) ∧ last.pool.state = .ok ∧ 64 ≤ last.pool.spare) := by
  simp only [canonical_iff]
  decide +kernel

/-- A good entry, a FREE one and a live one with bad parity: with a chunk in flight and without, RELEASING already and
not. -/
theorem witness_ScrubChecksTheEntry :
    let free := { calm with table := [(0, ⟨false, none⟩)] }
    let live := fun (s : State) (st : StreamState) =>
      { s with scrubPosition := 14, table := [(14, ⟨false, some { filling with state := st }⟩)] }
    let stands := fun (s : State) (st : StreamState) => Serving (live s st) ∧ CanonicalForm (live s st) ∧
      (live s st).entry 14 = ⟨false, some { filling with state := st }⟩
    (Serving calm ∧ (calm.entry 0).parityGood = true) ∧ (Serving free ∧ free.entry 0 = ⟨false, none⟩) ∧
      (stands (draining .opened) .opened ∧ stands (draining .opened) .releasing ∧
        ∃ m ∈ (draining .opened).drainMap, m.stream = 14) ∧
      (stands receiving .opened ∧ stands receiving .releasing ∧ receiving.engine = none ∧ receiving.drainMap = []) := by
  simp only [serving_iff, canonical_iff]
  decide +kernel

theorem witness_TimersActWhenDue :
    let s := { receiving with time := 5000, settings := { Settings.default with idleLimit := 5 } }
    (Serving s ∧ Holds s 14 filling ∧ filling.lastArrival + 1000 * s.settings.idleLimit ≤ s.time) ∧
      (Serving { s with time := 4999 } ∧ ({ s with time := 4999 } : State).ctx? 14 = some filling) ∧
      s.intervalStart + 1000 * s.settings.intervalLength ≤ s.time ∧
      calm.time < calm.intervalStart + 1000 * calm.settings.intervalLength := by
  simp only [serving_iff, holds_iff]
  decide +kernel

theorem witness_RecordsReadBack :
    (2 ^ 32 - 1 : Nat) < 2 ^ 32 ∧ (2 ^ 48 - 1 : Nat) < 2 ^ 48 ∧ (2 ^ 16 - 1 : Nat) < 2 ^ 16 ∧
      (2 ^ 64 - 1 : Nat) < 2 ^ 64 := by decide

/-- The reset state, whose idle step is a step. -/
theorem witness_invariants :
    step State.reset = .next State.reset.idle ∧ CanonicalForm State.reset ∧ QueueBounds State.reset ∧
      State.reset.tagsPresent.Nodup ∧ State.reset.settings.InRange ∧ PoolFollowsSpare State.reset := by
  refine ⟨rfl, ?_⟩
  simp only [canonical_iff, QueueBounds, Settings.InRange, PoolFollowsSpare]
  decide +kernel

theorem witness_StepKeepsSlotPartition : State.reset.pool.Partition ∧ step State.reset = .next State.reset.idle :=
  ⟨Pool.reset_partition, rfl⟩

theorem witness_StepKeepsCreditAccounts :
    CreditAccounts calm ∧ RestsUnlessReady calm ∧ step calm = .next calm.idle :=
  ⟨fun _ => by simp [calm, State.lane, Lane.Account, Config.laneCredits], fun h => absurd rfl h, rfl⟩

theorem witness_StepKeepsBoundsAndTags :
    State.reset.live.Saturating ∧ State.reset.snapshot.Saturating := by
  constructor <;> intro k <;> simp [State.reset, CounterSet.zero]

/-- The pool after its first grant, to chunk 0 of the stream at index 14. -/
def granted : Pool := { Pool.reset with freeList := Pool.reset.freeList.tail, uses := [(0, .assigned 14 0)] }

theorem granted_partition : granted.Partition :=
  Pool.assign_partition (i := 14) (pos := 0) (slot := 0) Pool.reset_partition (by decide +kernel)

/-- A stream whose chunk 0 holds the slot the pool records for it, and a command that runs. -/
theorem witness_CommandsKeepRecordsSound :
    let s := { holding (stream 0 [chunkRec 0 (some 0) .filling [⟨0, 2⟩]]) [] with pool := granted }
    CanonicalForm s ∧ s.pool.Partition ∧ RecordsSound s ∧ ∃ t, exec .scrub s = .next t := by
  refine ⟨(canonical_iff _).mpr (by decide +kernel), granted_partition, ⟨fun slot i pos => ?_, fun i c h => ?_,
    fun h => absurd rfl h⟩, _, rfl⟩
  · by_cases hs : slot = 0 <;> by_cases hi : i = 14 <;> rcases pos with _ | pos <;>
      simp [hs, hi, granted, holding, State.ctx?, State.entry, Pool.use, cellGet, Entry.free, stream, chunkRec, eq_comm]
  · by_cases hi : i = 14 <;> simp [holding, State.ctx?, State.entry, cellGet, hi, Entry.free] at h
    subst h
    unfold Context.Sound RangesWF
    rw [ringWF_iff]
    decide +kernel

theorem witness_ProgressNeverReverses :
    receiving.TableWF ∧ (∀ i c, receiving.ctx? i = some c → c.Aligned) ∧ receiving.ctx? 14 = some filling ∧
      ∃ t, exec .scrub receiving = .next t ∧ t.ctx? 14 = some filling := by
  refine ⟨by decide +kernel, fun i c h => ?_, by decide +kernel, _, rfl, by decide +kernel⟩
  by_cases hi : i = 14 <;> simp [receiving, holding, State.ctx?, State.entry, cellGet, hi, Entry.free] at h
  subst h
  exact Or.inl rfl

end Sys2Proof.Tests
end

section
/-! # The backup transfer format: the check value, the trailer, the pattern (O4, O5) -/

namespace Sys2Proof.Machine

/-! ## The pattern byte (R10) -/

/-- Both operands of the XOR are below 256, so the byte holds all of it. -/
theorem patternByte_toNat (x : Nat) : (patternByte x).toNat = (x % 251) ^^^ ((x / 65536) % 256) := by
  have hlt : (x % 251) ^^^ ((x / 65536) % 256) < 2 ^ 8 :=
    Nat.xor_lt_two_pow (by have := Nat.mod_lt x (show 251 > 0 by decide); omega) (Nat.mod_lt _ (by decide))
  exact Nat.mod_eq_of_lt hlt

/-! ## Numbers stored least significant byte first -/

@[simp] theorem le_length (n v : Nat) : (le n v).length = n := by
  induction n generalizing v with
  | zero => rfl
  | succ n ih => simp [le, ih]

theorem leNat_le (n v : Nat) : leNat (le n v) = v % 256 ^ n := by
  induction n generalizing v with
  | zero => simp [le, leNat, Nat.mod_one]
  | succ n ih =>
    rw [le, leNat, ih, BitVec.toNat_ofNat, Nat.pow_succ' (m := 256), Nat.mod_mul]

theorem leNat_lt (l : List Byte) : leNat l < 256 ^ l.length := by
  induction l with
  | nil => simp [leNat]
  | cons b l ih =>
    have := b.isLt
    rw [leNat, List.length_cons, Nat.pow_succ']
    omega

/-- Records of one length that spell one number are one record. -/
theorem leNat_injective : ∀ {l m : List Byte}, l.length = m.length → leNat l = leNat m → l = m
  | [], [], _, _ => rfl
  | a :: l, b :: m, hlen, h => by
    have ha := a.isLt
    have hb := b.isLt
    rw [leNat, leNat] at h
    have hab : a = b := BitVec.eq_of_toNat_eq (by omega)
    rw [hab, leNat_injective (Nat.succ.inj hlen) (by omega : leNat l = leNat m)]

/-! ## The check register (R6) -/

/-- What a bit that differs from the register's lowest adds to the shifted register. -/
def constantIf (differs : Bool) : Word := if differs then checkConstant else 0

theorem constantIf_xor (p q : Bool) : constantIf (p ^^ q) = constantIf p ^^^ constantIf q := by
  cases p <;> cases q <;> decide

/-- A bit and the register enter linearly. -/
theorem checkBit_eq (reg : Word) (bit : Bool) : checkBit reg bit = (reg >>> 1) ^^^ constantIf (bit ^^ reg.getLsbD 0) := by
  unfold checkBit constantIf
  cases bit <;> cases reg.getLsbD 0 <;> simp

theorem checkBit_xor (a b : Word) (p q : Bool) : checkBit (a ^^^ b) (p ^^ q) = checkBit a p ^^^ checkBit b q := by
  simp only [checkBit_eq, BitVec.ushiftRight_xor_distrib, BitVec.getLsbD_xor, constantIf_xor]
  ac_rfl

theorem checkByte_xor (a b : Word) (x y : Byte) : checkByte (a ^^^ b) (x ^^^ y) = checkByte a x ^^^ checkByte b y := by
  unfold checkByte
  generalize List.range 8 = bits
  induction bits generalizing a b with
  | nil => rfl
  | cons j bits ih =>
    rw [List.foldl_cons, List.foldl_cons, List.foldl_cons, BitVec.getLsbD_xor, checkBit_xor]
    exact ih _ _

/-- The constant has its top bit set and a shifted register has not, so no other register than 0 is brought to 0. -/
theorem checkBit_zero {reg : Word} (h : checkBit reg false = 0) : reg = 0 := by
  rw [checkBit_eq, Bool.false_xor] at h
  unfold constantIf at h
  split_ifs at h with hb
  · have := congrArg (·.getLsbD 31) h
    simp [checkConstant] at this
  · replace h : reg >>> 1 = 0 := by simpa using h
    refine BitVec.eq_of_getLsbD_eq fun j _ => ?_
    cases j with
    | zero => simpa using hb
    | succ j => simpa [Nat.add_comm] using congrArg (·.getLsbD j) h

theorem checkByte_zero {reg : Word} (h : checkByte reg 0 = 0) : reg = 0 := by
  unfold checkByte at h
  generalize List.range 8 = bits at h
  induction bits generalizing reg with
  | nil => exact h
  | cons j bits ih => exact checkBit_zero (by simpa using ih h)

theorem checkByte_zero_register : ∀ b : Byte, checkByte 0 b = 0 → b = 0 := by decide +kernel

/-- Two registers that one byte brings to one register are one. -/
theorem checkByte_register_injective (b : Byte) : Function.Injective (checkByte · b) := fun r q h => by
  have : checkByte (r ^^^ q) (b ^^^ b) = 0 := by rw [checkByte_xor]; simp [show checkByte r b = checkByte q b from h]
  exact BitVec.xor_eq_zero_iff.mp (checkByte_zero (by simpa using this))

/-- Two bytes that bring one register to one register are one. -/
theorem checkByte_byte_injective (reg : Word) : Function.Injective (checkByte reg) := fun x y h => by
  have : checkByte (reg ^^^ reg) (x ^^^ y) = 0 := by rw [checkByte_xor, h]; simp
  exact BitVec.xor_eq_zero_iff.mp (checkByte_zero_register _ (by simpa using this))

theorem foldl_checkByte_injective (bytes : List Byte) : Function.Injective (bytes.foldl checkByte ·) := by
  induction bytes with
  | nil => exact fun _ _ h => h
  | cons b bytes ih => exact ih.comp (checkByte_register_injective b)

/-- One wrong byte changes the check. -/
theorem checkOf_wrong_byte (pre suf : List Byte) {b b' : Byte} (h : b ≠ b') :
    checkOf (pre ++ b' :: suf) ≠ checkOf (pre ++ b :: suf) := fun e => h <| by
  simp only [checkOf, List.foldl_append, List.foldl_cons] at e
  exact (checkByte_byte_injective _ (foldl_checkByte_injective suf (BitVec.not_inj.mp e))).symm

/-! ## The trailer (R5) -/

theorem chunkCheck_append (body trailer : List Byte) (h : trailer.length = 4) :
    chunkCheck (body ++ trailer) = checkOf (body ++ [0, 0, 0, 0]) := by
  simp [chunkCheck, h, List.replicate]

theorem trailerCheck_append (body trailer : List Byte) (h : trailer.length = 4) :
    trailerCheck (body ++ trailer) = BitVec.ofNat 32 (leNat trailer) := by
  have : (body ++ trailer).length - 4 = body.length := by simp [h]
  rw [trailerCheck, fieldAt, this, List.drop_left, ← h, List.take_length]

theorem trailerNumber_append (image number check : List Byte) (hn : number.length = 4) (hc : check.length = 4) :
    trailerNumber (image ++ number ++ check) = leNat number := by
  have : (image ++ number ++ check).length - 8 = image.length := by simp; omega
  rw [trailerNumber, fieldAt, this, List.append_assoc, List.drop_left, ← hn, List.take_left]

theorem ofNat_leNat_le (check : Word) : BitVec.ofNat 32 (leNat (le 4 check.toNat)) = check := by
  rw [leNat_le, Nat.mod_eq_of_lt (by exact check.isLt), BitVec.ofNat_toNat, BitVec.setWidth_eq]

/-- Stored check bytes with one of them wrong spell another check value. -/
theorem ofNat_leNat_ne {l m : List Byte} (hl : l.length = 4) (hm : m.length = 4) (h : l ≠ m) :
    BitVec.ofNat 32 (leNat l) ≠ BitVec.ofNat 32 (leNat m) := fun e => by
  have hl' := leNat_lt l
  have hm' := leNat_lt m
  rw [hl] at hl'
  rw [hm] at hm'
  have e := congrArg BitVec.toNat e
  rw [BitVec.toNat_ofNat, BitVec.toNat_ofNat, Nat.mod_eq_of_lt (by exact hl'), Nat.mod_eq_of_lt (by exact hm')] at e
  exact h (leNat_injective (hl.trans hm.symm) e)

/-! ## The verdict (R9) -/

theorem verdictOf_unread (bytes : List Byte) (k : Nat) : verdictOf bytes k true = .fail .bufferError := rfl

theorem verdictOf_checkMismatch {bytes : List Byte} {k : Nat} (h : chunkCheck bytes ≠ trailerCheck bytes) :
    verdictOf bytes k false = .fail .checkMismatch := by
  simp [verdictOf, h]

theorem verdictOf_numberMismatch {bytes : List Byte} {k : Nat} (h : chunkCheck bytes = trailerCheck bytes)
    (hk : trailerNumber bytes ≠ k % 4294967296) : verdictOf bytes k false = .fail .numberMismatch := by
  simp [verdictOf, h, hk]

theorem verdictOf_pass {bytes : List Byte} {k : Nat} (h : chunkCheck bytes = trailerCheck bytes)
    (hk : trailerNumber bytes = k % 4294967296) : verdictOf bytes k false = .pass (trailerCheck bytes) := by
  simp [verdictOf, h, hk]

/-- Settles O4. -/
theorem patternByteValue : Obligations.PatternByteValue := patternByte_toNat

/-- Settles O5. The check register tells any two bytes at one place apart, so one wrong byte of image or chunk number
gives another check, and one wrong stored byte another stored value. -/
theorem senderBuiltChunkVerifies : Obligations.SenderBuiltChunkVerifies := by
  intro image k hk body check chunk
  have hcheck : chunkCheck chunk = trailerCheck chunk := by
    rw [chunkCheck_append _ _ (le_length ..), trailerCheck_append _ _ (le_length ..), ofNat_leNat_le]
  have hnumber : trailerNumber chunk = k := by
    rw [trailerNumber_append _ _ _ (le_length ..) (le_length ..), leNat_le, Nat.mod_eq_of_lt (by exact hk)]
  have hstored : trailerCheck chunk = check := by rw [trailerCheck_append _ _ (le_length ..), ofNat_leNat_le]
  refine ⟨?_, fun j hj hjk => ?_, fun pre b b' suf hbody hb => ?_, fun pre b b' suf hsplit hb => ?_,
    fun j => verdictOf_unread _ _⟩
  · rw [verdictOf_pass hcheck (by rw [hnumber, Nat.mod_eq_of_lt hk]), hstored]
  · exact verdictOf_numberMismatch hcheck (by rw [hnumber, Nat.mod_eq_of_lt hj]; exact hjk.symm)
  · refine verdictOf_checkMismatch ?_
    rw [chunkCheck_append _ _ (le_length ..), trailerCheck_append _ _ (le_length ..), ofNat_leNat_le]
    have := checkOf_wrong_byte pre (suf ++ [0, 0, 0, 0]) hb
    simpa only [check, hbody, List.append_assoc, List.cons_append] using this
  · have hlen : (pre ++ b' :: suf).length = 4 := by
      have := congrArg List.length hsplit
      simp only [le_length, List.length_append, List.length_cons] at this ⊢
      exact this.symm
    refine verdictOf_checkMismatch ?_
    rw [chunkCheck_append _ _ hlen, trailerCheck_append _ _ hlen, ← ofNat_leNat_le (checkOf _)]
    refine ofNat_leNat_ne (le_length ..) hlen fun e => hb ?_
    have : pre ++ b :: suf = pre ++ b' :: suf := hsplit.symm.trans e
    simpa using this

end Sys2Proof.Machine
end

section
/-! # One stream's context in play

Every operation that VERIFY_COMPLETION brings about touches the table at one entry only. The lemmas here move that entry's
write outward, `s.setCtx i c` with `c` the context as it stands, so that what happens to the rest of the device can be read
from `s` and what happens to the stream from `c`. -/

namespace Sys2Proof.Machine

/-! ## Writes of one key -/

section
variable {κ α : Type} [LinearOrder κ] [DecidableEq α] {d : α}

theorem cellGet_cellPut_self (m : List (κ × α)) (k : κ) {v : α} (hv : v ≠ d) : cellGet d (cellPut d m k v) k = v := by
  induction m with
  | nil => simp [cellPut, cellGet, hv]
  | cons c rest ih =>
    unfold cellPut
    split_ifs with h1 h2
    · simp [cellGet]
    · simp [cellGet]
    · rw [cellGet, if_neg h2, ih]

/-- The later of two writes of one key stands. -/
theorem cellPut_cellPut (m : List (κ × α)) (k : κ) {v : α} (hv : v ≠ d) (w : α) :
    cellPut d (cellPut d m k v) k w = cellPut d m k w := by
  induction m with
  | nil => simp [cellPut, hv]
  | cons c rest ih =>
    unfold cellPut
    by_cases h1 : k < c.1
    · simp [h1, hv, cellPut]
    · by_cases h2 : k = c.1
      · simp [h2, hv, cellPut]
      · simp [h1, h2, cellPut, ih]

end

/-! ## The entry written -/

theorem live_ne_free (c : Context) : (⟨true, some c⟩ : Entry) ≠ Entry.free := by simp [Entry.free]

@[simp] theorem State.entry_setCtx_self (s : State) (i : StreamIndex) (c : Context) :
    (s.setCtx i c).entry i = ⟨true, some c⟩ := cellGet_cellPut_self _ _ (live_ne_free c)

@[simp] theorem State.ctx?_setCtx_self (s : State) (i : StreamIndex) (c : Context) : (s.setCtx i c).ctx? i = some c := by
  simp [State.ctx?]

@[simp] theorem State.setEntry_setCtx (s : State) (i : StreamIndex) (c : Context) (e : Entry) :
    (s.setCtx i c).setEntry i e = s.setEntry i e := by
  simp only [State.setCtx, State.setEntry, cellPut_cellPut _ _ (live_ne_free c)]

@[simp] theorem State.setCtx_setCtx (s : State) (i : StreamIndex) (c d : Context) :
    (s.setCtx i c).setCtx i d = s.setCtx i d := State.setEntry_setCtx s i c _

@[simp] theorem State.modifyCtx_setCtx (s : State) (i : StreamIndex) (c : Context) (f : Context → Context) :
    (s.setCtx i c).modifyCtx i f = s.setCtx i (f c) := by
  simp [State.modifyCtx]

@[simp] theorem State.modifyChunk_setCtx (s : State) (i : StreamIndex) (c : Context) (pos : Nat)
    (f : ChunkRecord → ChunkRecord) : (s.setCtx i c).modifyChunk i pos f = s.setCtx i (c.modifyChunk pos f) :=
  State.modifyCtx_setCtx s i c _

/-- Writing back what an entry holds changes nothing. -/
theorem State.setCtx_of_holds {s : State} {i : StreamIndex} {c : Context} (hw : s.TableWF) (h : Holds s i c) :
    s.setCtx i c = s := by
  have ht : cellPut Entry.free s.table i ⟨true, some c⟩ = s.table := by
    refine cells_ext (cellPut_wf hw _ _) hw fun j => ?_
    rw [cellGet_cellPut hw]
    split_ifs with hj
    · rw [hj]; exact h.symm
    · rfl
  simp only [State.setCtx, State.setEntry, ht]

theorem holds_setCtx (s : State) (i : StreamIndex) (c : Context) : Holds (s.setCtx i c) i c := s.entry_setCtx_self i c

theorem otherEntries_setCtx {s t : State} (hw : s.TableWF) (ht : t.table = s.table) (i : StreamIndex) (c : Context) :
    OtherEntries s (t.setCtx i c) i := fun j hj => by
  have htw : t.TableWF := by rw [State.TableWF, ht]; exact hw
  rw [State.entry_setCtx htw, if_neg hj, State.entry, ht]
  rfl

/-! ## Operations on the rest of the device -/

@[simp] theorem State.count_setCtx (s : State) (i : StreamIndex) (c : Context) (k : Counter) (n : Nat) :
    (s.setCtx i c).count k n = (s.count k n).setCtx i c := rfl

@[simp] theorem State.raise_setCtx (s : State) (i : StreamIndex) (c : Context) (e : Event) :
    (s.setCtx i c).raise e = (s.raise e).setCtx i c := by
  unfold State.raise
  by_cases henabled : e.enabled s.settings.enables = true
  · by_cases hroom : s.events.length < Config.eventDepth
    · rw [if_pos henabled, if_pos hroom]; exact (if_pos henabled).trans (if_pos hroom)
    · rw [if_pos henabled, if_neg hroom]; exact (if_pos henabled).trans (if_neg hroom)
  · rw [if_neg henabled]; exact if_neg henabled

@[simp] theorem State.raiseReserve_setCtx (s : State) (i : StreamIndex) (c : Context) (n : Nat) :
    (s.setCtx i c).raiseReserve n = (s.raiseReserve n).setCtx i c := rfl

@[simp] theorem State.lowerReserve_setCtx (s : State) (i : StreamIndex) (c : Context) :
    (s.setCtx i c).lowerReserve = s.lowerReserve.setCtx i c := rfl

@[simp] theorem State.retireSlot_setCtx (s : State) (i : StreamIndex) (c : Context) (slot : Slot) :
    (s.setCtx i c).retireSlot slot = (s.retireSlot slot).setCtx i c := rfl

@[simp] theorem State.giveUp_setCtx (s : State) (i : StreamIndex) (c : Context) (slot : Slot) (force : Bool) :
    (s.setCtx i c).giveUp slot force = (s.giveUp slot force).setCtx i c := by
  unfold State.giveUp
  by_cases hretires : ((s.pool.mark slot || force) && s.pool.mayRetire 0) = true
  · rw [if_pos hretires]; exact if_pos hretires
  · rw [if_neg hretires]; exact if_neg hretires

@[simp] theorem State.giveUpAt_setCtx (s : State) (i : StreamIndex) (c : Context) (pos : Nat) (force : Bool) :
    (s.setCtx i c).giveUpAt i pos force = (s.giveUpAt i pos force).setCtx i c := by
  unfold State.giveUpAt
  simp only [State.setCtx_pool]
  cases s.pool.slotOf i pos <;> simp

@[simp] theorem State.inFlight_setCtx (s : State) (i : StreamIndex) (c : Context) :
    (s.setCtx i c).inFlight i = s.inFlight i := rfl

/-! ## Counters -/

@[simp] theorem State.counter_setCtx (s : State) (i : StreamIndex) (c : Context) (k : Counter) :
    (s.setCtx i c).counter k = s.counter k := rfl

@[simp] theorem State.counter_count (s : State) (j k : Counter) (n : Nat) :
    (s.count j n).counter k = if k = j then (s.counter k).add n else s.counter k := State.counted_count s j n k

/-- An event that finds no room is counted as lost; no other counter moves. -/
@[simp] theorem State.counter_raise (s : State) (e : Event) {k : Counter} (h : k ≠ .eventsLost) :
    (s.raise e).counter k = s.counter k := by
  unfold State.raise
  split_ifs
  · rfl
  · exact (State.counter_count s .eventsLost k 1).trans (if_neg h)
  · rfl

@[simp] theorem State.counter_raiseReserve (s : State) (n : Nat) (k : Counter) :
    (s.raiseReserve n).counter k = s.counter k := rfl

@[simp] theorem State.counter_lowerReserve (s : State) (k : Counter) : s.lowerReserve.counter k = s.counter k := rfl

@[simp] theorem State.counter_retireSlot (s : State) (slot : Slot) (k : Counter) :
    (s.retireSlot slot).counter k = if k = .retiredSlots then (s.counter k).add 1 else s.counter k :=
  State.counter_count { s with pool := s.pool.retire slot } .retiredSlots k 1

/-! ## Events -/

/-- Where an event goes depends on the queue, the time and the settings alone. -/
theorem State.raise_events_congr {s t : State} (he : s.events = t.events) (ht : s.time = t.time)
    (hs : s.settings = t.settings) (e : Event) : (s.raise e).events = (t.raise e).events := by
  unfold State.raise
  rw [he, ht, hs]
  split_ifs <;> simp [he]

theorem State.raise_errors_congr {s t : State} (he : s.events = t.events) (hr : s.errors = t.errors)
    (hs : s.settings = t.settings) (e : Event) : (s.raise e).errors = (t.raise e).errors := by
  unfold State.raise
  rw [he, hs]
  split_ifs <;> simp [hr, State.noteError]

/-- A raised event leaves a first-error record that is filled, and the flag of buffer errors. -/
theorem State.raise_errors_kept (s : State) (e : Event) (h : s.errors.first.isSome = true) :
    (s.raise e).errors.first = s.errors.first ∧
      (s.raise e).errors.bufferUncorrected = s.errors.bufferUncorrected := by
  unfold State.raise
  split_ifs
  · exact ⟨rfl, rfl⟩
  · refine ⟨?_, rfl⟩
    show s.errors.first.or _ = _
    rw [Option.or_of_isSome h]
  · exact ⟨rfl, rfl⟩

/-! ## The watermark test -/

/-- No watermark is crossed: the test changes nothing. -/
theorem State.poolTest_quiet {s : State} (hok : s.pool.state = .ok → s.settings.low ≤ s.pool.spare)
    (hlow : s.pool.state = .low → s.pool.spare < s.settings.high) : s.poolTest = s := by
  have : s.pool.tested s.settings.low s.settings.high = s.pool.state := by
    unfold Pool.tested
    cases h : s.pool.state
    · exact if_neg (not_lt.mpr (hok h))
    · exact if_neg (not_le.mpr (hlow h))
  simp [State.poolTest, this]

/-- The test changes nothing where the figures of a state that serves stand. -/
theorem Serving.poolTest_quiet {s t : State} (h : Serving s) (hst : t.pool.state = s.pool.state)
    (hsp : t.pool.spare = s.pool.spare) (hse : t.settings = s.settings) : t.poolTest = t :=
  State.poolTest_quiet (by rw [hst, hsp, hse]; exact h.2.2.1) (by rw [hst, hsp, hse]; exact h.2.2.2)

/-! ## Chunk records -/

theorem Context.modifyChunk_of_getElem? {c : Context} {pos : Nat} {r : ChunkRecord} (h : c.window[pos]? = some r)
    (f : ChunkRecord → ChunkRecord) : c.modifyChunk pos f = { c with window := c.window.set pos (f r) } := by
  have : c.window.modify pos f = c.window.set pos (f r) := by
    rw [List.modify_eq_set_getElem?, h]
    rfl
  rw [Context.modifyChunk, this]

theorem oneRecord_set {c : Context} {pos : Nat} {r : ChunkRecord} (h : c.window[pos]? = some r) {d : Context}
    {x : ChunkRecord} (hd : d.window = c.window.set pos x) : OneRecord c d pos x := by
  have hlt := (List.getElem?_eq_some_iff.mp h).1
  exact ⟨by rw [hd, List.getElem?_set_self hlt], fun p hp => by rw [hd, List.getElem?_set_ne hp.symm]⟩

/-! ## The tests that end the event on the stream -/

theorem Context.testDrainFlags_eq (c : Context) : c.testDrainFlags = c.flagsTested := rfl

theorem flagsTested_flagsTested {b c : Context} (hs : c.streaming = b.streaming) (hf : c.flushPending = b.flushPending) :
    FlagsTested b c.flagsTested := by
  rw [FlagsTested, ← hs, ← hf]; exact ⟨rfl, rfl⟩

/-- A stream that neither releases nor has come to the end of its salvage has its drain flags tested, and no more. -/
theorem State.settle_setCtx (s : State) (i : StreamIndex) {c : Context} (hd : c.flagsTested.salvageDone = false)
    (hr : c.state = .releasing → s.inFlight i = true) : (s.setCtx i c).settle i = s.setCtx i c.flagsTested := by
  have hr' : ¬(c.flagsTested.state = .releasing ∧ s.inFlight i = false) := fun ⟨h1, h2⟩ => by
    rw [hr h1] at h2; exact Bool.noConfusion h2
  unfold State.settle State.testFree
  simp only [State.modifyCtx_setCtx, State.ctx?_setCtx_self, Context.testDrainFlags_eq, hd, State.inFlight_setCtx,
    if_neg hr', Bool.false_eq_true, if_false]

theorem Context.salvageDone_of_ne {c : Context} (h : c.state ≠ .salvaging) : c.salvageDone = false := by
  simp [Context.salvageDone, h]

/-- A stream in OPEN, HOLD, COMPLETE or ABORTED. -/
theorem State.settle_live (s : State) (i : StreamIndex) {c : Context} (hs : c.state ≠ .salvaging)
    (hr : c.state ≠ .releasing) : (s.setCtx i c).settle i = s.setCtx i c.flagsTested :=
  s.settle_setCtx i (Context.salvageDone_of_ne hs) fun h => absurd h hr

theorem Context.salvageOver_iff (c : Context) : c.SalvageOver ↔ c.salvageDone = true := by
  have hrun : (1 ≤ c.readyRun.length) ↔ c.readyRun ≠ [] := by
    rw [Nat.one_le_iff_ne_zero, Ne, List.length_eq_zero_iff]
  unfold Context.SalvageOver Context.salvageDone Context.inWritersHands
  by_cases h : c.state = .salvaging
  · simp only [Context.offerable, h]
    simp [hrun]
    grind
  · simp [h]

end Sys2Proof.Machine
end

section
/-! # VERIFY_COMPLETION: the read, its report, the event as a whole -/

namespace Sys2Proof.Machine

/-! ## The words read (R8) -/

theorem range_filter_lt {n m : Nat} (h : m ≤ n) : ((List.range n).filter fun w => decide (w < m)) = List.range m := by
  obtain ⟨k, rfl⟩ := Nat.exists_eq_add_of_le h
  rw [List.range_add, List.filter_append, List.filter_eq_self.mpr (by simp), List.filter_eq_nil_iff.mpr (by simp),
    List.append_nil]

theorem wordsOf_zero {n len : Nat} (h : len ≤ 8 * n) :
    wordsOf 0 len = (List.range n).filter fun w => decide (8 * w < len) := by
  have hfilter : ((List.range n).filter fun w => decide (8 * w < len)) = List.range ((len + 7) / 8) := by
    rw [← range_filter_lt (show (len + 7) / 8 ≤ n by omega)]
    exact List.filter_congr fun w _ => by simp only [decide_eq_decide]; omega
  rw [hfilter, wordsOf]
  split_ifs with h0
  · rw [h0]; rfl
  · have : (0 + len - 1) / Config.wordBytes - 0 / Config.wordBytes + 1 = (len + 7) / 8 := by
      unfold Config.wordBytes; omega
    rw [this]
    simp

/-- A verification reads the words that hold a byte below its length. -/
theorem EngineOp.words_eq (o : EngineOp) : o.words = (List.range 8192).filter fun w => decide (8 * w < o.len.val) :=
  wordsOf_zero (Nat.le_of_lt_succ o.len.isLt)

theorem State.countWords_uncorrectable (s : State) (o : EngineOp) :
    s.countWords o.slot o.words .uncorrectable = s.badWords o := by
  unfold State.countWords State.badWords
  rw [EngineOp.words_eq]
  generalize List.range 8192 = all
  rw [List.filter_filter]
  congr 1
  exact List.filter_congr fun w _ => by rw [← Bool.decide_and, decide_eq_decide, and_comm]

theorem State.badWords_eq_zero {s : State} {o : EngineOp}
    (h : ∀ w ∈ (List.range 8192).filter fun w => decide (8 * w < o.len.val), s.condition o.slot w ≠ .uncorrectable) :
    s.badWords o = 0 := by
  rw [← EngineOp.words_eq] at h
  rw [← State.countWords_uncorrectable, State.countWords, List.filter_eq_nil_iff.mpr fun w hw => by simp [h w hw]]
  rfl

/-- The mismatch count is the number of wrong bytes as R10 and R11 name them. -/
theorem State.mismatches_eq (s : State) (o : EngineOp) : s.mismatches o = s.wrongBytes o := by
  unfold State.mismatches State.wrongBytes
  congr 1
  refine List.filter_congr fun y _ => ?_
  have : s.byteAt (bufferAddress o.slot y) ≠ patternByte (Config.chunkSize * o.index + y) ↔
      (s.byteAt (bufferAddress o.slot y)).toNat ≠
        (((65536 * o.index + y) % 251) ^^^ (((65536 * o.index + y) / 65536) % 256)) := by
    rw [← patternByte_toNat]
    exact (BitVec.toNat_inj.not).symm
  rw [← Bool.decide_or, decide_eq_decide, this]
  rfl

/-! ## The outcome -/

theorem State.verification_pattern (s : State) {o : EngineOp} (h : o.pattern = true) :
    s.verification o = .compared (s.wrongBytes o) := by
  simp [State.verification, h, State.mismatches_eq]

theorem State.verification_unread {s : State} {o : EngineOp} (h : o.pattern = false) (hb : s.badWords o ≠ 0) :
    s.verification o = .fail .bufferError := by
  simp [State.verification, h, State.countWords_uncorrectable, hb, verdictOf]

theorem State.verification_read {s : State} {o : EngineOp} (h : o.pattern = false) (hb : s.badWords o = 0) :
    s.verification o = verdictOf (s.slotBytes o.slot 0 o.len.val) o.index false := by
  simp [State.verification, h, State.countWords_uncorrectable, hb]

/-- A chunk that was read fails for its check value or its number: no slot goes to retirement. -/
theorem verdictOf_fail {bytes : List Byte} {k : Nat}
    (h : chunkCheck bytes ≠ trailerCheck bytes ∨ trailerNumber bytes ≠ k % 4294967296) :
    ∃ reason, verdictOf bytes k false = .fail reason ∧ ∀ pos, reason.retiring pos = none := by
  by_cases hc : chunkCheck bytes = trailerCheck bytes
  · exact ⟨_, verdictOf_numberMismatch hc (h.resolve_left (not_not_intro hc)), fun _ => rfl⟩
  · exact ⟨_, verdictOf_checkMismatch hc, fun _ => rfl⟩

/-! ## The report of the read (R89, R90) -/

theorem State.reportRead_clean {s : State} {o : EngineOp} (h : s.badWords o = 0) :
    s.reportRead o.slot o.words o.stream o.index =
      s.count .correctedErrors (s.countWords o.slot o.words .correctable) := by
  simp [State.reportRead, State.countWords_uncorrectable, h]

/-- The report of a read with uncorrectable words, in the order of R90. -/
theorem State.reportRead_bad {s : State} {o : EngineOp} (h : s.badWords o ≠ 0) :
    s.reportRead o.slot o.words o.stream o.index =
      State.raise (((({ s.count .correctedErrors (s.countWords o.slot o.words .correctable) with
          pool := s.pool.setMark o.slot }).count .uncorrectableErrors (s.badWords o)).noteError .bufferUncorrected
        (some o.stream) (some o.slot) (some o.index)))
        (.deviceError .bufferUncorrected (some o.stream) none (some o.slot) (some o.index)) := by
  simp [State.reportRead, State.countWords_uncorrectable, h]

/-- Pool, event queue and error summary after the report are those of `readBy`. -/
theorem State.reportRead_readBy (s : State) (o : EngineOp) :
    (s.reportRead o.slot o.words o.stream o.index).pool = (s.readBy o).pool ∧
    (s.reportRead o.slot o.words o.stream o.index).events = (s.readBy o).events ∧
    (s.reportRead o.slot o.words o.stream o.index).errors = (s.readBy o).errors := by
  by_cases h : s.badWords o = 0
  · rw [State.reportRead_clean h, State.readBy, if_pos h]
    exact ⟨rfl, rfl, rfl⟩
  · rw [State.reportRead_bad h, State.readBy, if_neg h]
    refine ⟨by simp, ?_, ?_⟩
    · apply State.raise_events_congr <;> rfl
    · apply State.raise_errors_congr <;> rfl

theorem State.counter_reportRead (s : State) (o : EngineOp) {k : Counter} (hk : k ≠ .eventsLost) :
    (s.reportRead o.slot o.words o.stream o.index).counter k =
      if k = .correctedErrors then (s.counter k).add (s.countWords o.slot o.words .correctable)
      else if k = .uncorrectableErrors then
        if s.badWords o = 0 then s.counter k else (s.counter k).add (s.badWords o)
      else s.counter k := by
  have hset : ∀ (t : State) (p : Pool), ({ t with pool := p } : State).counter k = t.counter k := fun _ _ => rfl
  have hnote : ∀ (t : State) a b c d, (State.noteError t a b c d).counter k = t.counter k := fun _ _ _ _ _ => rfl
  by_cases h : s.badWords o = 0
  · rw [State.reportRead_clean h]
    simp [h]
  · rw [State.reportRead_bad h, State.counter_raise _ _ hk, hnote, State.counter_count, hset, State.counter_count, if_neg h]
    split_ifs <;> simp_all

@[simp] theorem State.reportRead_table (s : State) (slot : Slot) (ws : List Nat) (i : StreamIndex) (k : Nat) :
    (s.reportRead slot ws i k).table = s.table := by
  unfold State.reportRead
  dsimp only
  split_ifs <;> simp

@[simp] theorem State.reportRead_lanes (s : State) (slot : Slot) (ws : List Nat) (i : StreamIndex) (k : Nat) :
    (s.reportRead slot ws i k).lanes = s.lanes := by
  unfold State.reportRead
  dsimp only
  split_ifs <;> simp

@[simp] theorem State.reportRead_offered (s : State) (slot : Slot) (ws : List Nat) (i : StreamIndex) (k : Nat) :
    (s.reportRead slot ws i k).offered = s.offered := by
  unfold State.reportRead
  dsimp only
  split_ifs <;> simp

@[simp] theorem State.reportRead_verifyQueue (s : State) (slot : Slot) (ws : List Nat) (i : StreamIndex) (k : Nat) :
    (s.reportRead slot ws i k).verifyQueue = s.verifyQueue := by
  unfold State.reportRead
  dsimp only
  split_ifs <;> simp

/-! ## The event -/

/-- The device when the outcome of its verification comes to be applied: the read reported, the engine IDLE, the outcome
counted. -/
@[irreducible] def State.afterRead (s : State) (o : EngineOp) : State :=
  State.countVerification { s.reportRead o.slot o.words o.stream o.index with engine := none } (s.verification o)

theorem State.countVerification_op (s : State) (v : Verification) : StreamOp s (s.countVerification v) := by
  cases v
  · exact s.count_op _ _
  · exact (s.count_op _ _).trans (State.count_op _ _ _)
  · exact s.count_op _ _

/-- The counting of an outcome touches the live counters alone. -/
theorem State.countVerification_eq (s : State) (v : Verification) :
    s.countVerification v = { s with live := (s.countVerification v).live } := by
  cases v <;> rfl

theorem State.afterRead_op (s : State) (o : EngineOp) : StreamOp { s with engine := none } (s.afterRead o) := by
  unfold State.afterRead
  refine StreamOp.trans ?_ (State.countVerification_op _ _)
  have h := s.reportRead_op o.slot o.words o.stream o.index
  exact ⟨by rw [h.rest], h.lanes, h.events, h.bound, h.offered, h.queue⟩

/-- VERIFY_COMPLETION up to its watermark test, for an entry with sound parity that holds `c`. -/
def State.completed (s : State) (o : EngineOp) (c : Context) : State :=
  (((s.afterRead o).setCtx o.stream c).applyOutcome o.stream o.pos (s.verification o)).settle o.stream

section
variable (s : State) (o : EngineOp)

@[simp] theorem State.afterRead_table : (s.afterRead o).table = s.table := by
  rw [State.afterRead, State.countVerification_eq]; exact State.reportRead_table s _ _ _ _
@[simp] theorem State.afterRead_lanes : (s.afterRead o).lanes = s.lanes := by
  rw [State.afterRead, State.countVerification_eq]; exact State.reportRead_lanes s _ _ _ _
@[simp] theorem State.afterRead_offered : (s.afterRead o).offered = s.offered := by
  rw [State.afterRead, State.countVerification_eq]; exact State.reportRead_offered s _ _ _ _
@[simp] theorem State.afterRead_verifyQueue : (s.afterRead o).verifyQueue = s.verifyQueue := by
  rw [State.afterRead, State.countVerification_eq]; exact State.reportRead_verifyQueue s _ _ _ _
@[simp] theorem State.afterRead_pool : (s.afterRead o).pool = (s.readBy o).pool := by
  rw [State.afterRead, State.countVerification_eq]; exact (s.reportRead_readBy o).1
@[simp] theorem State.afterRead_events : (s.afterRead o).events = (s.readBy o).events := by
  rw [State.afterRead, State.countVerification_eq]; exact (s.reportRead_readBy o).2.1
@[simp] theorem State.afterRead_errors : (s.afterRead o).errors = (s.readBy o).errors := by
  rw [State.afterRead, State.countVerification_eq]; exact (s.reportRead_readBy o).2.2
@[simp] theorem State.afterRead_engine : (s.afterRead o).engine = none := by rw [(s.afterRead_op o).rest]
@[simp] theorem State.afterRead_time : (s.afterRead o).time = s.time := by rw [(s.afterRead_op o).rest]
@[simp] theorem State.afterRead_settings : (s.afterRead o).settings = s.settings := by rw [(s.afterRead_op o).rest]
@[simp] theorem State.afterRead_drainMap : (s.afterRead o).drainMap = s.drainMap := by rw [(s.afterRead_op o).rest]
end

section
variable {s : State} {o : EngineOp} {c : Context}

theorem exec_verifyCompletion (he : s.engine = some o) (hw : s.TableWF) (hc : Holds s o.stream c) :
    exec .verifyCompletion s = .next (s.completed o c).poolTest := by
  have hread : Holds (s.reportRead o.slot o.words o.stream o.index) o.stream c := by
    rw [Holds, State.entry, State.reportRead_table]; exact hc
  have hafter : (s.afterRead o).setCtx o.stream c = s.afterRead o :=
    State.setCtx_of_holds (by rw [State.TableWF, State.afterRead_table]; exact hw)
      (by rw [Holds, State.entry, State.afterRead_table]; exact hc)
  show execVerifyCompletion s = _
  unfold execVerifyCompletion
  rw [he]
  dsimp only
  rw [State.checkParity_good (by rw [hread]), State.completed, hafter, State.afterRead]

/-- What the event leaves alone, lanes apart, which only a watermark test can reach. -/
theorem State.completed_rest {u : State} (hu : s.completed o c = u) (hl : u.lanes = s.lanes) :
    u = { s with engine := none, table := u.table, pool := u.pool, events := u.events, live := u.live,
                 errors := u.errors, offered := u.offered, verifyQueue := u.verifyQueue } := by
  have h : StreamOp { s with engine := none } u := hu ▸ (((s.afterRead_op o).trans (State.setCtx_op _ _ _)).trans
    (State.applyOutcome_op _ _ _ _)).trans (State.settle_op _ _)
  calc u = _ := h.rest
    _ = _ := by rw [hl]

theorem State.counter_afterRead (k : Counter) :
    (s.afterRead o).counter k =
      ((State.countVerification (s.reportRead o.slot o.words o.stream o.index) (s.verification o)).counter k) := by
  unfold State.afterRead
  cases s.verification o <;> rfl

end

end Sys2Proof.Machine
end

section
/-! # A pass of a stream in OPEN or HOLD (O32) -/

namespace Sys2Proof.Machine

section
variable {s X : State} {o : EngineOp} {c d : Context}

/-- What every outcome has in common, once the event is known to leave the context `d` and, for the rest, `X`. -/
theorem State.completed_spec (he : s.engine = some o) (hs : Serving s) (hc : Holds s o.stream c)
    (hu : s.completed o c = X.setCtx o.stream d) (ht : X.table = s.table) (hl : X.lanes = s.lanes) :
    let u := X.setCtx o.stream d
    exec .verifyCompletion s = .next u.poolTest ∧ u.engine = none ∧ OtherEntries s u o.stream ∧ Holds u o.stream d ∧
      u = { s with engine := none, table := u.table, pool := u.pool, events := u.events, live := u.live,
                   errors := u.errors, offered := u.offered, verifyQueue := u.verifyQueue } := by
  intro u
  have hrest : u = _ := State.completed_rest hu hl
  exact ⟨(exec_verifyCompletion he hs.2.1 hc).trans (by rw [hu]), by rw [hrest], otherEntries_setCtx hs.2.1 ht _ _,
    holds_setCtx _ _ _, hrest⟩

end

/-! ## The outcome reaches the stream as it stands (R100) -/

theorem State.applyOutcome_receiving (X : State) (i : StreamIndex) (pos : Nat) {c : Context} (v : Verification)
    (h : c.state.receiving = true) :
    (X.setCtx i c).applyOutcome i pos v = (X.setCtx i c).outcomeReceiving i pos c v := by
  simp only [State.applyOutcome, State.ctx?_setCtx_self]
  cases hc : c.state <;> simp_all [StreamState.receiving]

theorem StreamState.receiving_iff (st : StreamState) : st.receiving = true ↔ st = .opened ∨ st = .hold := by
  simp [StreamState.receiving]

/-! ## The return from HOLD (R102) -/

/-- The record of a pass that ends HOLD. -/
def State.tellResume (X : State) (i : StreamIndex) (c : Context) : State :=
  if c.state = .hold then X.raise (.streamResumed i c.tag c.committed) else X

/-- The context after a pass: in HOLD it returns to OPEN with nothing remembered. -/
def Context.resumed (c : Context) : Context :=
  if c.state = .hold then { c with state := .opened, history := [], holdFailures := 0 } else c

theorem State.resume_setCtx (X : State) (i : StreamIndex) {c d : Context} (h : d.state = c.state) :
    (X.setCtx i d).resume i c = (X.tellResume i c).setCtx i d.resumed := by
  unfold State.resume State.tellResume Context.resumed
  rw [h]
  split_ifs <;> simp

section
variable (X : State) (i : StreamIndex) (c : Context)

@[simp] theorem State.tellResume_table : (X.tellResume i c).table = X.table := by
  unfold State.tellResume; split_ifs <;> simp
@[simp] theorem State.tellResume_lanes : (X.tellResume i c).lanes = X.lanes := by
  unfold State.tellResume; split_ifs <;> simp
@[simp] theorem State.tellResume_pool : (X.tellResume i c).pool = X.pool := by
  unfold State.tellResume; split_ifs <;> simp
@[simp] theorem State.tellResume_settings : (X.tellResume i c).settings = X.settings := by
  unfold State.tellResume; split_ifs <;> simp
@[simp] theorem State.tellResume_time : (X.tellResume i c).time = X.time := by
  unfold State.tellResume; split_ifs <;> simp
@[simp] theorem State.tellResume_offered : (X.tellResume i c).offered = X.offered := by
  unfold State.tellResume; split_ifs <;> simp
@[simp] theorem State.tellResume_verifyQueue : (X.tellResume i c).verifyQueue = X.verifyQueue := by
  unfold State.tellResume; split_ifs <;> simp
@[simp] theorem State.counter_tellResume {k : Counter} (h : k ≠ .eventsLost) :
    (X.tellResume i c).counter k = X.counter k := by
  unfold State.tellResume; split_ifs <;> simp [h]

end

/-! ## The pass (R101) -/

/-- The context after a pass of a stream in OPEN or HOLD: the chunk VERIFIED with its check value, a pass in the history,
its GAP item removed. -/
def Context.passedAt (c : Context) (pos : Nat) (r : ChunkRecord) (check : Word) : Context :=
  Context.resumed { c with
    window := c.window.set pos { r with state := .verified, check := some check }
    history := (c.history ++ [Verdict.pass]).drop (c.history.length - 7)
    notices := { c.notices with gaps := c.notices.gaps.filter fun p => decide (p ≠ pos) } }

theorem State.passReceiving_setCtx (X : State) (i : StreamIndex) {c : Context} {pos : Nat} {r : ChunkRecord}
    (h : c.window[pos]? = some r) (check : Word) :
    (X.setCtx i c).passReceiving i pos c check = (X.tellResume i c).setCtx i (c.passedAt pos r check) := by
  rw [State.passReceiving, State.modifyCtx_setCtx, State.resume_setCtx _ _ (by rfl), Context.modifyChunk_of_getElem? h]
  rfl

section
variable (c : Context) (pos : Nat) (r : ChunkRecord) (check : Word)

theorem Context.passedAt_window :
    (c.passedAt pos r check).window = c.window.set pos { r with state := .verified, check := some check } := by
  unfold Context.passedAt Context.resumed; split_ifs <;> rfl

theorem Context.passedAt_flags :
    (c.passedAt pos r check).streaming = c.streaming ∧ (c.passedAt pos r check).flushPending = c.flushPending := by
  unfold Context.passedAt Context.resumed; split_ifs <;> exact ⟨rfl, rfl⟩

theorem Context.passedAt_state (h : c.state.receiving = true) : (c.passedAt pos r check).state = .opened := by
  rcases c.state.receiving_iff.mp h with h | h <;> simp [Context.passedAt, Context.resumed, h]

end

/-- The counter of passes and of corrected words after a sound read of a chunk that passes. -/
theorem State.counter_afterRead_pass {s : State} {o : EngineOp} {check : Word} (hv : s.verification o = .pass check)
    (hbad : s.badWords o = 0) {k : Counter} (hk : k ≠ .eventsLost) :
    (s.afterRead o).counter k = if k = .chunksVerified then (s.counter k).add 1
      else if k = .correctedErrors then (s.counter k).add (s.countWords o.slot o.words .correctable)
      else s.counter k := by
  rw [State.counter_afterRead, hv, State.countVerification, State.counter_count, State.counter_reportRead _ _ hk]
  split_ifs <;> simp_all

theorem State.readBy_clean {s : State} {o : EngineOp} (h : s.badWords o = 0) : s.readBy o = s := if_pos h

/-- Settles O32. -/
theorem soundChunkPasses : Obligations.SoundChunkPasses := by
  intro s o c r he hp hs hc hrecv hr bytes words hsound hcheck hnumber
  have hbad : s.badWords o = 0 := State.badWords_eq_zero hsound
  have hv : s.verification o = .pass (trailerCheck bytes) := by
    rw [State.verification_read hp hbad, verdictOf_pass hcheck hnumber]
  have hread := State.readBy_clean hbad
  have hreceiving := c.state.receiving_iff.mp hrecv
  have hstate := c.passedAt_state o.pos r (trailerCheck bytes) hrecv
  have hflags := c.passedAt_flags o.pos r (trailerCheck bytes)
  have hu : s.completed o c = ((s.afterRead o).tellResume o.stream c).setCtx o.stream
      (c.passedAt o.pos r (trailerCheck bytes)).flagsTested := by
    rw [State.completed, State.applyOutcome_receiving _ _ _ _ hrecv, hv, State.outcomeReceiving,
      State.passReceiving_setCtx _ _ hr, State.settle_live _ _ (by simp [hstate]) (by simp [hstate])]
  obtain ⟨hexec, hengine, hothers, hholds, hrest⟩ := State.completed_spec he hs hc hu (by simp) (by simp)
  rw [hs.poolTest_quiet (by simp [hread]) (by simp [hread]) (by simp)] at hexec
  refine ⟨_, _, hexec, hengine, hothers, hholds, oneRecord_set hr (c.passedAt_window ..), ?_,
    flagsTested_flagsTested hflags.1 hflags.2, ?_, ?_, ?_, ?_, ?_, ?_⟩
  · simp only [Context.passedAt, Context.resumed]
    rcases hreceiving with h | h <;> simp [h, Context.flagsTested]
  · simp [State.counter_afterRead_pass hv hbad]
  · simp [State.counter_afterRead_pass hv hbad, State.countWords, words, EngineOp.words_eq]
  · intro k hk
    simp only [List.mem_cons, not_or] at hk
    simp [State.counter_afterRead_pass hv hbad, hk]
  · intro hhold
    simp only [Raised, State.setCtx_events, State.setCtx_errors, State.tellResume, if_pos hhold]
    exact ⟨State.raise_events_congr (by simp [hread]) (by simp) (by simp) _,
      State.raise_errors_congr (by simp [hread]) (by simp [hread]) (by simp) _⟩
  · intro hopen
    simp [State.tellResume, hopen, hread]
  · refine hrest.trans ?_
    simp only [State.setCtx_pool, State.setCtx_offered, State.setCtx_verifyQueue, State.tellResume_pool,
      State.tellResume_offered, State.tellResume_verifyQueue, State.afterRead_pool, State.afterRead_offered,
      State.afterRead_verifyQueue, hread, hengine]

end Sys2Proof.Machine
end

section
/-! # What a stream gives up when it enters HOLD or ABORTED -/

namespace Sys2Proof.Machine

/-! ## One change at several window positions -/

/-- The chunk records after one change for each position listed. -/
def Context.changeChunks (c : Context) (ps : List Nat) (f : ChunkRecord → ChunkRecord) : Context :=
  { c with window := ps.foldl (fun w p => w.modify p f) c.window }

theorem State.modifyChunks_setCtx (X : State) (i : StreamIndex) (f : ChunkRecord → ChunkRecord) (ps : List Nat) :
    ∀ c : Context, ps.foldl (fun t p => t.modifyChunk i p f) (X.setCtx i c) = X.setCtx i (c.changeChunks ps f) := by
  induction ps with
  | nil => exact fun _ => rfl
  | cons p ps ih => exact fun c => by rw [List.foldl_cons, State.modifyChunk_setCtx, ih]; rfl

/-- A record is changed as often as its position is listed. -/
theorem Context.changeChunks_getElem? (ps : List Nat) (f : ChunkRecord → ChunkRecord) (p : Nat) :
    ∀ c : Context, (c.changeChunks ps f).window[p]? = (c.window[p]?).map f^[ps.count p] := by
  induction ps with
  | nil => exact fun c => by simp [Context.changeChunks]
  | cons q ps ih =>
    intro c
    have hrest : (c.changeChunks (q :: ps) f).window[p]? = ((c.modifyChunk q f).changeChunks ps f).window[p]? := rfl
    rw [hrest, ih, Context.modifyChunk, List.getElem?_modify, List.count_cons]
    by_cases h : q = p
    · simp [h, Function.comp_def]
    · simp [h]

theorem ChunkRecord.emptied_iterate (r : ChunkRecord) (n : Nat) : ChunkRecord.emptied^[n] r = r.unqueuedBy n := by
  induction n with
  | zero => rfl
  | succ n ih =>
    rw [Function.iterate_succ_apply', ih, ChunkRecord.unqueuedBy, ChunkRecord.unqueuedBy, if_neg n.succ_ne_zero]
    split_ifs <;> rfl

theorem ChunkRecord.withdrawn_iterate (r : ChunkRecord) (n : Nat) : ChunkRecord.withdrawn^[n] r = r.withdrawnBy n := by
  induction n with
  | zero => rfl
  | succ n ih =>
    rw [Function.iterate_succ_apply', ih, ChunkRecord.withdrawnBy, ChunkRecord.withdrawnBy, if_neg n.succ_ne_zero]
    split_ifs with h
    · rw [h]; rfl
    · simp [ChunkRecord.withdrawn, Nat.sub_sub]

/-! ## The entries of the verify queue and the offers -/

/-- The window positions of a stream's verify queue entries, oldest first. -/
def State.queueOf (s : State) (i : StreamIndex) : List Nat :=
  (s.verifyQueue.filter fun q => decide (q.stream = i)).map (·.pos)

/-- The window positions of a stream's offers, oldest first. -/
def State.offersOf (s : State) (i : StreamIndex) : List Nat :=
  (s.offered.filter fun o => decide (o.stream = i)).map (·.pos)

theorem count_map_pos {α : Type} (l : List α) (stream : α → StreamIndex) (pos : α → Nat) (i : StreamIndex) (p : Nat) :
    ((l.filter fun x => decide (stream x = i)).map pos).count p =
      (l.filter fun x => decide (stream x = i ∧ pos x = p)).length := by
  rw [List.count, List.countP_map, List.countP_filter, List.countP_eq_length_filter]
  congr 1
  exact List.filter_congr fun x _ => by by_cases h : pos x = p <;> simp [h]

theorem State.count_queueOf (s : State) (i : StreamIndex) (p : Nat) : (s.queueOf i).count p = s.queuedAt i p :=
  count_map_pos _ ChunkName.stream ChunkName.pos i p

theorem State.count_offersOf (s : State) (i : StreamIndex) (p : Nat) : (s.offersOf i).count p = s.offersAt i p :=
  count_map_pos _ Offer.stream Offer.pos i p

/-- The verify queue without a stream's entries. -/
def State.withoutQueue (s : State) (i : StreamIndex) : State :=
  { s with verifyQueue := s.verifyQueue.filter fun q => decide (q.stream ≠ i) }

/-- The offered list without a stream's offers. -/
def State.withoutOffers (s : State) (i : StreamIndex) : State :=
  { s with offered := s.offered.filter fun o => decide (o.stream ≠ i) }

section
variable (s : State) (i : StreamIndex)

@[simp] theorem State.withoutQueue_verifyQueue :
    (s.withoutQueue i).verifyQueue = s.verifyQueue.filter fun q => decide (q.stream ≠ i) := rfl
@[simp] theorem State.withoutQueue_offered : (s.withoutQueue i).offered = s.offered := rfl
@[simp] theorem State.withoutQueue_table : (s.withoutQueue i).table = s.table := rfl
@[simp] theorem State.withoutQueue_lanes : (s.withoutQueue i).lanes = s.lanes := rfl
@[simp] theorem State.withoutQueue_pool : (s.withoutQueue i).pool = s.pool := rfl
@[simp] theorem State.withoutQueue_settings : (s.withoutQueue i).settings = s.settings := rfl
@[simp] theorem State.withoutQueue_time : (s.withoutQueue i).time = s.time := rfl
@[simp] theorem State.withoutQueue_events : (s.withoutQueue i).events = s.events := rfl
@[simp] theorem State.withoutQueue_errors : (s.withoutQueue i).errors = s.errors := rfl
@[simp] theorem State.counter_withoutQueue (k : Counter) : (s.withoutQueue i).counter k = s.counter k := rfl
@[simp] theorem State.withoutOffers_offered :
    (s.withoutOffers i).offered = s.offered.filter fun o => decide (o.stream ≠ i) := rfl
@[simp] theorem State.withoutOffers_verifyQueue : (s.withoutOffers i).verifyQueue = s.verifyQueue := rfl
@[simp] theorem State.withoutOffers_table : (s.withoutOffers i).table = s.table := rfl
@[simp] theorem State.withoutOffers_lanes : (s.withoutOffers i).lanes = s.lanes := rfl
@[simp] theorem State.withoutOffers_pool : (s.withoutOffers i).pool = s.pool := rfl
@[simp] theorem State.withoutOffers_settings : (s.withoutOffers i).settings = s.settings := rfl
@[simp] theorem State.withoutOffers_time : (s.withoutOffers i).time = s.time := rfl
@[simp] theorem State.withoutOffers_events : (s.withoutOffers i).events = s.events := rfl
@[simp] theorem State.withoutOffers_errors : (s.withoutOffers i).errors = s.errors := rfl
@[simp] theorem State.withoutOffers_drainMap : (s.withoutOffers i).drainMap = s.drainMap := rfl
@[simp] theorem State.withoutOffers_engine : (s.withoutOffers i).engine = s.engine := rfl
@[simp] theorem State.counter_withoutOffers (k : Counter) : (s.withoutOffers i).counter k = s.counter k := rfl

end

theorem State.clearQueue_setCtx (X : State) (i : StreamIndex) (c : Context) :
    (X.setCtx i c).clearQueue i = (X.withoutQueue i).setCtx i (c.changeChunks (X.queueOf i) ChunkRecord.emptied) := by
  simp only [State.clearQueue, State.setCtx_verifyQueue, State.modifyChunks_setCtx, State.withoutQueue, decide_not]
  rfl

theorem State.withdrawOffers_setCtx (X : State) (i : StreamIndex) (c : Context) :
    (X.setCtx i c).withdrawOffers i =
      (X.withoutOffers i).setCtx i (c.changeChunks (X.offersOf i) ChunkRecord.withdrawn) := by
  simp only [State.withdrawOffers, State.setCtx_offered, State.modifyChunks_setCtx, State.withoutOffers, decide_not]
  rfl

/-- The window of a stream whose offers are withdrawn, whose queue entries are removed and whose chunks in FILLING or
QUEUED are emptied (R150). -/
theorem Context.emptyUnverified_getElem? (c : Context) (offers queued : List Nat) (p : Nat) :
    ((c.changeChunks offers ChunkRecord.withdrawn).changeChunks queued ChunkRecord.emptied).emptyUnverified.window[p]? =
      (c.window[p]?).map fun r => r.atAbort (offers.count p) (queued.count p) := by
  rw [Context.emptyUnverified, List.getElem?_map, Context.changeChunks_getElem?, Context.changeChunks_getElem?,
    Option.map_map, Option.map_map]
  congr 1
  funext r
  simp only [Function.comp_apply, ChunkRecord.withdrawn_iterate, ChunkRecord.emptied_iterate]
  rfl

/-! ## Entry to HOLD (R107) -/

/-- The context on entry to HOLD, `queued` being the positions of its verify queue entries. -/
def Context.heldWith (c : Context) (queued : List Nat) : Context :=
  { c with
    state := .hold
    window := (c.changeChunks queued ChunkRecord.emptied).emptyUnverified.window
    notices := { c.notices with gaps := [], resync := true } }

theorem State.enterHold_setCtx (X : State) (i : StreamIndex) (c d : Context) :
    (X.setCtx i d).enterHold i c =
      ((X.withoutQueue i).raise (.streamHold i c.tag c.committed c.fails)).setCtx i (d.heldWith (X.queueOf i)) := by
  simp only [State.enterHold, State.modifyCtx_setCtx, State.clearQueue_setCtx, State.raise_setCtx]
  rfl

theorem Context.heldWith_getElem? (c : Context) (queued : List Nat) (p : Nat) :
    (c.heldWith queued).window[p]? = (c.window[p]?).map fun r => r.atAbort 0 (queued.count p) :=
  c.emptyUnverified_getElem? [] queued p

/-- An EMPTY chunk with nothing held stays so when its stream enters HOLD. -/
theorem ChunkRecord.atAbort_of_empty {r : ChunkRecord} (hs : r.state = .empty) (hr : r.ranges = []) (n : Nat) :
    r.atAbort 0 n = r := by
  have hu : r.unqueuedBy n = r := by
    unfold ChunkRecord.unqueuedBy
    split_ifs
    · rfl
    · rw [← hs, ← hr]
  simp [ChunkRecord.atAbort, ChunkRecord.withdrawnBy, hu, hs]

/-! ## A fail of a stream in OPEN or HOLD (R104 to R108) -/

/-- The context with the fail of a chunk recorded: the chunk emptied, its failures and the stream's counted. -/
def Context.failedAt (c : Context) (pos : Nat) (r : ChunkRecord) : Context :=
  { c with
    window := c.window.set pos { r with state := .empty, ranges := [], failures := min (r.failures + 1) 3 }
    history := (c.history ++ [Verdict.fail]).drop (c.history.length - 7)
    counts := { c.counts with failures := min (c.counts.failures + 1) 4294967295 } }

/-- The stream asks for the chunk again: by GAP in OPEN, by RESYNC in HOLD, where the fail is counted. -/
def Context.askedAgain (c : Context) (pos : Nat) : Context :=
  if c.state = .hold then
    { c with holdFailures := c.holdFailures + 1, notices := { c.notices with resync := true } }
  else { c with notices := { c.notices with gaps := insertPos pos c.notices.gaps } }

theorem Context.askedAgain_window (c : Context) (pos : Nat) : (c.askedAgain pos).window = c.window := by
  unfold Context.askedAgain; split_ifs <;> rfl

theorem Context.askedAgain_state (c : Context) (pos : Nat) : (c.askedAgain pos).state = c.state := by
  unfold Context.askedAgain; split_ifs <;> rfl

theorem Context.askedAgain_flags (c : Context) (pos : Nat) :
    (c.askedAgain pos).streaming = c.streaming ∧ (c.askedAgain pos).flushPending = c.flushPending := by
  unfold Context.askedAgain; split_ifs <;> exact ⟨rfl, rfl⟩

/-- The fail meets the threshold of R106. -/
def Context.atThreshold (c : Context) : Bool := decide (c.state = .opened ∧ 1 ≤ c.t ∧ c.t ≤ c.fails)

section
variable (X : State) (i : StreamIndex) {c : Context} {pos : Nat} {r : ChunkRecord} (retiring : Option Nat)

/-- What a fail does, by its chunk's failures before it and the stream's state. -/
theorem State.failReceiving_setCtx (h : c.window[pos]? = some r) :
    (X.setCtx i c).failReceiving i pos c retiring =
      if 3 ≤ r.failures then (X.setCtx i (c.failedAt pos r)).enterAborted i .chunkUnrecoverable retiring
      else if c.state = .hold then (X.setCtx i (c.failedAt pos r)).failInHold i (c.failedAt pos r) retiring
      else ((X.setCtx i (c.failedAt pos r)).testThreshold i pos (c.failedAt pos r)).retireGiven i retiring := by
  simp only [State.failReceiving, h, Option.elim_some, State.setCtx_setCtx, Context.modifyChunk_of_getElem? h]
  rfl

/-- Below the limits the stream asks again or enters HOLD; then retirement handling follows. -/
theorem State.failReceiving_retry (hrecv : c.state.receiving = true) (h : c.window[pos]? = some r) (hr : r.failures < 3)
    (hf : c.state = .hold → c.holdFailures < 2) :
    (X.setCtx i c).failReceiving i pos c retiring =
      if (c.failedAt pos r).atThreshold = true then
        (((X.withoutQueue i).raise (.streamHold i c.tag c.committed (c.failedAt pos r).fails)).setCtx i
          ((c.failedAt pos r).heldWith (X.queueOf i))).retireGiven i retiring
      else (X.setCtx i ((c.failedAt pos r).askedAgain pos)).retireGiven i retiring := by
  rw [State.failReceiving_setCtx _ _ _ h, if_neg (by omega)]
  rcases c.state.receiving_iff.mp hrecv with hs | hs
  · have ht : (c.failedAt pos r).atThreshold = true ↔ 1 ≤ (c.failedAt pos r).t ∧ (c.failedAt pos r).t ≤ (c.failedAt pos r).fails := by
      simp [Context.atThreshold, Context.failedAt, hs]
    rw [if_neg (by simp [hs]), State.testThreshold]
    simp only [ht]
    split_ifs
    · rw [State.enterHold_setCtx]; rfl
    · rw [State.modifyCtx_setCtx, Context.askedAgain, if_neg (by simp [Context.failedAt, hs])]; rfl
  · have hlt : (c.failedAt pos r).holdFailures + 1 < 3 := Nat.succ_lt_succ (hf hs)
    rw [if_pos hs, if_neg (by simp [Context.atThreshold, Context.failedAt, hs]), State.failInHold, if_pos hlt,
      State.modifyCtx_setCtx, State.modifyCtx_setCtx, Context.askedAgain, if_pos (by exact hs)]
    rfl

end

end Sys2Proof.Machine
end

section
/-! # A chunk that fails below the limits (O33) -/

namespace Sys2Proof.Machine

/-- The counters after a fail and the report of its read. -/
theorem State.counter_afterRead_fail {s : State} {o : EngineOp} {reason : FailReason}
    (hv : s.verification o = .fail reason) {k : Counter} (hk : k ≠ .eventsLost) :
    (s.afterRead o).counter k = if k = .chunksFailed then (s.counter k).add 1
      else if k = .correctedErrors then (s.counter k).add (s.countWords o.slot o.words .correctable)
      else if k = .uncorrectableErrors then
        if s.badWords o = 0 then s.counter k else (s.counter k).add (s.badWords o)
      else s.counter k := by
  rw [State.counter_afterRead, hv, State.countVerification, State.counter_count, State.counter_reportRead _ _ hk]
  split_ifs <;> simp_all

theorem Context.heldWith_flags (c : Context) (queued : List Nat) :
    (c.heldWith queued).streaming = c.streaming ∧ (c.heldWith queued).flushPending = c.flushPending := ⟨rfl, rfl⟩

/-- Settles O33. The two outcomes of the threshold's test are the two blocks of the proof. -/
theorem failedChunkIsFetchedAgain : Obligations.FailedChunkIsFetchedAgain := by
  intro s o c r he hp hs hc hrecv hr hlt bytes words hsound hwrong history fails failed holds hhold
  have hbad : s.badWords o = 0 := State.badWords_eq_zero hsound
  have hread := State.readBy_clean hbad
  obtain ⟨reason, hverdict, hretiring⟩ := verdictOf_fail hwrong
  have hv : s.verification o = .fail reason := (State.verification_read hp hbad).trans hverdict
  have hfailed : { r with state := .empty, ranges := [], failures := min (r.failures + 1) 3 } = failed := by
    simp only [failed, Nat.min_eq_left (show r.failures + 1 ≤ 3 by omega)]
  have hlen := (List.getElem?_eq_some_iff.mp hr).1
  have hfa : (c.failedAt o.pos r).window = c.window.set o.pos failed := by rw [← hfailed]; rfl
  have hthreshold : (c.failedAt o.pos r).atThreshold = true ↔ holds := decide_eq_true_iff
  have houtcome : ((s.afterRead o).setCtx o.stream c).applyOutcome o.stream o.pos (s.verification o) =
      if (c.failedAt o.pos r).atThreshold = true then
        (((s.afterRead o).withoutQueue o.stream).raise (.streamHold o.stream c.tag c.committed fails)).setCtx o.stream
          ((c.failedAt o.pos r).heldWith (s.queueOf o.stream))
      else (s.afterRead o).setCtx o.stream ((c.failedAt o.pos r).askedAgain o.pos) := by
    have hqueue : (s.afterRead o).queueOf o.stream = s.queueOf o.stream := by simp [State.queueOf]
    rw [State.applyOutcome_receiving _ _ _ _ hrecv, hv, State.outcomeReceiving, hretiring,
      State.failReceiving_retry _ _ _ hrecv hr hlt hhold, hqueue]
    rfl
  by_cases hh : holds
  · have hopen : c.state ≠ .hold := by simp [hh.1]
    rw [if_pos (hthreshold.mpr hh)] at houtcome
    have hu := (congrArg (State.settle · o.stream) houtcome).trans
      (State.settle_live _ _ (by simp [Context.heldWith]) (by simp [Context.heldWith]))
    obtain ⟨hexec, hengine, hothers, hholds, hrest⟩ := State.completed_spec he hs hc hu (by simp) (by simp)
    rw [hs.poolTest_quiet (by simp [hread]) (by simp [hread]) (by simp)] at hexec
    refine ⟨_, _, hexec, hengine, hothers, hholds, ?_, flagsTested_flagsTested rfl rfl, fun h => absurd hh h,
      fun _ => ⟨?_, fun p hp => ?_, ?_, ?_, ?_⟩, ?_, ?_, ?_⟩
    · simp only [if_pos hh, if_neg hopen]; rfl
    · rw [Context.flagsTested, Context.heldWith_getElem?, hfa, List.getElem?_set_self hlen, Option.map_some,
        ChunkRecord.atAbort_of_empty rfl rfl]
    · rw [Context.flagsTested, Context.heldWith_getElem?, hfa, List.getElem?_set_ne (Ne.symm hp), State.count_queueOf]
    · simp
    · simp only [State.setCtx_events]
      exact State.raise_events_congr (by simp [hread]) (by simp) (by simp) _
    · simp only [State.setCtx_errors]
      exact State.raise_errors_congr (by simp [hread]) (by simp [hread]) (by simp) _
    · simp [State.counter_afterRead_fail hv]
    · intro k hk
      simp only [List.mem_cons, not_or] at hk
      simp [State.counter_afterRead_fail hv, hbad, hk]
    · refine hrest.trans ?_
      simp only [State.setCtx_pool, State.setCtx_offered, State.raise_pool, State.raise_offered,
        State.withoutQueue_pool, State.withoutQueue_offered, State.afterRead_pool, State.afterRead_offered, hread,
        hengine]
  · rw [if_neg (hthreshold.not.mpr hh)] at houtcome
    have hstate : ((c.failedAt o.pos r).askedAgain o.pos).state = c.state := Context.askedAgain_state _ _
    have hlive := c.state.receiving_iff.mp hrecv
    have hflags := (c.failedAt o.pos r).askedAgain_flags o.pos
    have hu := (congrArg (State.settle · o.stream) houtcome).trans
      (State.settle_live _ _ (by rw [hstate]; rcases hlive with h | h <;> simp [h])
        (by rw [hstate]; rcases hlive with h | h <;> simp [h]))
    obtain ⟨hexec, hengine, hothers, hholds, hrest⟩ := State.completed_spec he hs hc hu (by simp) (by simp)
    rw [hs.poolTest_quiet (by simp [hread]) (by simp [hread]) (by simp)] at hexec
    refine ⟨_, _, hexec, hengine, hothers, hholds, ?_, flagsTested_flagsTested hflags.1 hflags.2,
      fun _ => ⟨oneRecord_set hr ?_, ?_, ?_, ?_⟩, fun h => absurd h hh, ?_, ?_, ?_⟩
    · simp only [if_neg hh, Context.askedAgain]
      rcases hlive with h | h <;> simp [h, Context.failedAt, Context.flagsTested, history]
    · exact ((c.failedAt o.pos r).askedAgain_window o.pos).trans hfa
    · simp
    · simp [hread]
    · simp [hread]
    · simp [State.counter_afterRead_fail hv]
    · intro k hk
      simp only [List.mem_cons, not_or] at hk
      simp [State.counter_afterRead_fail hv, hbad, hk]
    · refine hrest.trans ?_
      simp only [State.setCtx_pool, State.setCtx_offered, State.setCtx_verifyQueue, State.afterRead_pool,
        State.afterRead_offered, State.afterRead_verifyQueue, hread, hengine]

end Sys2Proof.Machine
end

section
/-! # Retirement handling and entry to ABORTED -/

namespace Sys2Proof.Machine

/-! ## Retirement handling for a chunk that a failure emptied (R91) -/

/-- The slot retired where the limit and the head reserve allow it, `rise` being what that adds to the reserve. -/
def State.sentToRetirement (X : State) (slot : Slot) (rise : Nat) : State :=
  if X.pool.mayRetire rise then (X.retireSlot slot).raiseReserve rise else X

/-- What a stream's retired slot adds to the head reserve (R81, R91). -/
def Context.riseAt (c : Context) (pos : Nat) : Nat := if c.state.receiving && decide (c.posOf c.head = pos) then 1 else 0

/-- The chunk without its slot, when that was retired. -/
def Context.slotlessIf (c : Context) (retired : Bool) (pos : Nat) : Context :=
  if retired then c.modifyChunk pos fun r => { r with slot := none } else c

section
variable (X : State) (slot : Slot) (rise : Nat)

@[simp] theorem State.sentToRetirement_table : (X.sentToRetirement slot rise).table = X.table := by
  unfold State.sentToRetirement; split_ifs <;> simp
@[simp] theorem State.sentToRetirement_lanes : (X.sentToRetirement slot rise).lanes = X.lanes := by
  unfold State.sentToRetirement; split_ifs <;> simp
@[simp] theorem State.sentToRetirement_settings : (X.sentToRetirement slot rise).settings = X.settings := by
  unfold State.sentToRetirement; split_ifs <;> simp
@[simp] theorem State.sentToRetirement_time : (X.sentToRetirement slot rise).time = X.time := by
  unfold State.sentToRetirement; split_ifs <;> simp
@[simp] theorem State.sentToRetirement_events : (X.sentToRetirement slot rise).events = X.events := by
  unfold State.sentToRetirement; split_ifs <;> simp
@[simp] theorem State.sentToRetirement_errors : (X.sentToRetirement slot rise).errors = X.errors := by
  unfold State.sentToRetirement; split_ifs <;> simp
@[simp] theorem State.sentToRetirement_offered : (X.sentToRetirement slot rise).offered = X.offered := by
  unfold State.sentToRetirement; split_ifs <;> simp
@[simp] theorem State.sentToRetirement_verifyQueue : (X.sentToRetirement slot rise).verifyQueue = X.verifyQueue := by
  unfold State.sentToRetirement; split_ifs <;> simp
@[simp] theorem State.sentToRetirement_engine : (X.sentToRetirement slot rise).engine = X.engine := by
  unfold State.sentToRetirement; split_ifs <;> simp
@[simp] theorem State.sentToRetirement_drainMap : (X.sentToRetirement slot rise).drainMap = X.drainMap := by
  unfold State.sentToRetirement; split_ifs <;> simp

theorem State.sentToRetirement_pool : (X.sentToRetirement slot rise).pool =
    if X.pool.mayRetire rise then { X.pool.retire slot with reserve := X.pool.reserve + rise } else X.pool := by
  unfold State.sentToRetirement; split_ifs <;> rfl

theorem State.counter_sentToRetirement (k : Counter) : (X.sentToRetirement slot rise).counter k =
    if X.pool.mayRetire rise = true ∧ k = .retiredSlots then (X.counter k).add 1 else X.counter k := by
  unfold State.sentToRetirement; split_ifs <;> simp_all

end

theorem State.retireFromChunk_setCtx {X : State} {i : StreamIndex} {pos : Nat} {slot : Slot}
    (h : X.pool.slotOf i pos = some slot) (c : Context) :
    (X.setCtx i c).retireFromChunk i pos =
      (X.sentToRetirement slot (c.riseAt pos)).setCtx i (c.slotlessIf (X.pool.mayRetire (c.riseAt pos)) pos) := by
  have hrise : (if (X.setCtx i c).isReceivingHead i pos = true then 1 else 0) = c.riseAt pos := by
    simp [State.isReceivingHead, Context.riseAt]
  simp only [State.retireFromChunk, State.setCtx_pool, h, hrise, State.sentToRetirement, Context.slotlessIf]
  split_ifs
  · simp only [State.retireSlot_setCtx, State.modifyCtx_setCtx, State.raiseReserve_setCtx]
  · rfl

/-! ## Entry to ABORTED (R150) -/

@[simp] theorem State.poolTest_setCtx (X : State) (i : StreamIndex) (c : Context) :
    (X.setCtx i c).poolTest = X.poolTest.setCtx i c := by
  by_cases h : X.device = .ready ∧ X.pool.tested X.settings.low X.settings.high ≠ X.pool.state
  · let st := X.pool.tested X.settings.low X.settings.high
    have hX : X.poolTest = State.raise { X with pool := { X.pool with state := st }, lanes := X.lanes.map (flagActive st) }
        (.pool st X.pool.free X.pool.reserve X.pool.spare X.pool.retiredCount) := if_pos h
    rw [hX, ← State.raise_setCtx]
    exact if_pos h
  · rw [show X.poolTest = X from if_neg h]
    exact if_neg h

/-- The stream leaves the head reserve (R81). -/
def State.leftReserve (X : State) (c : Context) : State := if c.headSlotless then X.lowerReserve else X

section
variable (X : State) (c : Context)

@[simp] theorem State.leftReserve_table : (X.leftReserve c).table = X.table := by
  unfold State.leftReserve; split_ifs <;> simp
@[simp] theorem State.leftReserve_lanes : (X.leftReserve c).lanes = X.lanes := by
  unfold State.leftReserve; split_ifs <;> simp
@[simp] theorem State.leftReserve_settings : (X.leftReserve c).settings = X.settings := by
  unfold State.leftReserve; split_ifs <;> simp
@[simp] theorem State.leftReserve_time : (X.leftReserve c).time = X.time := by
  unfold State.leftReserve; split_ifs <;> simp
@[simp] theorem State.leftReserve_events : (X.leftReserve c).events = X.events := by
  unfold State.leftReserve; split_ifs <;> simp
@[simp] theorem State.leftReserve_errors : (X.leftReserve c).errors = X.errors := by
  unfold State.leftReserve; split_ifs <;> simp
@[simp] theorem State.leftReserve_offered : (X.leftReserve c).offered = X.offered := by
  unfold State.leftReserve; split_ifs <;> simp
@[simp] theorem State.leftReserve_verifyQueue : (X.leftReserve c).verifyQueue = X.verifyQueue := by
  unfold State.leftReserve; split_ifs <;> simp
@[simp] theorem State.counter_leftReserve (k : Counter) : (X.leftReserve c).counter k = X.counter k := by
  unfold State.leftReserve; split_ifs <;> simp

theorem State.leftReserve_pool : (X.leftReserve c).pool =
    { X.pool with reserve := if c.headSlotless then X.pool.reserve - 1 else X.pool.reserve } := by
  unfold State.leftReserve; split_ifs <;> rfl

end

/-- ABORTED with its cause. -/
def Context.abortedFor (c : Context) (cause : Cause) : Context := { c with state := .aborted, cause := some cause }

/-- The rest of R150's list: offers withdrawn, queue entries removed, unverified chunks emptied, requests given way to
STOP. -/
def Context.stopped (c : Context) (offers queued : List Nat) : Context :=
  { c with
    window :=
      ((c.changeChunks offers ChunkRecord.withdrawn).changeChunks queued ChunkRecord.emptied).emptyUnverified.window
    notices := { c.notices with resync := false, gaps := [], stop := true } }

theorem Context.stopped_getElem? (c : Context) (offers queued : List Nat) (p : Nat) :
    (c.stopped offers queued).window[p]? = (c.window[p]?).map fun r => r.atAbort (offers.count p) (queued.count p) :=
  c.emptyUnverified_getElem? offers queued p

/-- Entry to ABORTED where no watermark is crossed; `Y` and `d` are what the retirement of the same event leaves. -/
theorem State.enterAborted_setCtx {X Y : State} {i : StreamIndex} {c d : Context} {cause : Cause} {retiring : Option Nat}
    (hY : ((X.leftReserve c).setCtx i (c.abortedFor cause)).retireGiven i retiring = Y.setCtx i d) (hq : Y.poolTest = Y) :
    (X.setCtx i c).enterAborted i cause retiring =
      (((Y.withoutOffers i).withoutQueue i).raise (.streamAborted i c.tag cause c.committed)).setCtx i
        (d.stopped (Y.offersOf i) (Y.queueOf i)) := by
  have hleft : (if c.headSlotless then (X.setCtx i (c.abortedFor cause)).lowerReserve else X.setCtx i (c.abortedFor cause)) =
      (X.leftReserve c).setCtx i (c.abortedFor cause) := by
    unfold State.leftReserve; split_ifs <;> rfl
  simp only [State.enterAborted, State.ctx?_setCtx_self, State.modifyCtx_setCtx]
  rw [show ({ c with state := .aborted, cause := some cause } : Context) = c.abortedFor cause from rfl, hleft, hY,
    State.poolTest_setCtx, hq, State.withdrawOffers_setCtx, State.clearQueue_setCtx, State.modifyCtx_setCtx,
    State.raise_setCtx]
  rfl

/-! ## The limits of R104 and R108 -/

/-- The cause of the abort at a limit: a chunk's fourth failure, or the third hold failure. -/
def ChunkRecord.limitCause (r : ChunkRecord) : Cause := if 3 ≤ r.failures then .chunkUnrecoverable else .pathUnreliable

/-- The context with the fail at a limit recorded; the fourth failure of a chunk is no hold failure. -/
def Context.failedAtLimit (c : Context) (pos : Nat) (r : ChunkRecord) : Context :=
  { c.failedAt pos r with holdFailures := if 3 ≤ r.failures then c.holdFailures else c.holdFailures + 1 }

theorem State.failReceiving_limit (X : State) (i : StreamIndex) {c : Context} {pos : Nat} {r : ChunkRecord}
    (retiring : Option Nat) (h : c.window[pos]? = some r)
    (hl : 3 ≤ r.failures ∨ (c.state = .hold ∧ 2 ≤ c.holdFailures)) :
    (X.setCtx i c).failReceiving i pos c retiring =
      (X.setCtx i (c.failedAtLimit pos r)).enterAborted i r.limitCause retiring := by
  rw [State.failReceiving_setCtx _ _ _ h, ChunkRecord.limitCause, Context.failedAtLimit]
  by_cases hr : 3 ≤ r.failures
  · simp only [if_pos hr]; rfl
  · obtain ⟨hs, hf⟩ := hl.resolve_left hr
    have hge : ¬(c.failedAt pos r).holdFailures + 1 < 3 := by
      rw [show (c.failedAt pos r).holdFailures = c.holdFailures from rfl]; omega
    simp only [if_neg hr, if_pos hs, State.failInHold, if_neg hge, State.modifyCtx_setCtx]
    rfl

/-- An emptied chunk keeps its slot, so it is the head's slot that decides as before. -/
theorem Context.failedAt_headSlotless {c : Context} {pos : Nat} {r : ChunkRecord} (h : c.window[pos]? = some r) :
    (c.failedAt pos r).headSlotless = c.headSlotless := by
  have hlt := (List.getElem?_eq_some_iff.mp h).1
  have hw : (c.failedAt pos r).window[c.posOf c.head]? =
      (c.window.set pos { r with state := .empty, ranges := [], failures := min (r.failures + 1) 3 })[c.posOf c.head]? := rfl
  unfold Context.headSlotless
  rw [show (c.failedAt pos r).posOf (c.failedAt pos r).head = c.posOf c.head from rfl, hw, List.getElem?_set]
  split_ifs with hp
  · rw [← hp, h]
  · rfl

end Sys2Proof.Machine
end

section
/-! # A fail for an uncorrectable word in OPEN or HOLD (O11) -/

namespace Sys2Proof.Machine

/-! ## The report of an uncorrectable word -/

theorem State.readBy_pool {s : State} {o : EngineOp} (h : s.badWords o ≠ 0) :
    (s.readBy o).pool = s.pool.setMark o.slot := by
  rw [State.readBy, if_neg h, State.raise_pool]

theorem State.readBy_events {s : State} {o : EngineOp} (h : s.badWords o ≠ 0) :
    (s.readBy o).events =
      (s.raise (.deviceError .bufferUncorrected (some o.stream) none (some o.slot) (some o.index))).events := by
  rw [State.readBy, if_neg h]
  apply State.raise_events_congr <;> rfl

theorem State.readBy_errors {s : State} {o : EngineOp} (h : s.badWords o ≠ 0) :
    (s.readBy o).errors.bufferUncorrected = true ∧ (s.readBy o).errors.first =
      s.errors.first.or (some ⟨.bufferUncorrected, some o.stream, some o.slot, some o.index⟩) := by
  rw [State.readBy, if_neg h]
  obtain ⟨hf, hb⟩ := State.raise_errors_kept { s with
    pool := s.pool.setMark o.slot
    errors := { s.errors with
      bufferUncorrected := true
      first := s.errors.first.or (some ⟨.bufferUncorrected, some o.stream, some o.slot, some o.index⟩) } }
    (.deviceError .bufferUncorrected (some o.stream) none (some o.slot) (some o.index)) (by simp)
  exact ⟨hb, hf⟩

/-- A later event leaves the report of the read in the error summary. -/
theorem State.raise_reported {s X : State} {o : EngineOp} (h : s.badWords o ≠ 0) (hX : X.errors = (s.readBy o).errors)
    (e : Event) : (X.raise e).errors.bufferUncorrected = true ∧ (X.raise e).errors.first =
      s.errors.first.or (some ⟨.bufferUncorrected, some o.stream, some o.slot, some o.index⟩) := by
  obtain ⟨hb, hf⟩ := State.readBy_errors h
  rw [← hX] at hb hf
  obtain ⟨hf', hb'⟩ := X.raise_errors_kept e (by rw [hf]; simp)
  exact ⟨hb'.trans hb, hf'.trans hf⟩

/-! ## The pool after it -/

/-- The pool with the slot marked and the head reserve as the stream's own change leaves it. -/
def Pool.reported (p : Pool) (slot : Slot) (reserve : Nat) : Pool := { p.setMark slot with reserve := reserve }

theorem Pool.mayRetire_reported (p : Pool) (slot : Slot) (reserve rise : Nat) :
    (p.reported slot reserve).mayRetire rise = true ↔ p.retiredCount < 64 ∧ reserve + rise ≤ p.free := decide_eq_true_iff

theorem State.leftReserve_reported {X : State} {p : Pool} {slot : Slot} (hX : X.pool = p.setMark slot) (c : Context) :
    (X.leftReserve c).pool = p.reported slot (if c.headSlotless then p.reserve - 1 else p.reserve) := by
  rw [State.leftReserve_pool, hX]; rfl

/-- One slotless head less and one slot retired cross no watermark below `RoomBelowHigh`. -/
theorem Serving.poolTest_left {s X : State} (h : Serving s) (hroom : RoomBelowHigh s) {slot x : Slot}
    (hX : X.pool = s.pool.setMark slot) (hset : X.settings = s.settings) (c : Context) :
    ((X.leftReserve c).sentToRetirement x 0).poolTest = (X.leftReserve c).sentToRetirement x 0 := by
  obtain ⟨-, -, hok, hlow⟩ := h
  have hsettings : ((X.leftReserve c).sentToRetirement x 0).settings = s.settings := by simp [hset]
  have hstate : ((X.leftReserve c).sentToRetirement x 0).pool.state = s.pool.state := by
    rw [State.sentToRetirement_pool, State.leftReserve_reported hX]; split_ifs <;> rfl
  have hspare : ((X.leftReserve c).sentToRetirement x 0).pool.spare =
      s.pool.free - if c.headSlotless then s.pool.reserve - 1 else s.pool.reserve := by
    rw [State.sentToRetirement_pool, State.leftReserve_reported hX]; split_ifs <;> rfl
  refine State.poolTest_quiet (fun hs => ?_) fun hs => ?_
  · rw [hstate] at hs
    have := hok hs
    rw [hsettings, hspare]
    unfold Pool.spare at this
    split_ifs <;> omega
  · rw [hstate] at hs
    have := hroom hs
    rw [hsettings, hspare]
    unfold Pool.spare at this
    split_ifs <;> omega

theorem Context.riseAt_receiving {c d : Context} (h : d.state.receiving = true) (hw : d.w = c.w)
    (hc : d.committed = c.committed) (pos : Nat) : d.riseAt pos = if c.posOf c.head = pos then 1 else 0 := by
  have hhead : d.posOf d.head = c.posOf c.head := by simp only [Context.posOf, Context.head, hw, hc]
  rw [Context.riseAt, h, Bool.true_and, hhead]
  by_cases hp : c.posOf c.head = pos <;> simp [hp]

/-! ## The window after it -/

theorem Context.slotlessIf_window {c : Context} {w : List ChunkRecord} {pos : Nat} {x : ChunkRecord} {retired : Bool}
    (h : c.window = w.set pos x) (hlt : pos < w.length) : (c.slotlessIf retired pos).window =
      w.set pos { x with slot := if retired = true then none else x.slot } := by
  have hx : c.window[pos]? = some x := by rw [h, List.getElem?_set_self hlt]
  unfold Context.slotlessIf
  split_ifs with hr
  · rw [Context.modifyChunk_of_getElem? hx, h, List.set_set]
  · simp [h]

/-- Retirement of the failed chunk's slot and entry to HOLD come to the same in either order. -/
theorem Context.slotlessIf_heldWith {c : Context} {w : List ChunkRecord} {pos : Nat} {x : ChunkRecord} (retired : Bool)
    (h : c.window = w.set pos x) (hlt : pos < w.length) (hs : x.state = .empty) (hr : x.ranges = []) (queued : List Nat)
    (p : Nat) : ((c.heldWith queued).slotlessIf retired pos).window[p]? =
      ((w.set pos { x with slot := if retired = true then none else x.slot })[p]?).map
        fun y => y.atAbort 0 (queued.count p) := by
  have hmod : ((c.heldWith queued).slotlessIf retired pos).window[p]? = ((c.heldWith queued).window[p]?).map
      fun y => if pos = p ∧ retired = true then { y with slot := none } else y := by
    unfold Context.slotlessIf
    cases retired
    · simp
    · simp only [if_true, Context.modifyChunk, List.getElem?_modify]
      by_cases hp : pos = p <;> simp [hp]
  rw [hmod, Context.heldWith_getElem?, h]
  by_cases hp : pos = p
  · subst hp
    have hkept : ∀ slot : Option Slot, ({ x with slot := slot } : ChunkRecord).atAbort 0 (queued.count pos) =
        { x with slot := slot } := fun _ => ChunkRecord.atAbort_of_empty (by exact hs) (by exact hr) _
    simp only [List.getElem?_set_self hlt, Option.map_some, hkept]
    cases retired <;> simp
  · simp [List.getElem?_set_ne hp, hp, Function.comp_def]

@[simp] theorem Context.slotlessIf_state (c : Context) (retired : Bool) (pos : Nat) :
    (c.slotlessIf retired pos).state = c.state := by
  unfold Context.slotlessIf; split_ifs <;> rfl

theorem Context.slotlessIf_stopped (c : Context) (retired : Bool) (pos : Nat) (offers queued : List Nat) :
    (c.slotlessIf retired pos).stopped offers queued =
      { c.stopped offers queued with window := ((c.slotlessIf retired pos).stopped offers queued).window } := by
  unfold Context.slotlessIf; split_ifs <;> rfl

theorem Context.slotlessIf_eq (c : Context) (retired : Bool) (pos : Nat) :
    c.slotlessIf retired pos = { c with window := (c.slotlessIf retired pos).window } := by
  unfold Context.slotlessIf; split_ifs <;> rfl

end Sys2Proof.Machine
end

section
/-! # A fail for an uncorrectable word: the slot reported and retired (R89, R91, O11) -/

namespace Sys2Proof.Machine

/-- What a fail for an uncorrectable word leaves of the device, whatever the stream does: the slot marked, and retired where
the limit and the head reserve allow it. -/
structure ReportedAndRetired (s : State) (o : EngineOp) (reserve rise : Nat) (Y : State) : Prop where
  table : Y.table = s.table
  lanes : Y.lanes = s.lanes
  pool : Y.pool = if (s.pool.reported o.slot reserve).mayRetire rise then
      { (s.pool.reported o.slot reserve).retire o.slot with reserve := reserve + rise } else s.pool.reported o.slot reserve
  counter : ∀ k, k ≠ .eventsLost → Y.counter k =
    if (s.pool.reported o.slot reserve).mayRetire rise = true ∧ k = .retiredSlots
      then ((s.afterRead o).counter k).add 1 else (s.afterRead o).counter k
  flagged : Y.errors.bufferUncorrected = true
  first : Y.errors.first = s.errors.first.or (some ⟨.bufferUncorrected, some o.stream, some o.slot, some o.index⟩)

/-- Retirement handling of the marked slot, events and queues apart. -/
theorem ReportedAndRetired.of_sent {s X Y : State} {o : EngineOp} {reserve rise : Nat}
    (hX : X.pool = s.pool.reported o.slot reserve) (hcounter : ∀ k, k ≠ .eventsLost → X.counter k = (s.afterRead o).counter k)
    (hpool : Y.pool = (X.sentToRetirement o.slot rise).pool)
    (hcount : ∀ k, k ≠ .eventsLost → Y.counter k = (X.sentToRetirement o.slot rise).counter k)
    (htable : Y.table = s.table) (hlanes : Y.lanes = s.lanes)
    (herrors : Y.errors.bufferUncorrected = true ∧ Y.errors.first =
      s.errors.first.or (some ⟨.bufferUncorrected, some o.stream, some o.slot, some o.index⟩)) :
    ReportedAndRetired s o reserve rise Y where
  table := htable
  lanes := hlanes
  pool := by rw [hpool, State.sentToRetirement_pool, hX]; rfl
  counter k hk := by rw [hcount k hk, State.counter_sentToRetirement, hX, hcounter k hk]
  flagged := herrors.1
  first := herrors.2

/-! ## The three ways such a fail goes on -/

section
variable {s : State} {o : EngineOp} {c : Context} {r : ChunkRecord}

theorem State.afterRead_slotOf (hb : s.badWords o ≠ 0) (i : StreamIndex) (pos : Nat) :
    (s.afterRead o).pool.slotOf i pos = s.pool.slotOf i pos := by
  rw [State.afterRead_pool, State.readBy_pool hb]; rfl

theorem State.completed_unread (hp : o.pattern = false) (hb : s.badWords o ≠ 0) (hrecv : c.state.receiving = true) :
    s.completed o c =
      (((s.afterRead o).setCtx o.stream c).failReceiving o.stream o.pos c (some o.pos)).settle o.stream := by
  rw [State.completed, State.applyOutcome_receiving _ _ _ _ hrecv, State.verification_unread hp hb]
  rfl

/-- At a limit: the stream leaves the head reserve, the slot goes to retirement handling, the stream becomes ABORTED. -/
theorem State.completed_unread_limit (hp : o.pattern = false) (hb : s.badWords o ≠ 0) (hrecv : c.state.receiving = true)
    (hr : c.window[o.pos]? = some r) (hof : s.pool.slotOf o.stream o.pos = some o.slot) (hs : Serving s)
    (hroom : RoomBelowHigh s) (hl : 3 ≤ r.failures ∨ (c.state = .hold ∧ 2 ≤ c.holdFailures)) {reserve : Nat}
    (hreserve : reserve = if c.headSlotless then s.pool.reserve - 1 else s.pool.reserve) :
    let Y := ((((s.afterRead o).leftReserve c).sentToRetirement o.slot 0).withoutOffers o.stream).withoutQueue o.stream
    s.completed o c = (Y.raise (.streamAborted o.stream c.tag r.limitCause c.committed)).setCtx o.stream
      ((((c.failedAtLimit o.pos r).abortedFor r.limitCause).slotlessIf
        ((s.pool.reported o.slot reserve).mayRetire 0) o.pos).stopped (s.offersOf o.stream) (s.queueOf o.stream)).flagsTested ∧
    ReportedAndRetired s o reserve 0 (Y.raise (.streamAborted o.stream c.tag r.limitCause c.committed)) := by
  intro Y
  have hpool : (s.afterRead o).pool = s.pool.setMark o.slot := by rw [State.afterRead_pool, State.readBy_pool hb]
  have hleft : ((s.afterRead o).leftReserve c).pool = s.pool.reported o.slot reserve := by
    rw [State.leftReserve_reported hpool, hreserve]
  have hhead : (s.afterRead o).leftReserve (c.failedAtLimit o.pos r) = (s.afterRead o).leftReserve c := by
    unfold State.leftReserve
    rw [show (c.failedAtLimit o.pos r).headSlotless = c.headSlotless from Context.failedAt_headSlotless hr]
  have hretire := State.retireFromChunk_setCtx (X := (s.afterRead o).leftReserve c) (i := o.stream) (pos := o.pos)
    (by rw [hleft]; exact hof) ((c.failedAtLimit o.pos r).abortedFor r.limitCause)
  rw [show ((c.failedAtLimit o.pos r).abortedFor r.limitCause).riseAt o.pos = 0 from rfl, hleft, ← hhead] at hretire
  refine ⟨?_, .of_sent hleft (fun k _ => by simp) (by simp [Y]) (fun k hk => by simp [Y, hk]) (by simp [Y]) (by simp [Y])
    (State.raise_reported hb (by simp [Y]) _)⟩
  rw [State.completed_unread hp hb hrecv, State.failReceiving_limit _ _ _ hr hl,
    State.enterAborted_setCtx (retiring := some o.pos) hretire (by rw [hhead]; exact hs.poolTest_left hroom hpool (by simp) c), hhead,
    State.settle_live _ _ (by simp [Context.stopped, Context.abortedFor])
      (by simp [Context.stopped, Context.abortedFor])]
  simp only [State.offersOf, State.queueOf, State.sentToRetirement_offered, State.sentToRetirement_verifyQueue,
    State.leftReserve_offered, State.leftReserve_verifyQueue, State.afterRead_offered, State.afterRead_verifyQueue]
  rfl

/-- Below the limits with the threshold met: the stream enters HOLD, then the slot goes to retirement handling. -/
theorem State.completed_unread_hold (hp : o.pattern = false) (hb : s.badWords o ≠ 0) (hrecv : c.state.receiving = true)
    (hr : c.window[o.pos]? = some r) (hof : s.pool.slotOf o.stream o.pos = some o.slot)
    (hlt : r.failures < 3) (hf : c.state = .hold → c.holdFailures < 2) (hh : (c.failedAt o.pos r).atThreshold = true) :
    let X := ((s.afterRead o).withoutQueue o.stream).raise
      (.streamHold o.stream c.tag c.committed (c.failedAt o.pos r).fails)
    let rise := if c.posOf c.head = o.pos then 1 else 0
    s.completed o c = (X.sentToRetirement o.slot rise).setCtx o.stream
      (((c.failedAt o.pos r).heldWith (s.queueOf o.stream)).slotlessIf
        ((s.pool.reported o.slot s.pool.reserve).mayRetire rise) o.pos).flagsTested ∧
    ReportedAndRetired s o s.pool.reserve rise (X.sentToRetirement o.slot rise) := by
  intro X rise
  have hX : X.pool = s.pool.reported o.slot s.pool.reserve := by
    rw [State.raise_pool, State.withoutQueue_pool, State.afterRead_pool, State.readBy_pool hb]; rfl
  have hqueue : (s.afterRead o).queueOf o.stream = s.queueOf o.stream := by simp [State.queueOf]
  have hrise : ((c.failedAt o.pos r).heldWith (s.queueOf o.stream)).riseAt o.pos = rise :=
    Context.riseAt_receiving rfl rfl rfl _
  have herrors : X.errors.bufferUncorrected = true ∧ X.errors.first = _ := State.raise_reported hb (by simp) _
  refine ⟨?_, .of_sent hX (fun k hk => by simp [X, hk]) rfl (fun _ _ => rfl) (by simp [X]) (by simp [X]) (by simpa using herrors)⟩
  rw [State.completed_unread hp hb hrecv, State.failReceiving_retry _ _ _ hrecv hr hlt hf, if_pos hh, hqueue,
    State.retireGiven, State.retireFromChunk_setCtx (X := X) (by rw [hX]; exact hof), hrise, hX,
    State.settle_live _ _ (by simp [Context.heldWith]) (by simp [Context.heldWith])]

/-- Below the limits and the threshold: the stream asks for the chunk again, and the slot goes to retirement handling. -/
theorem State.completed_unread_again (hp : o.pattern = false) (hb : s.badWords o ≠ 0) (hrecv : c.state.receiving = true)
    (hr : c.window[o.pos]? = some r) (hof : s.pool.slotOf o.stream o.pos = some o.slot)
    (hlt : r.failures < 3) (hf : c.state = .hold → c.holdFailures < 2) (hh : (c.failedAt o.pos r).atThreshold ≠ true) :
    let rise := if c.posOf c.head = o.pos then 1 else 0
    s.completed o c = ((s.afterRead o).sentToRetirement o.slot rise).setCtx o.stream
      (((c.failedAt o.pos r).askedAgain o.pos).slotlessIf
        ((s.pool.reported o.slot s.pool.reserve).mayRetire rise) o.pos).flagsTested ∧
    ReportedAndRetired s o s.pool.reserve rise ((s.afterRead o).sentToRetirement o.slot rise) := by
  intro rise
  have hX : (s.afterRead o).pool = s.pool.reported o.slot s.pool.reserve := by
    rw [State.afterRead_pool, State.readBy_pool hb]; rfl
  have hstate : ((c.failedAt o.pos r).askedAgain o.pos).state = c.state := Context.askedAgain_state _ _
  have hrise : ((c.failedAt o.pos r).askedAgain o.pos).riseAt o.pos = rise := by
    refine Context.riseAt_receiving (by rw [hstate, hrecv]) ?_ ?_ _ <;> unfold Context.askedAgain <;> split_ifs <;> rfl
  have hlive := c.state.receiving_iff.mp hrecv
  refine ⟨?_, .of_sent hX (fun _ _ => rfl) rfl (fun _ _ => rfl) (by simp) (by simp) ?_⟩
  · rw [State.completed_unread hp hb hrecv, State.failReceiving_retry _ _ _ hrecv hr hlt hf, if_neg hh,
      State.retireGiven, State.retireFromChunk_setCtx (by rw [hX]; exact hof), hrise, hX,
      State.settle_live _ _ (by rw [Context.slotlessIf_state, hstate]; rcases hlive with h | h <;> simp [h])
        (by rw [Context.slotlessIf_state, hstate]; rcases hlive with h | h <;> simp [h])]
  · simpa using State.readBy_errors hb

end

end Sys2Proof.Machine
end

section
/-! # What such a fail leaves of the device (O11) -/

namespace Sys2Proof.Machine

theorem Pool.reported_mark {p : Pool} (h : CellsWF false p.marks) (slot : Slot) (reserve : Nat) (x : Slot) :
    (p.reported slot reserve).mark x = if x = slot then true else p.mark x := cellGet_cellPut h slot x true

theorem Pool.retire_use {p : Pool} (h : CellsWF .free p.uses) (slot x : Slot) :
    (p.retire slot).use x = if x = slot then .retired else p.use x := cellGet_cellPut h slot x .retired

theorem ReportedAndRetired.pool_eq {s Y : State} {o : EngineOp} {reserve rise : Nat}
    (h : ReportedAndRetired s o reserve rise Y) : Y.pool = { s.pool with
      uses := Y.pool.uses, marks := Y.pool.marks
      reserve := if s.pool.retiredCount < 64 ∧ reserve + rise ≤ s.pool.free then reserve + rise else reserve } := by
  have hpool := h.pool
  simp only [Pool.mayRetire_reported] at hpool
  split_ifs at hpool with hr
  · rw [hpool, if_pos hr]; rfl
  · rw [hpool, if_neg hr]; rfl

/-- The slot of the chunk is marked, and is retired where the conditions of R91 hold; every other slot is as it was. -/
theorem ReportedAndRetired.slots {s Y : State} {o : EngineOp} {reserve rise : Nat} (hcan : CanonicalForm s)
    (h : ReportedAndRetired s o reserve rise Y) : Y.pool.mark o.slot = true ∧
      Y.pool.use o.slot = (if s.pool.retiredCount < 64 ∧ reserve + rise ≤ s.pool.free then .retired
        else s.pool.use o.slot) ∧
      ∀ x, x ≠ o.slot → Y.pool.use x = s.pool.use x ∧ Y.pool.mark x = s.pool.mark x := by
  obtain ⟨-, -, -, huses, hmarks⟩ := hcan
  have hmark : ∀ x, Y.pool.mark x = (s.pool.reported o.slot reserve).mark x := fun x => by
    rw [h.pool]; split_ifs <;> rfl
  have huse : ∀ x, Y.pool.use x = if s.pool.retiredCount < 64 ∧ reserve + rise ≤ s.pool.free then
      (s.pool.retire o.slot).use x else s.pool.use x := fun x => by
    rw [h.pool]; simp only [Pool.mayRetire_reported]; split_ifs <;> rfl
  simp only [hmark, huse, Pool.reported_mark hmarks, Pool.retire_use huses]
  exact ⟨by simp, by simp, fun x hx => by simp [hx]⟩

theorem ReportedAndRetired.counters {s Y : State} {o : EngineOp} {reserve rise : Nat}
    (hp : o.pattern = false) (hb : s.badWords o ≠ 0) (h : ReportedAndRetired s o reserve rise Y) :
    Y.counter .chunksFailed = (s.counter .chunksFailed).add 1 ∧
      Y.counter .uncorrectableErrors = (s.counter .uncorrectableErrors).add (s.badWords o) ∧
      Y.counter .retiredSlots = (if s.pool.retiredCount < 64 ∧ reserve + rise ≤ s.pool.free
        then (s.counter .retiredSlots).add 1 else s.counter .retiredSlots) ∧
      CountersKept s Y [.chunksFailed, .correctedErrors, .uncorrectableErrors, .retiredSlots, .eventsLost] := by
  have hv := State.verification_unread hp hb
  have hcounter := h.counter
  simp only [Pool.mayRetire_reported] at hcounter
  refine ⟨?_, ?_, ?_, fun k hk => ?_⟩
  · simp [hcounter, State.counter_afterRead_fail hv]
  · simp [hcounter, State.counter_afterRead_fail hv, hb]
  · simp [hcounter, State.counter_afterRead_fail hv]
  · simp only [List.mem_cons, not_or] at hk
    simp [hcounter, State.counter_afterRead_fail hv, hk]

/-- Settles O11. A limit is met, or the threshold, or neither: the three cases of the fail. -/
theorem bufferErrorSendsTheSlotToRetirement : Obligations.BufferErrorSendsTheSlotToRetirement := by
  intro s o c r he hp hs hcan hc hrecv hr hslot hof i words bad history fails aborts holds cause reserve rise retires
    failed hbad hroom
  have hbadWords : bad = s.badWords o := by
    rw [← State.countWords_uncorrectable, State.countWords, EngineOp.words_eq]
  have hb : s.badWords o ≠ 0 := hbadWords ▸ hbad
  have hlen := (List.getElem?_eq_some_iff.mp hr).1
  have hfailed : ({ r with
      state := .empty, ranges := [], failures := min (r.failures + 1) 3
      slot := if (s.pool.reported o.slot reserve).mayRetire rise = true then none else r.slot } : ChunkRecord) = failed := by
    simp only [failed, Pool.mayRetire_reported]
    rfl
  suffices h : ∃ Y d, s.completed o c = Y.setCtx i (Context.flagsTested d) ∧ ReportedAndRetired s o reserve rise Y ∧
      d = { c with
        state := if aborts then .aborted else if holds then .hold else c.state
        cause := if aborts then some cause else c.cause
        history := history
        holdFailures := if c.state = .hold ∧ r.failures < 3 then c.holdFailures + 1 else c.holdFailures
        counts := { c.counts with failures := min (c.counts.failures + 1) 4294967295 }
        notices :=
          if aborts then { c.notices with resync := false, gaps := [], stop := true }
          else if holds then { c.notices with gaps := [], resync := true }
          else if c.state = .hold then { c.notices with resync := true }
          else { c.notices with gaps := insertPos o.pos c.notices.gaps }
        window := d.window } ∧
      (aborts = false → holds = false → d.window = c.window.set o.pos failed) ∧
      (aborts = true ∨ holds = true → ∀ p, d.window[p]? = ((c.window.set o.pos failed)[p]?).map fun x : ChunkRecord =>
        x.atAbort (if aborts then s.offersAt i p else 0) (s.queuedAt i p)) ∧
      Y.verifyQueue =
        (if aborts || holds then s.verifyQueue.filter fun q => decide (q.stream ≠ i) else s.verifyQueue) ∧
      Y.offered = (if aborts then s.offered.filter fun x => decide (x.stream ≠ i) else s.offered) ∧
      (let told := s.raise (.deviceError .bufferUncorrected (some i) none (some o.slot) (some o.index))
       Y.events =
         if aborts then (told.raise (.streamAborted i c.tag cause c.committed)).events
         else if holds then (told.raise (.streamHold i c.tag c.committed fails)).events else told.events) by
    obtain ⟨Y, d, hu, hY, hd, hone, hall, hqueue, hoffered, hevents⟩ := h
    obtain ⟨hexec, hengine, hothers, hholds, hrest⟩ := State.completed_spec he hs hc hu hY.table hY.lanes
    obtain ⟨hmark, huse, hother⟩ := hY.slots hcan
    obtain ⟨hcf, hcu, hcr, hkept⟩ := hY.counters hp hb
    refine ⟨_, _, hexec, hengine, hothers, hholds, ?_,
      flagsTested_flagsTested (by rw [hd]) (by rw [hd]),
      fun ha hh => oneRecord_set hr (hone ha hh), hall, hqueue, hoffered, hY.pool_eq, hmark, huse, hother, hcf,
      hbadWords ▸ hcu, hcr, hkept, hY.flagged, hY.first, hevents, hengine ▸ hrest⟩
    exact congrArg (fun x : Context => { x with
      window := d.window, streaming := d.flagsTested.streaming, flushPending := d.flagsTested.flushPending }) hd
  have htold : ∀ X : State, X.events = (s.readBy o).events → X.time = s.time → X.settings = s.settings → ∀ e,
      (X.raise e).events = ((s.raise
        (.deviceError .bufferUncorrected (some i) none (some o.slot) (some o.index))).raise e).events := fun X h1 h2 h3 e =>
    State.raise_events_congr (h1.trans (State.readBy_events hb)) (by simp [h2]) (by simp [h3]) e
  by_cases hl : 3 ≤ r.failures ∨ (c.state = .hold ∧ 2 ≤ c.holdFailures)
  · have ha : aborts = true := decide_eq_true hl
    have hrise : rise = 0 := by simp [rise, ha]
    obtain ⟨hu, hY⟩ := State.completed_unread_limit hp hb hrecv hr hof hs (hroom ha) hl (reserve := reserve)
      (by simp [reserve, ha])
    refine ⟨_, _, hu, hrise ▸ hY, ?_, fun h => absurd ha (by simp [h]), fun _ p => ?_, ?_, ?_, ?_⟩
    · have hholdFailures : (if c.state = .hold ∧ r.failures < 3 then c.holdFailures + 1 else c.holdFailures) =
          if 3 ≤ r.failures then c.holdFailures else c.holdFailures + 1 := by
        by_cases hf : 3 ≤ r.failures
        · rw [if_pos hf, if_neg fun h => absurd h.2 (by omega)]
        · rw [if_neg hf, if_pos ⟨(hl.resolve_left hf).1, by omega⟩]
      rw [hholdFailures]
      simp only [ha, if_true]
      exact Context.slotlessIf_stopped _ _ _ _ _
    · rw [Context.stopped_getElem?, Context.slotlessIf_window (w := c.window) (pos := o.pos) rfl hlen,
        State.count_offersOf, State.count_queueOf, if_pos ha, ← hrise, hfailed]
    · simp [ha, i]
    · simp [ha, i]
    · simp only [ha, if_true]
      exact htold _ (by simp) (by simp) (by simp) _
  · have ha : aborts = false := decide_eq_false hl
    have hlt : r.failures < 3 := by omega
    have hf : c.state = .hold → c.holdFailures < 2 := fun h => by
      by_contra hge
      exact hl (.inr ⟨h, by omega⟩)
    have hrise : rise = if c.posOf c.head = o.pos then 1 else 0 := by simp [rise, ha]
    have hreserve : reserve = s.pool.reserve := by simp [reserve, ha]
    have hthreshold : holds = (c.failedAt o.pos r).atThreshold := by simp only [holds, ha]; rfl
    rw [hrise, hreserve] at hfailed
    by_cases hh : (c.failedAt o.pos r).atThreshold = true
    · obtain ⟨hu, hY⟩ := State.completed_unread_hold hp hb hrecv hr hof hlt hf hh
      have hhold := hthreshold.trans hh
      refine ⟨_, _, hu, by rw [hrise, hreserve]; exact hY, ?_, fun _ h => absurd hhold (by simp [h]), fun _ p => ?_,
        ?_, ?_, ?_⟩
      · have hopen : c.state = .opened := (of_decide_eq_true hh).1
        simp only [ha, hhold, hopen, Bool.false_eq_true, if_false, if_true]
        exact (Context.slotlessIf_eq _ _ _).trans rfl
      · rw [Context.slotlessIf_heldWith _ (w := c.window) rfl hlen rfl rfl, State.count_queueOf, ha, hfailed]
        rfl
      · simp [ha, hhold, i]
      · simp [ha]
      · simp only [ha, hhold, Bool.false_eq_true, if_false, if_true, State.sentToRetirement_events]
        exact htold _ (by simp) (by simp) (by simp) _
    · obtain ⟨hu, hY⟩ := State.completed_unread_again hp hb hrecv hr hof hlt hf hh
      have hhold : holds = false := by rw [hthreshold]; simpa using hh
      refine ⟨_, _, hu, by rw [hrise, hreserve]; exact hY, ?_, fun _ _ => ?_, fun h => absurd h (by simp [ha, hhold]),
        ?_, ?_, ?_⟩
      · simp only [ha, hhold, Bool.false_eq_true, if_false]
        refine (Context.slotlessIf_eq _ _ _).trans ?_
        rcases c.state.receiving_iff.mp hrecv with hst | hst <;>
          simp [Context.askedAgain, Context.failedAt, hst, hlt, history]
      · rw [Context.slotlessIf_window (w := c.window) ((c.failedAt o.pos r).askedAgain_window o.pos) hlen, hfailed]
      · simp [ha, hhold]
      · simp [ha]
      · simp [ha, hhold, i, State.readBy_events hb]

end Sys2Proof.Machine
end

section
/-! # Slots given up one by one (R80, R85, R91) -/

namespace Sys2Proof.Machine

/-- `SlotsGivenUp` with the freed slots named, and with what an induction over the slots needs besides: the retired count
and the canonical form of the pool. -/
structure GaveUp (s t : State) (given freed : List Slot) (poisoned : Option Slot) : Prop where
  sublist : freed.Sublist given
  freeList : t.pool.freeList = s.pool.freeList ++ freed
  others : ∀ x, x ∉ given → t.pool.use x = s.pool.use x ∧ t.pool.mark x = s.pool.mark x
  each : ∀ x, x ∈ given → if x ∈ freed then t.pool.use x = .free ∧ t.pool.mark x = false
    else t.pool.use x = .retired ∧ (s.pool.mark x = true ∨ poisoned = some x) ∧ t.pool.mark x = s.pool.mark x
  allRetired : s.pool.retiredCount + given.length ≤ 64 → t.pool.reserve ≤ s.pool.free →
    ∀ x ∈ given, s.pool.mark x = true ∨ poisoned = some x → x ∉ freed
  allFreed : 64 ≤ s.pool.retiredCount ∨ s.pool.free + given.length ≤ t.pool.reserve → freed = given
  counter : t.counter .retiredSlots =
    Nat.iterate (fun x : Count => x.add 1) (given.length - freed.length) (s.counter .retiredSlots)
  retired : t.pool.retiredCount = s.pool.retiredCount + (given.length - freed.length)
  uses : CellsWF .free t.pool.uses
  marks : CellsWF false t.pool.marks

theorem GaveUp.slotsGivenUp {s t : State} {given freed : List Slot} {poisoned : Option Slot}
    (h : GaveUp s t given freed poisoned) : SlotsGivenUp s t given poisoned :=
  ⟨freed, h.sublist, h.freeList, h.others, h.each, h.allRetired, h.allFreed, h.counter⟩

theorem GaveUp.refl {s : State} (hu : CellsWF .free s.pool.uses) (hm : CellsWF false s.pool.marks)
    (poisoned : Option Slot) : GaveUp s s [] [] poisoned where
  sublist := .refl _
  freeList := by simp
  others _ _ := ⟨rfl, rfl⟩
  each _ h := absurd h List.not_mem_nil
  allRetired _ _ _ h := absurd h List.not_mem_nil
  allFreed _ := rfl
  counter := rfl
  retired := rfl
  uses := hu
  marks := hm

/-- The pool and the count of retired slots are all that it speaks of. -/
theorem GaveUp.congr {s s' t t' : State} {given freed : List Slot} {poisoned : Option Slot}
    (h : GaveUp s t given freed poisoned) (hs : s'.pool = s.pool)
    (hsc : s'.counter .retiredSlots = s.counter .retiredSlots) (ht : t'.pool = t.pool)
    (htc : t'.counter .retiredSlots = t.counter .retiredSlots) : GaveUp s' t' given freed poisoned where
  sublist := h.sublist
  freeList := by rw [hs, ht]; exact h.freeList
  others := by rw [hs, ht]; exact h.others
  each := by rw [hs, ht]; exact h.each
  allRetired := by rw [hs, ht]; exact h.allRetired
  allFreed := by rw [hs, ht]; exact h.allFreed
  counter := by rw [hsc, htc]; exact h.counter
  retired := by rw [hs, ht]; exact h.retired
  uses := by rw [ht]; exact h.uses
  marks := by rw [ht]; exact h.marks

/-- The same slots in another order, as long as the freed ones keep theirs. -/
theorem GaveUp.perm {s t : State} {given given' freed : List Slot} {poisoned : Option Slot}
    (h : GaveUp s t given freed poisoned) (hp : given.Perm given') (hsub : freed.Sublist given') :
    GaveUp s t given' freed poisoned where
  sublist := hsub
  freeList := h.freeList
  others x hx := h.others x (fun hm => hx (hp.mem_iff.mp hm))
  each x hx := h.each x (hp.mem_iff.mpr hx)
  allRetired := by
    rw [← hp.length_eq]
    exact fun h1 h2 x hx => h.allRetired h1 h2 x (hp.mem_iff.mpr hx)
  allFreed := by
    rw [← hp.length_eq]
    exact fun hc => hsub.eq_of_length (by rw [h.allFreed hc, hp.length_eq])
  counter := hp.length_eq ▸ h.counter
  retired := hp.length_eq ▸ h.retired
  uses := h.uses
  marks := h.marks

theorem Pool.release_use {p : Pool} (h : CellsWF .free p.uses) (slot x : Slot) :
    (p.release slot).use x = if x = slot then .free else p.use x := cellGet_cellPut h slot x .free

theorem Pool.release_mark {p : Pool} (h : CellsWF false p.marks) (slot x : Slot) :
    (p.release slot).mark x = if x = slot then false else p.mark x := cellGet_cellPut h slot x false

/-- What giving one slot up can do: it is retired, when it is marked or forced and the conditions of R91 hold, or freed. -/
theorem State.giveUp_cases (s : State) (slot : Slot) (force : Bool) :
    ((s.pool.mark slot = true ∨ force = true) ∧ s.pool.retiredCount < 64 ∧ s.pool.reserve ≤ s.pool.free ∧
      s.giveUp slot force = s.retireSlot slot) ∨
    (((s.pool.mark slot = true ∨ force = true) → s.pool.retiredCount < 64 → ¬s.pool.reserve ≤ s.pool.free) ∧
      s.giveUp slot force = { s with pool := s.pool.release slot }) := by
  have hmay : s.pool.mayRetire 0 = true ↔ s.pool.retiredCount < 64 ∧ s.pool.reserve ≤ s.pool.free := decide_eq_true_iff
  unfold State.giveUp
  split_ifs with h
  · rw [Bool.and_eq_true, Bool.or_eq_true, hmay] at h
    exact .inl ⟨h.1, h.2.1, h.2.2, rfl⟩
  · rw [Bool.and_eq_true, Bool.or_eq_true, hmay] at h
    exact .inr ⟨fun h1 h2 h3 => h ⟨h1, h2, h3⟩, rfl⟩

section
variable {s t u : State} {given freed : List Slot} {poisoned : Option Slot} {slot : Slot}

/-- The next slot is retired; `u` is the state after it. -/
theorem GaveUp.snoc_retired (h : GaveUp s t given freed poisoned) (hslot : slot ∉ given)
    (huse : s.pool.use slot ≠ .retired) (hmarked : s.pool.mark slot = true ∨ poisoned = some slot)
    (hcount : t.pool.retiredCount < 64) (hfree : u.pool.reserve ≤ t.pool.free)
    (hle : t.pool.reserve ≤ u.pool.reserve) (hpool : u.pool = { t.pool.retire slot with reserve := u.pool.reserve })
    (hcounter : u.counter .retiredSlots = (t.counter .retiredSlots).add 1) :
    GaveUp s u (given ++ [slot]) freed poisoned := by
  have hlen := h.sublist.length_le
  have hfreed : slot ∉ freed := fun hm => hslot (h.sublist.subset hm)
  have huses : ∀ x, u.pool.use x = if x = slot then .retired else t.pool.use x := fun x => by
    rw [hpool]; exact Pool.retire_use h.uses slot x
  have hmarks : ∀ x, u.pool.mark x = t.pool.mark x := fun x => by rw [hpool]; rfl
  have hold := h.others slot hslot
  have hfreeCount : t.pool.free = s.pool.free + freed.length := by
    unfold Pool.free; rw [h.freeList, List.length_append]
  have hsub : (given ++ [slot]).length - freed.length = (given.length - freed.length) + 1 := by
    rw [List.length_append, List.length_singleton]; omega
  refine ⟨h.sublist.trans (List.sublist_append_left _ _), ?_, fun x hx => ?_, fun x hx => ?_, fun h1 h2 x hx hm => ?_,
    fun hc => ?_, ?_, ?_, ?_, ?_⟩
  · rw [hpool]; exact h.freeList
  · rw [List.mem_append, List.mem_singleton, not_or] at hx
    rw [huses, hmarks, if_neg hx.2]
    exact h.others x hx.1
  · rw [huses, hmarks]
    by_cases hxs : x = slot
    · rw [hxs, if_pos rfl, if_neg hfreed]
      exact ⟨rfl, hmarked, hold.2⟩
    · rw [if_neg hxs]
      exact h.each x ((List.mem_append.mp hx).resolve_right (by simpa using hxs))
  · rcases List.mem_append.mp hx with hx | hx
    · exact h.allRetired (by simp at h1; omega) (hle.trans h2) x hx hm
    · rw [List.mem_singleton.mp hx]; exact hfreed
  · rw [List.length_append, List.length_singleton] at hc
    rcases hc with hc | hc
    · rw [h.retired] at hcount; omega
    · omega
  · rw [hcounter, h.counter, hsub, Function.iterate_succ_apply']
  · rw [hsub, hpool]
    show Pool.retiredCount { t.pool with uses := cellPut .free t.pool.uses slot .retired } = _
    rw [Pool.retiredCount_put h.uses slot _ (by rw [hold.1]; exact huse), h.retired]
    simp [Nat.add_assoc]
  · rw [hpool]; exact cellPut_wf h.uses _ _
  · rw [hpool]; exact h.marks

/-- The next slot is freed. -/
theorem GaveUp.snoc_freed (h : GaveUp s t given freed poisoned) (hslot : slot ∉ given)
    (huse : s.pool.use slot ≠ .retired)
    (hnot : s.pool.mark slot = true ∨ poisoned = some slot → t.pool.retiredCount < 64 → ¬u.pool.reserve ≤ t.pool.free)
    (hle : t.pool.reserve ≤ u.pool.reserve) (hle' : u.pool.reserve ≤ t.pool.reserve + 1)
    (hpool : u.pool = { t.pool.release slot with reserve := u.pool.reserve })
    (hcounter : u.counter .retiredSlots = t.counter .retiredSlots) :
    GaveUp s u (given ++ [slot]) (freed ++ [slot]) poisoned := by
  have hlen := h.sublist.length_le
  have huses : ∀ x, u.pool.use x = if x = slot then .free else t.pool.use x := fun x => by
    rw [hpool]; exact Pool.release_use h.uses slot x
  have hmarks : ∀ x, u.pool.mark x = if x = slot then false else t.pool.mark x := fun x => by
    rw [hpool]; exact Pool.release_mark h.marks slot x
  have hold := h.others slot hslot
  have hfreeCount : t.pool.free = s.pool.free + freed.length := by
    unfold Pool.free; rw [h.freeList, List.length_append]
  have hsub : (given ++ [slot]).length - (freed ++ [slot]).length = given.length - freed.length := by
    rw [List.length_append, List.length_append]; omega
  refine ⟨h.sublist.append (.refl _), ?_, fun x hx => ?_, fun x hx => ?_, fun h1 h2 x hx hm => ?_,
    fun hc => ?_, ?_, ?_, ?_, ?_⟩
  · rw [hpool]
    show t.pool.freeList ++ [slot] = _
    rw [h.freeList, List.append_assoc]
  · rw [List.mem_append, List.mem_singleton, not_or] at hx
    rw [huses, hmarks, if_neg hx.2, if_neg hx.2]
    exact h.others x hx.1
  · rw [huses, hmarks]
    by_cases hxs : x = slot
    · simp [hxs]
    · have := h.each x ((List.mem_append.mp hx).resolve_right (by simpa using hxs))
      simpa [hxs] using this
  · rw [List.length_append, List.length_singleton] at h1
    rcases List.mem_append.mp hx with hx | hx
    · have hxs : x ≠ slot := fun e => hslot (e ▸ hx)
      have := h.allRetired (by omega) (hle.trans h2) x hx hm
      simp [this, hxs]
    · rw [List.mem_singleton.mp hx] at hm
      exact absurd (by rw [hfreeCount]; omega) (hnot hm (by rw [h.retired]; omega))
  · rw [List.length_append, List.length_singleton] at hc
    rw [h.allFreed (hc.imp_right fun hc => by omega)]
  · rw [hcounter, h.counter, hsub]
  · rw [hsub, hpool]
    show Pool.retiredCount { t.pool with uses := cellPut .free t.pool.uses slot .free } = _
    rw [Pool.retiredCount_put h.uses slot _ (by rw [hold.1]; exact huse), h.retired]
    simp
  · rw [hpool]; exact cellPut_wf h.uses _ _
  · rw [hpool]; exact cellPut_wf h.marks _ _

/-- One slot more, the head reserve having risen by at most 1 in between. -/
theorem GaveUp.snoc (h : GaveUp s t given freed poisoned) (hslot : slot ∉ given) (huse : s.pool.use slot ≠ .retired)
    {t' : State} {reserve : Nat} (hpool : t'.pool = { t.pool with reserve := reserve })
    (hcounter : t'.counter .retiredSlots = t.counter .retiredSlots) (hle : t.pool.reserve ≤ reserve)
    (hle' : reserve ≤ t.pool.reserve + 1) {force : Bool} (hforce : force = true ↔ poisoned = some slot) :
    ∃ more : List Slot, more.Sublist [slot] ∧
      GaveUp s (t'.giveUp slot force) (given ++ [slot]) (freed ++ more) poisoned := by
  have hmark : t'.pool.mark slot = s.pool.mark slot := by rw [hpool]; exact (h.others slot hslot).2
  have hreserve : t'.pool.reserve = reserve := by rw [hpool]
  have hcases := t'.giveUp_cases slot force
  rw [hmark, hforce] at hcases
  rcases hcases with ⟨hm, hc, hf, hu⟩ | ⟨hn, hu⟩
  · have hu' : (t'.retireSlot slot).pool.reserve = reserve := hreserve
    rw [hu]
    refine ⟨[], List.nil_sublist _, ?_⟩
    rw [List.append_nil]
    refine h.snoc_retired hslot huse hm ?_ ?_ (by rw [hu']; exact hle) ?_ ?_
    · rw [hpool] at hc; exact hc
    · rw [hu']; rw [hpool] at hf; exact hf
    · rw [hu', State.retireSlot_pool, hpool]; rfl
    · rw [← hcounter]; simp
  · rw [hu]
    refine ⟨[slot], .refl _, h.snoc_freed hslot huse (fun hm hc => ?_) ?_ ?_ ?_ hcounter⟩
    · rw [hpool] at hn; rw [show ({ t' with pool := t'.pool.release slot } : State).pool.reserve = reserve from hreserve]
      exact hn hm hc
    · exact hle.trans_eq hreserve.symm
    · exact (le_of_eq hreserve).trans hle'
    · rw [show ({ t' with pool := t'.pool.release slot } : State).pool = t'.pool.release slot from rfl, hpool]; rfl

end

/-- Several slots given up in order, each ASSIGNED before; `forced` is the window position of the poisoned one. -/
theorem GaveUp.giveUpAll {s : State} {poisoned : Option Slot} {forced : Option Nat} (l : List (Slot × Nat)) :
    ∀ {t : State} {given freed : List Slot}, GaveUp s t given freed poisoned → (given ++ l.map Prod.fst).Nodup →
      (∀ x ∈ l, s.pool.use x.1 ≠ .retired) → (∀ x ∈ l, forced = some x.2 ↔ poisoned = some x.1) →
      ∃ more : List Slot, more.Sublist (l.map Prod.fst) ∧
        GaveUp s (t.giveUpAll forced l) (given ++ l.map Prod.fst) (freed ++ more) poisoned := by
  induction l with
  | nil => exact fun h _ _ _ => ⟨[], .refl _, by rw [List.map_nil, List.append_nil, List.append_nil]; exact h⟩
  | cons x l ih =>
    intro t given freed h hn huse hforce
    rw [List.map_cons, List.append_cons] at hn
    rw [List.map_cons, List.append_cons given]
    have hx : x.1 ∉ given := fun hm =>
      (List.nodup_append.mp (List.nodup_append.mp hn).1).2.2 x.1 hm x.1 (List.mem_singleton_self _) rfl
    obtain ⟨first, hfirst, h'⟩ := h.snoc hx (huse x (List.mem_cons_self ..)) (t' := t) rfl rfl le_rfl (Nat.le_succ _)
      (decide_eq_true_iff.trans (hforce x (List.mem_cons_self ..)))
    obtain ⟨more, hmore, h''⟩ := ih h' hn (fun y hy => huse y (List.mem_cons_of_mem _ hy))
      fun y hy => hforce y (List.mem_cons_of_mem _ hy)
    rw [List.append_assoc freed] at h''
    exact ⟨_, hfirst.append hmore, h''⟩

end Sys2Proof.Machine
end

section
/-! # The return of an entry to FREE (R156) -/

namespace Sys2Proof.Machine

/-! ## The slots of a stream in order -/

/-- The order of R80 among slots with their window positions. -/
abbrev Context.slotLe (c : Context) (a b : Slot × Nat) : Prop := c.slotKey a.2 ≤ c.slotKey b.2

theorem Context.slotLe_total (c : Context) : Std.Total c.slotLe := ⟨fun _ _ => Nat.le_total _ _⟩

theorem Context.slotLe_trans (c : Context) : IsTrans _ c.slotLe := ⟨fun _ _ _ => Nat.le_trans⟩

/-- A list of a stream's slots as R156 gives them back: all that the pool records for it, each once, in the order of
R80. -/
structure SlotsListed (s : State) (i : StreamIndex) (c : Context) (l : List (Slot × Nat)) : Prop where
  nodup : (l.map Prod.fst).Nodup
  mem : ∀ x, x ∈ l ↔ s.pool.use x.1 = .assigned i x.2
  ordered : l.Pairwise c.slotLe

theorem Pool.mem_slotsOf {p : Pool} (h : CellsWF .free p.uses) (i : StreamIndex) (x : Slot × Nat) :
    x ∈ p.slotsOf i ↔ p.use x.1 = .assigned i x.2 := by
  refine ⟨Pool.slotsOf_use h, fun hx => ?_⟩
  have hm := (mem_iff_cellGet h x.1 (.assigned i x.2) (by simp)).mpr hx
  exact List.mem_filterMap.mpr ⟨_, hm, if_pos rfl⟩

theorem Pool.slotsOf_nodup {p : Pool} (h : CellsWF .free p.uses) (i : StreamIndex) :
    ((p.slotsOf i).map Prod.fst).Nodup := by
  have hsub : ((p.slotsOf i).map Prod.fst).Sublist (p.uses.map Prod.fst) := by
    unfold Pool.slotsOf
    induction p.uses with
    | nil => simp
    | cons c l ih =>
      rw [List.filterMap_cons]
      split
      · exact ih.cons _
      · rename_i x hx
        have : x.1 = c.1 := by
          split at hx
          · split_ifs at hx; cases hx; rfl
          · exact absurd hx (by simp)
        rw [List.map_cons, List.map_cons, this]
        exact ih.cons_cons _
  exact (List.Pairwise.map _ (fun _ _ hab => ne_of_lt hab) h.1 : (p.uses.map Prod.fst).Nodup).sublist hsub

theorem State.slotsInOrder_listed {s : State} (h : CellsWF .free s.pool.uses) (i : StreamIndex) (c : Context) :
    SlotsListed s i c (s.slotsInOrder i c) := by
  have hperm := List.perm_insertionSort (fun a b : Slot × Nat => c.slotKey a.2 ≤ c.slotKey b.2) (s.pool.slotsOf i)
  have := c.slotLe_total
  have := c.slotLe_trans
  exact ⟨(hperm.map Prod.fst).nodup_iff.mpr (Pool.slotsOf_nodup h i),
    fun x => hperm.mem_iff.trans (Pool.mem_slotsOf h i x), List.pairwise_insertionSort c.slotLe _⟩

/-- A slot that was retired before the others are given back still has its place in the order. -/
theorem SlotsListed.orderedInsert {s t : State} {i : StreamIndex} {c : Context} {l : List (Slot × Nat)}
    (h : SlotsListed t i c l) {slot : Slot} {pos : Nat} (hslot : s.pool.use slot = .assigned i pos)
    (huse : ∀ x, t.pool.use x = if x = slot then .retired else s.pool.use x) :
    SlotsListed s i c (l.orderedInsert c.slotLe (slot, pos)) := by
  have hperm := List.perm_orderedInsert c.slotLe (slot, pos) l
  have hnot : slot ∉ l.map Prod.fst := fun hm => by
    obtain ⟨x, hx, rfl⟩ := List.mem_map.mp hm
    have := (h.mem x).mp hx
    rw [huse, if_pos rfl] at this
    exact absurd this (by simp)
  have := c.slotLe_total
  have := c.slotLe_trans
  refine ⟨(hperm.map Prod.fst).nodup_iff.mpr (List.nodup_cons.mpr ⟨hnot, h.nodup⟩), fun x => ?_,
    h.ordered.orderedInsert _ _⟩
  rw [hperm.mem_iff, List.mem_cons, h.mem, huse]
  by_cases hx : x.1 = slot
  · simp [hx, hslot, Prod.ext_iff, eq_comm]
  · simp [hx, Prod.ext_iff]

/-- The key of R80 depends on the cause and on the chunks the positions describe. -/
theorem Context.slotKey_congr {c d : Context} (hc : d.cause = c.cause)
    (hw : ∀ p : Nat, (d.window[p]?).map (·.index) = (c.window[p]?).map (·.index)) (p : Nat) : d.slotKey p = c.slotKey p := by
  have := hw p
  unfold Context.slotKey
  rw [hc]
  cases hd : d.window[p]? <;> cases hcw : c.window[p]? <;> simp_all

theorem State.slotsInOrder_congr {s t : State} {c d : Context} (hp : t.pool.uses = s.pool.uses)
    (hk : ∀ p, d.slotKey p = c.slotKey p) (i : StreamIndex) : t.slotsInOrder i d = s.slotsInOrder i c := by
  unfold State.slotsInOrder Pool.slotsOf
  simp only [hp, hk]

/-! ## Back to FREE -/

theorem State.giveUpAll_setCtx (i : StreamIndex) (c : Context) (forced : Option Nat) (l : List (Slot × Nat)) :
    ∀ X : State, (X.setCtx i c).giveUpAll forced l = (X.giveUpAll forced l).setCtx i c := by
  induction l with
  | nil => exact fun _ => rfl
  | cons x l ih => exact fun X => by rw [State.giveUpAll, State.giveUp_setCtx, ih]; rfl

/-- What the return to FREE makes of the rest of the device: the slots given up in order, STREAM_RELEASED raised. -/
def State.released (X : State) (i : StreamIndex) (c : Context) (forced : Option Nat) : State :=
  (X.giveUpAll forced (X.slotsInOrder i c)).raise (.streamReleased i c.tag c.cause c.committed)

theorem State.toFree_setCtx (X : State) (i : StreamIndex) (c d : Context) (forced : Option Nat) :
    (X.setCtx i d).toFree i c forced = (X.released i c forced).freeEntry i := by
  rw [State.toFree, State.slotsInOrder_congr (s := X) (t := X.setCtx i d) (c := c) (d := c) rfl (fun _ => rfl), State.giveUpAll_setCtx,
    State.raise_setCtx, State.freeEntry, State.setEntry_setCtx]
  rfl

theorem State.entry_freeEntry {s : State} (h : s.TableWF) (i j : StreamIndex) :
    (s.freeEntry i).entry j = if j = i then Entry.free else s.entry j := State.entry_setEntry h i j _

@[simp] theorem State.counter_freeEntry (s : State) (i : StreamIndex) (k : Counter) :
    (s.freeEntry i).counter k = s.counter k := rfl

/-- The tests that end an event find nothing to do for a FREE entry. -/
theorem State.settle_freeEntry {s : State} (h : s.TableWF) (i : StreamIndex) : (s.freeEntry i).settle i = s.freeEntry i := by
  have hc : (s.freeEntry i).ctx? i = none := by rw [State.ctx?, State.entry_freeEntry h, if_pos rfl]; rfl
  simp [State.settle, State.testFree, State.modifyCtx, hc]

section
variable (forced : Option Nat) (l : List (Slot × Nat))

/-- Slots given up change the pool and the live counters alone. -/
theorem State.giveUpAll_eq : ∀ X : State,
    X.giveUpAll forced l = { X with pool := (X.giveUpAll forced l).pool, live := (X.giveUpAll forced l).live } := by
  induction l with
  | nil => exact fun _ => rfl
  | cons x l ih =>
    intro X
    have h1 : X.giveUp x.1 (decide (forced = some x.2)) =
        { X with pool := (X.giveUp x.1 (decide (forced = some x.2))).pool,
                 live := (X.giveUp x.1 (decide (forced = some x.2))).live } := by
      rcases X.giveUp_cases x.1 (decide (forced = some x.2)) with ⟨-, -, -, h⟩ | ⟨-, h⟩
      · rw [h]; rfl
      · rw [h]
    rw [State.giveUpAll, ih, h1]

theorem State.counter_giveUp (X : State) (slot : Slot) (force : Bool) {k : Counter} (hk : k ≠ .retiredSlots) :
    (X.giveUp slot force).counter k = X.counter k := by
  rcases X.giveUp_cases slot force with ⟨-, -, -, h⟩ | ⟨-, h⟩ <;> rw [h]
  · simp [hk]
  · rfl

theorem State.counter_giveUpAll {k : Counter} (hk : k ≠ .retiredSlots) :
    ∀ X : State, (X.giveUpAll forced l).counter k = X.counter k := by
  induction l with
  | nil => exact fun _ => rfl
  | cons x l ih => exact fun X => (ih _).trans (X.counter_giveUp _ _ hk)

theorem State.giveUp_pool (X : State) (slot : Slot) (force : Bool) : (X.giveUp slot force).pool =
    { X.pool with freeList := (X.giveUp slot force).pool.freeList, uses := (X.giveUp slot force).pool.uses,
                  marks := (X.giveUp slot force).pool.marks } := by
  rcases X.giveUp_cases slot force with ⟨-, -, -, h⟩ | ⟨-, h⟩ <;> (rw [h]; rfl)

theorem State.giveUpAll_pool : ∀ X : State, (X.giveUpAll forced l).pool =
    { X.pool with freeList := (X.giveUpAll forced l).pool.freeList, uses := (X.giveUpAll forced l).pool.uses,
                  marks := (X.giveUpAll forced l).pool.marks } := by
  induction l with
  | nil => exact fun _ => rfl
  | cons x l ih => exact fun X => by rw [State.giveUpAll, ih, X.giveUp_pool]

end

/-- Free list, uses and marks changed after uses and marks: the rest of the pool is as it was. -/
theorem Pool.frame_trans {p q u : Pool}
    (hu : u = { q with freeList := u.freeList, uses := u.uses, marks := u.marks })
    (hq : q = { p with uses := q.uses, marks := q.marks }) :
    u = { p with freeList := u.freeList, uses := u.uses, marks := u.marks } := by
  rw [hq] at hu
  exact hu

section
variable (X : State) (i : StreamIndex) (c : Context) (forced : Option Nat)

theorem State.released_pool_eq : (X.released i c forced).pool =
    { X.pool with freeList := (X.released i c forced).pool.freeList, uses := (X.released i c forced).pool.uses,
                  marks := (X.released i c forced).pool.marks } := by
  unfold State.released
  rw [State.raise_pool, State.giveUpAll_pool]

@[simp] theorem State.released_table : (X.released i c forced).table = X.table := by
  unfold State.released; rw [State.raise_table, State.giveUpAll_eq]
@[simp] theorem State.released_lanes : (X.released i c forced).lanes = X.lanes := by
  unfold State.released; rw [State.raise_lanes, State.giveUpAll_eq]
@[simp] theorem State.released_offered : (X.released i c forced).offered = X.offered := by
  unfold State.released; rw [State.raise_offered, State.giveUpAll_eq]
@[simp] theorem State.released_verifyQueue : (X.released i c forced).verifyQueue = X.verifyQueue := by
  unfold State.released; rw [State.raise_verifyQueue, State.giveUpAll_eq]
theorem State.counter_released {k : Counter} (hk : k ≠ .eventsLost) (hk' : k ≠ .retiredSlots) :
    (X.released i c forced).counter k = X.counter k := by
  unfold State.released; rw [State.counter_raise _ _ hk, State.counter_giveUpAll _ _ hk']

/-- STREAM_RELEASED is what the return to FREE adds to the event queue. -/
theorem State.released_raised {s : State} (he : X.events = s.events) (hr : X.errors = s.errors) (ht : X.time = s.time)
    (hs : X.settings = s.settings) :
    Raised s (X.released i c forced) (.streamReleased i c.tag c.cause c.committed) := by
  have h := State.giveUpAll_eq forced (X.slotsInOrder i c) X
  exact ⟨State.raise_events_congr (by rw [h]; exact he) (by rw [h]; exact ht) (by rw [h]; exact hs) _,
    State.raise_errors_congr (by rw [h]; exact he) (by rw [h]; exact hr) (by rw [h]; exact hs) _⟩

end

/-- The return to FREE, from the list of the slots given back. -/
theorem returnedToFree_of_listed {s t : State} {i : StreamIndex} {c : Context} {l : List (Slot × Nat)}
    {poisoned : Option Slot} (hfree : t.entry i = Entry.free) (hothers : OtherEntries s t i)
    (hl : SlotsListed s i c l) (hgiven : SlotsGivenUp s t (l.map Prod.fst) poisoned)
    (hraised : Raised s t (.streamReleased i c.tag c.cause c.committed)) : ReturnedToFree s t i c poisoned := by
  refine ⟨hfree, hothers, ⟨_, hl.nodup, fun slot => ⟨fun hm => ?_, fun ⟨p, hp⟩ => ?_⟩, ?_, hgiven⟩, hraised⟩
  · obtain ⟨x, hx, rfl⟩ := List.mem_map.mp hm
    exact ⟨x.2, (hl.mem x).mp hx⟩
  · exact List.mem_map.mpr ⟨(slot, p), (hl.mem _).mpr hp, rfl⟩
  · refine List.pairwise_map.mpr (hl.ordered.imp_of_mem fun {a b} ha hb hab p q hp hq => ?_)
    rw [(hl.mem a).mp ha, SlotUse.assigned.injEq] at hp
    rw [(hl.mem b).mp hb, SlotUse.assigned.injEq] at hq
    rw [← hp.2, ← hq.2]
    exact hab

end Sys2Proof.Machine
end

section
/-! # An outcome that finds its stream stopped (O36) -/

namespace Sys2Proof.Machine

@[simp] theorem Pool.retire_reserve (p : Pool) (slot : Slot) : (p.retire slot).reserve = p.reserve := rfl

theorem Pool.retire_keepReserve (p : Pool) (slot : Slot) :
    { p.retire slot with reserve := p.reserve } = p.retire slot := rfl

section
variable (s : State) (o : EngineOp)

/-! ## The report of the read, field by field -/

@[simp] theorem State.readBy_time : (s.readBy o).time = s.time := by
  unfold State.readBy; split_ifs <;> simp
@[simp] theorem State.readBy_settings : (s.readBy o).settings = s.settings := by
  unfold State.readBy; split_ifs <;> simp
@[simp] theorem State.readBy_table : (s.readBy o).table = s.table := by
  unfold State.readBy; split_ifs <;> simp

theorem State.counter_readBy {k : Counter} (hk : k ≠ .eventsLost) : (s.readBy o).counter k = s.counter k := by
  unfold State.readBy
  split_ifs
  · rfl
  · exact State.counter_raise _ _ hk

/-- The report marks the slot at most. -/
theorem State.readBy_pool_eq : (s.readBy o).pool = { s.pool with marks := (s.readBy o).pool.marks } := by
  unfold State.readBy
  split_ifs
  · rfl
  · rw [State.raise_pool]; rfl

theorem State.readBy_uses : (s.readBy o).pool.uses = s.pool.uses := by rw [State.readBy_pool_eq]

/-- The figures of R82 and R92 do not depend on the marks. -/
theorem State.readBy_figures : (s.readBy o).pool.retiredCount = s.pool.retiredCount ∧
    (s.readBy o).pool.reserve = s.pool.reserve ∧ (s.readBy o).pool.free = s.pool.free ∧
    (s.readBy o).pool.state = s.pool.state := by
  have h := s.readBy_pool_eq o
  generalize (s.readBy o).pool = p at h
  rw [h]
  exact ⟨rfl, rfl, rfl, rfl⟩

theorem State.readBy_use (x : Slot) : (s.readBy o).pool.use x = s.pool.use x := by
  unfold Pool.use; rw [State.readBy_uses]

variable {s} in
theorem State.readBy_marks_wf (hcan : CanonicalForm s) : CellsWF false (s.readBy o).pool.marks := by
  obtain ⟨-, -, -, -, hmarks⟩ := hcan
  by_cases h : s.badWords o = 0
  · rw [State.readBy_clean h]; exact hmarks
  · rw [State.readBy_pool h]; exact cellPut_wf hmarks _ _

/-- A verification's outcome: a pattern chunk's comparison, a pass, or a fail, which asks for retirement handling exactly
when an uncorrectable word was met. -/
theorem State.verification_cases :
    (o.pattern = true ∧ s.verification o = .compared (s.wrongBytes o)) ∨
    (o.pattern = false ∧ (s.badWords o = 0 ∧ chunkCheck (s.slotBytes o.slot 0 o.len.val) =
        trailerCheck (s.slotBytes o.slot 0 o.len.val) ∧
        trailerNumber (s.slotBytes o.slot 0 o.len.val) = o.index % 4294967296) ∧
      s.verification o = .pass (trailerCheck (s.slotBytes o.slot 0 o.len.val))) ∨
    (o.pattern = false ∧ ¬(s.badWords o = 0 ∧ chunkCheck (s.slotBytes o.slot 0 o.len.val) =
        trailerCheck (s.slotBytes o.slot 0 o.len.val) ∧
        trailerNumber (s.slotBytes o.slot 0 o.len.val) = o.index % 4294967296) ∧
      ∃ reason, s.verification o = .fail reason ∧
        ∀ pos, reason.retiring pos = if s.badWords o = 0 then none else some pos) := by
  cases hp : o.pattern
  · right
    by_cases hb : s.badWords o = 0
    · rw [State.verification_read hp hb]
      by_cases hright : chunkCheck (s.slotBytes o.slot 0 o.len.val) = trailerCheck (s.slotBytes o.slot 0 o.len.val) ∧
          trailerNumber (s.slotBytes o.slot 0 o.len.val) = o.index % 4294967296
      · exact .inl ⟨rfl, ⟨hb, hright⟩, verdictOf_pass hright.1 hright.2⟩
      · obtain ⟨reason, hv, hr⟩ := verdictOf_fail (k := o.index) (not_and_or.mp hright)
        exact .inr ⟨rfl, fun h => hright h.2, reason, hv, fun pos => by rw [hr, if_pos hb]⟩
    · exact .inr ⟨rfl, fun h => hb h.1, _, State.verification_unread hp hb, fun pos => by rw [if_neg hb]; rfl⟩
  · exact .inl ⟨rfl, State.verification_pattern s hp⟩

/-! ## Retirement handling in a stopped stream (R105, R109) -/

/-- The rest of the device after the outcome of a stopped stream: an uncorrectable word sends the slot to retirement. -/
def State.afterStopped : State :=
  if s.badWords o = 0 then s.afterRead o else (s.afterRead o).sentToRetirement o.slot 0

@[simp] theorem State.afterStopped_table : (s.afterStopped o).table = s.table := by
  unfold State.afterStopped; split_ifs <;> simp
@[simp] theorem State.afterStopped_lanes : (s.afterStopped o).lanes = s.lanes := by
  unfold State.afterStopped; split_ifs <;> simp
@[simp] theorem State.afterStopped_settings : (s.afterStopped o).settings = s.settings := by
  unfold State.afterStopped; split_ifs <;> simp
@[simp] theorem State.afterStopped_time : (s.afterStopped o).time = s.time := by
  unfold State.afterStopped; split_ifs <;> simp
@[simp] theorem State.afterStopped_events : (s.afterStopped o).events = (s.readBy o).events := by
  unfold State.afterStopped; split_ifs <;> simp
@[simp] theorem State.afterStopped_errors : (s.afterStopped o).errors = (s.readBy o).errors := by
  unfold State.afterStopped; split_ifs <;> simp
@[simp] theorem State.afterStopped_offered : (s.afterStopped o).offered = s.offered := by
  unfold State.afterStopped; split_ifs <;> simp
@[simp] theorem State.afterStopped_verifyQueue : (s.afterStopped o).verifyQueue = s.verifyQueue := by
  unfold State.afterStopped; split_ifs <;> simp
@[simp] theorem State.afterStopped_engine : (s.afterStopped o).engine = none := by
  unfold State.afterStopped; split_ifs <;> simp
@[simp] theorem State.afterStopped_drainMap : (s.afterStopped o).drainMap = s.drainMap := by
  unfold State.afterStopped; split_ifs <;> simp

/-- The slot of the chunk is retired at the outcome (R91). -/
def State.RetiresAt : Prop := s.badWords o ≠ 0 ∧ s.pool.retiredCount < 64 ∧ s.pool.reserve ≤ s.pool.free

theorem State.mayRetire_readBy : (s.readBy o).pool.mayRetire 0 = true ↔
    s.pool.retiredCount < 64 ∧ s.pool.reserve ≤ s.pool.free := by
  obtain ⟨hcount, hreserve, hfree, -⟩ := s.readBy_figures o
  rw [Pool.mayRetire, decide_eq_true_iff, hcount, hreserve, hfree]
  rfl

variable {s o}

theorem State.afterStopped_retired (h : s.RetiresAt o) :
    (s.afterStopped o).pool = (s.readBy o).pool.retire o.slot ∧
      ∀ k, (s.afterStopped o).counter k =
        if k = .retiredSlots then ((s.afterRead o).counter k).add 1 else (s.afterRead o).counter k := by
  have hmay := (s.mayRetire_readBy o).mpr h.2
  rw [State.afterStopped, if_neg h.1]
  refine ⟨?_, fun k => ?_⟩
  · rw [State.sentToRetirement_pool, State.afterRead_pool, if_pos hmay, Nat.add_zero, Pool.retire_keepReserve]
  · rw [State.counter_sentToRetirement, State.afterRead_pool]; simp [hmay]

theorem State.afterStopped_kept (h : ¬s.RetiresAt o) :
    (s.afterStopped o).pool = (s.readBy o).pool ∧ ∀ k, (s.afterStopped o).counter k = (s.afterRead o).counter k := by
  unfold State.afterStopped
  split_ifs with hb
  · exact ⟨by simp, fun _ => rfl⟩
  · have hmay : (s.readBy o).pool.mayRetire 0 ≠ true := fun hm => h ⟨hb, (s.mayRetire_readBy o).mp hm⟩
    refine ⟨?_, fun k => ?_⟩
    · rw [State.sentToRetirement_pool, State.afterRead_pool, if_neg hmay]
    · rw [State.counter_sentToRetirement, State.afterRead_pool]; simp [hmay]

theorem State.counter_afterRead_retired : (s.afterRead o).counter .retiredSlots = s.counter .retiredSlots := by
  rw [State.counter_afterRead]
  cases s.verification o <;> simp [State.countVerification, State.counter_reportRead]

/-- The slots given up once the outcome's own retirement is done: that slot, or none. -/
theorem State.afterStopped_gaveUp (hcan : CanonicalForm s) {i : StreamIndex} {pos : Nat}
    (hof : s.pool.use o.slot = .assigned i pos) :
    (s.RetiresAt o → GaveUp (s.readBy o) (s.afterStopped o) [o.slot] [] none) ∧
      (¬s.RetiresAt o → GaveUp (s.readBy o) (s.afterStopped o) [] [] none) := by
  have hrefl : GaveUp (s.readBy o) (s.readBy o) [] [] none :=
    .refl (by rw [State.readBy_uses]; exact hcan.2.2.2.1) (s.readBy_marks_wf o hcan) none
  have hcounter : (s.readBy o).counter .retiredSlots = s.counter .retiredSlots := State.counter_readBy s o (by simp)
  refine ⟨fun h => ?_, fun h => ?_⟩
  · obtain ⟨hpool, hcount⟩ := State.afterStopped_retired h
    have hmark : (s.readBy o).pool.mark o.slot = true := by
      rw [State.readBy_pool h.1]
      exact (cellGet_cellPut hcan.2.2.2.2 o.slot o.slot true).trans (if_pos rfl)
    have hfigures : (s.readBy o).pool.retiredCount < 64 ∧ (s.readBy o).pool.reserve ≤ (s.readBy o).pool.free := by
      obtain ⟨hretired, hreserve, hfree, -⟩ := s.readBy_figures o
      rw [hretired, hreserve, hfree]; exact h.2
    refine hrefl.snoc_retired List.not_mem_nil (by rw [State.readBy_use, hof]; simp) (.inl hmark) hfigures.1 ?_ ?_ ?_ ?_
    · rw [hpool, Pool.retire_reserve]; exact hfigures.2
    · rw [hpool, Pool.retire_reserve]
    · rw [hpool]
    · rw [hcount, if_pos rfl, State.counter_afterRead_retired, hcounter]
  · obtain ⟨hpool, hcount⟩ := State.afterStopped_kept h
    exact hrefl.congr rfl rfl hpool (by rw [hcount, State.counter_afterRead_retired, hcounter])

end

end Sys2Proof.Machine
end

section
/-! # A stopped stream: the outcome, the end of a salvage, the entry given back -/

namespace Sys2Proof.Machine

/-! ## The outcome reaches a stopped stream (R109) -/

theorem State.applyOutcome_stopped (X : State) (i : StreamIndex) (pos : Nat) {c : Context} (v : Verification)
    (h : c.state = .aborted ∨ c.state = .salvaging) :
    (X.setCtx i c).applyOutcome i pos v = (X.setCtx i c).outcomeStopped i pos v := by
  simp only [State.applyOutcome, State.ctx?_setCtx_self]
  rcases h with h | h <;> simp [h]

section
variable {s : State} {o : EngineOp} {c : Context} {r : ChunkRecord}

/-- A pass of a stopped stream, not a pattern stream. -/
theorem State.outcome_stopped_pass (hstop : c.state = .aborted ∨ c.state = .salvaging) (hr : c.window[o.pos]? = some r)
    {check : Word} (hb : s.badWords o = 0) (hv : s.verification o = .pass check) :
    ((s.afterRead o).setCtx o.stream c).applyOutcome o.stream o.pos (s.verification o) =
      (s.afterStopped o).setCtx o.stream
        { c with window := c.window.set o.pos { r with state := .verified, check := some check } } := by
  rw [State.applyOutcome_stopped _ _ _ _ hstop, hv, State.outcomeStopped, State.modifyChunk_setCtx,
    Context.modifyChunk_of_getElem? hr, State.afterStopped, if_pos hb]
  rfl

/-- A fail of a stopped stream. -/
theorem State.outcome_stopped_fail (hstop : c.state = .aborted ∨ c.state = .salvaging) (hr : c.window[o.pos]? = some r)
    (hof : s.pool.slotOf o.stream o.pos = some o.slot) {reason : FailReason} (hv : s.verification o = .fail reason)
    (hretiring : ∀ pos, reason.retiring pos = if s.badWords o = 0 then none else some pos) {retired : Bool}
    (hretired : retired = true ↔ s.RetiresAt o) :
    ((s.afterRead o).setCtx o.stream c).applyOutcome o.stream o.pos (s.verification o) =
      (s.afterStopped o).setCtx o.stream { c with
        window := c.window.set o.pos
          { r with state := .empty, ranges := [], slot := if retired = true then none else r.slot } } := by
  have hlen := (List.getElem?_eq_some_iff.mp hr).1
  have hemptied : c.modifyChunk o.pos ChunkRecord.emptied =
      { c with window := c.window.set o.pos { r with state := .empty, ranges := [] } } :=
    Context.modifyChunk_of_getElem? hr _
  rw [State.applyOutcome_stopped _ _ _ _ hstop, hv, State.outcomeStopped, State.modifyChunk_setCtx, hemptied, hretiring,
    State.afterStopped]
  by_cases hb : s.badWords o = 0
  · have hkept : retired = false := by rw [← Bool.not_eq_true, hretired]; exact fun h => h.1 hb
    simp only [if_pos hb, hkept]
    rfl
  · have hpool : (s.afterRead o).pool.slotOf o.stream o.pos = some o.slot := by
      rw [State.afterRead_pool, Pool.slotOf, State.readBy_uses]; exact hof
    have hrise : ({ c with window := c.window.set o.pos { r with state := .empty, ranges := [] } } : Context).riseAt o.pos = 0 := by
      rcases hstop with h | h <;> simp [Context.riseAt, StreamState.receiving, h]
    have hmay : (s.afterRead o).pool.mayRetire 0 = retired := by
      rw [Bool.eq_iff_iff, State.afterRead_pool, State.mayRetire_readBy, hretired]
      exact ⟨fun h => ⟨hb, h⟩, fun h => h.2⟩
    rw [if_neg hb, if_neg hb, State.retireGiven, State.retireFromChunk_setCtx hpool, hrise, hmay]
    congr 1
    refine (Context.slotlessIf_eq _ _ _).trans ?_
    rw [Context.slotlessIf_window (w := c.window) (x := { r with state := .empty, ranges := [] }) rfl hlen]

/-! ## The end of a salvage (R153) -/

theorem ChunkRecord.withdrawnBy_index (r : ChunkRecord) (n : Nat) : (r.withdrawnBy n).index = r.index := by
  unfold ChunkRecord.withdrawnBy; split_ifs <;> rfl

theorem State.released_congr {X : State} {i : StreamIndex} {c d : Context} (htag : d.tag = c.tag)
    (hcause : d.cause = c.cause) (hcommitted : d.committed = c.committed)
    (hw : ∀ p : Nat, (d.window[p]?).map (·.index) = (c.window[p]?).map (·.index)) (forced : Option Nat) :
    X.released i d forced = X.released i c forced := by
  unfold State.released
  rw [State.slotsInOrder_congr (s := X) rfl (Context.slotKey_congr hcause hw), htag, hcause, hcommitted]

theorem map_index_set {w : List ChunkRecord} {pos : Nat} {r x : ChunkRecord} (hr : w[pos]? = some r)
    (hx : x.index = r.index) (p : Nat) : ((w.set pos x)[p]?).map (·.index) = (w[p]?).map (·.index) := by
  have hlen := (List.getElem?_eq_some_iff.mp hr).1
  rw [List.getElem?_set]
  split_ifs with hp
  · rw [← hp, hr]; simp [hx]
  · rfl

/-- A salvage left with nothing withdraws its offers and, with nothing in flight, returns the entry to FREE. -/
theorem State.settle_salvageOver {X : State} {i : StreamIndex} (hover : c.flagsTested.salvageDone = true)
    (hflight : X.inFlight i = false) :
    (X.setCtx i c).settle i = ((X.withoutOffers i).released i c none).freeEntry i := by
  have hindex : ∀ p : Nat, (({ c.flagsTested with state := .releasing, notices := .none } : Context).changeChunks
      (X.offersOf i) ChunkRecord.withdrawn).window[p]?.map (·.index) = (c.window[p]?).map (·.index) := fun p => by
    rw [Context.changeChunks_getElem?, Option.map_map]
    congr 1
    funext r
    rw [Function.comp_apply, ChunkRecord.withdrawn_iterate, ChunkRecord.withdrawnBy_index]
  simp only [State.settle, State.testFree, State.modifyCtx_setCtx, State.ctx?_setCtx_self, Context.testDrainFlags_eq, hover,
    State.enterReleasing, if_true, State.withdrawOffers_setCtx]
  rw [if_pos ⟨rfl, hflight⟩, State.toFree_setCtx]
  exact congrArg (fun Y : State => Y.freeEntry i) (State.released_congr (by rfl) (by rfl) (by rfl) hindex none)

/-! ## The entry given back -/

/-- What every outcome that returns the entry to FREE has in common. -/
theorem State.completed_freed {X : State} (he : s.engine = some o) (hs : Serving s) (hc : Holds s o.stream c)
    (hu : s.completed o c = X.freeEntry o.stream) (ht : X.table = s.table) (hl : X.lanes = s.lanes) :
    let u := X.freeEntry o.stream
    exec .verifyCompletion s = .next u.poolTest ∧ u.engine = none ∧ u.entry o.stream = Entry.free ∧
      OtherEntries s u o.stream ∧
      u = { s with engine := none, table := u.table, pool := u.pool, events := u.events, live := u.live,
                   errors := u.errors, offered := u.offered, verifyQueue := u.verifyQueue } := by
  intro u
  have hrest : u = _ := State.completed_rest hu hl
  have hw : X.TableWF := by rw [State.TableWF, ht]; exact hs.2.1
  refine ⟨(exec_verifyCompletion he hs.2.1 hc).trans (by rw [hu]), by rw [hrest],
    (State.entry_freeEntry hw _ _).trans (if_pos rfl), fun j hj => ?_, hrest⟩
  rw [State.entry_freeEntry hw, if_neg hj, State.entry, ht]
  rfl

/-- With nothing given up before, the slots that return are those the pool records. -/
theorem GaveUp.released {R X : State} {i : StreamIndex} (h : GaveUp R X [] [] none) (c : Context) :
    ∃ l, SlotsListed R i c l ∧ SlotsGivenUp R (X.released i c none) (l.map Prod.fst) := by
  have huse : ∀ x, X.pool.use x = R.pool.use x := fun x => (h.others x List.not_mem_nil).1
  have hl := State.slotsInOrder_listed h.uses i c
  obtain ⟨freed, hfreed, hg⟩ := h.giveUpAll (forced := none) (X.slotsInOrder i c) (by simpa using hl.nodup)
    (fun x hx => by rw [← huse, (hl.mem x).mp hx]; simp) (fun x _ => by simp)
  refine ⟨_, ⟨hl.nodup, fun x => by rw [hl.mem, huse], hl.ordered⟩, ?_⟩
  exact (hg.congr rfl rfl (State.raise_pool _ _) (State.counter_raise _ _ (by simp))).slotsGivenUp

/-- With one slot retired before, it has its place among them. -/
theorem GaveUp.released_after {R X : State} {i : StreamIndex} {slot : Slot} {pos : Nat}
    (h : GaveUp R X [slot] [] none) (hslot : R.pool.use slot = .assigned i pos) (c : Context) :
    ∃ l, SlotsListed R i c l ∧ SlotsGivenUp R (X.released i c none) (l.map Prod.fst) := by
  have huse : ∀ x, X.pool.use x = if x = slot then .retired else R.pool.use x := fun x => by
    split_ifs with hx
    · have := h.each x (by simp [hx])
      rw [if_neg List.not_mem_nil] at this
      exact this.1
    · exact (h.others x (by simpa using hx)).1
  have hl := State.slotsInOrder_listed h.uses i c
  have hnot : ∀ x ∈ X.slotsInOrder i c, x.1 ≠ slot := fun x hx e => by
    have := (hl.mem x).mp hx
    rw [huse, if_pos e] at this
    exact absurd this (by simp)
  have hnodup : ([slot] ++ (X.slotsInOrder i c).map Prod.fst).Nodup :=
    List.nodup_cons.mpr ⟨fun hm => by
      obtain ⟨x, hx, e⟩ := List.mem_map.mp hm
      exact hnot x hx e, hl.nodup⟩
  obtain ⟨freed, hfreed, hg⟩ := h.giveUpAll (forced := none) (X.slotsInOrder i c) hnodup
    (fun x hx => by
      have := (hl.mem x).mp hx
      rw [huse, if_neg (hnot x hx)] at this
      rw [this]; simp) (fun x _ => by simp)
  refine ⟨_, hl.orderedInsert hslot huse, ?_⟩
  exact ((hg.congr rfl rfl (State.raise_pool _ _) (State.counter_raise _ _ (by simp))).perm
    ((List.perm_orderedInsert c.slotLe (slot, pos) _).map Prod.fst).symm
      (hfreed.trans ((List.sublist_orderedInsert (r := c.slotLe) (slot, pos) _).map Prod.fst))).slotsGivenUp

end

end Sys2Proof.Machine
end

section
/-! # A stopped stream: the pool and the counters; a stream in RELEASING -/

namespace Sys2Proof.Machine

@[simp] theorem Pool.retire_mark (p : Pool) (slot x : Slot) : (p.retire slot).mark x = p.mark x := rfl

section
variable {s : State} {o : EngineOp} {c : Context} {r : ChunkRecord}

/-- The pool after a stopped stream's outcome: the free list, the head reserve and the pool state are as they were. -/
theorem State.afterStopped_pool_eq : (s.afterStopped o).pool =
    { s.pool with uses := (s.afterStopped o).pool.uses, marks := (s.afterStopped o).pool.marks } := by
  by_cases h : s.RetiresAt o
  · rw [(State.afterStopped_retired h).1]
    have hread := s.readBy_pool_eq o
    generalize (s.readBy o).pool = p at hread ⊢
    rw [hread]
    rfl
  · rw [(State.afterStopped_kept h).1]
    have hread := s.readBy_pool_eq o
    generalize (s.readBy o).pool = p at hread ⊢
    rw [hread]

theorem State.afterStopped_figures : (s.afterStopped o).pool.state = s.pool.state ∧
    (s.afterStopped o).pool.spare = s.pool.spare := by
  have h := State.afterStopped_pool_eq (s := s) (o := o)
  generalize (s.afterStopped o).pool = p at h
  rw [h]
  exact ⟨rfl, rfl⟩

theorem State.afterStopped_mark (x : Slot) : (s.afterStopped o).pool.mark x = (s.readBy o).pool.mark x := by
  by_cases h : s.RetiresAt o
  · rw [(State.afterStopped_retired h).1, Pool.retire_mark]
  · rw [(State.afterStopped_kept h).1]

theorem State.afterStopped_use (hcan : CanonicalForm s) :
    (s.RetiresAt o → (s.afterStopped o).pool.use o.slot = .retired) ∧
    (¬s.RetiresAt o → (s.afterStopped o).pool.use o.slot = s.pool.use o.slot) ∧
    ∀ x, x ≠ o.slot → (s.afterStopped o).pool.use x = s.pool.use x := by
  have hwf : CellsWF .free (s.readBy o).pool.uses := by rw [State.readBy_uses]; exact hcan.2.2.2.1
  refine ⟨fun h => ?_, fun h => ?_, fun x hx => ?_⟩
  · rw [(State.afterStopped_retired h).1, Pool.retire_use hwf, if_pos rfl]
  · rw [(State.afterStopped_kept h).1, State.readBy_use]
  · by_cases h : s.RetiresAt o
    · rw [(State.afterStopped_retired h).1, Pool.retire_use hwf, if_neg hx, State.readBy_use]
    · rw [(State.afterStopped_kept h).1, State.readBy_use]

theorem State.counter_afterStopped {k : Counter} (hk : k ≠ .retiredSlots) :
    (s.afterStopped o).counter k = (s.afterRead o).counter k := by
  by_cases h : s.RetiresAt o
  · rw [(State.afterStopped_retired h).2, if_neg hk]
  · exact (State.afterStopped_kept h).2 k

/-- The counters after a comparison and the report of its read. -/
theorem State.counter_afterRead_compared {n : Nat} (hv : s.verification o = .compared n) {k : Counter}
    (hk : k ≠ .eventsLost) :
    (s.afterRead o).counter k = if k = .chunksVerified then (s.counter k).add 1
      else if k = .patternErrors then (s.counter k).add n
      else if k = .correctedErrors then (s.counter k).add (s.countWords o.slot o.words .correctable)
      else if k = .uncorrectableErrors then
        if s.badWords o = 0 then s.counter k else (s.counter k).add (s.badWords o)
      else s.counter k := by
  rw [State.counter_afterRead, hv, State.countVerification, State.counter_count, State.counter_count,
    State.counter_reportRead _ _ hk]
  split_ifs <;> simp_all

/-- The slots that a salvage or a release gives back after the outcome, from the report of the read on. -/
theorem State.afterStopped_released (hcan : CanonicalForm s) {i : StreamIndex} {pos : Nat}
    (hof : s.pool.use o.slot = .assigned i pos) {X : State} (hpool : X.pool = (s.afterStopped o).pool)
    (hcounter : X.counter .retiredSlots = (s.afterStopped o).counter .retiredSlots) (c : Context) :
    ∃ l, SlotsListed (s.readBy o) i c l ∧ SlotsGivenUp (s.readBy o) (X.released i c none) (l.map Prod.fst) := by
  obtain ⟨hretired, hkept⟩ := State.afterStopped_gaveUp hcan hof
  by_cases h : s.RetiresAt o
  · exact ((hretired h).congr rfl rfl hpool hcounter).released_after (by rw [State.readBy_use]; exact hof) c
  · exact ((hkept h).congr rfl rfl hpool hcounter).released c

/-! ## RELEASING (R110, R156) -/

theorem State.afterRead_pool_eq : (s.afterRead o).pool =
    { s.pool with uses := (s.afterRead o).pool.uses, marks := (s.afterRead o).pool.marks } := by
  have hread := s.readBy_pool_eq o
  rw [← State.afterRead_pool] at hread
  generalize (s.afterRead o).pool = p at hread ⊢
  rw [hread]

/-- From the report of the read to the outcome's counting, no slot is given up. -/
theorem State.afterRead_gaveUp (hcan : CanonicalForm s) : GaveUp (s.readBy o) (s.afterRead o) [] [] none :=
  (GaveUp.refl (by rw [State.readBy_uses]; exact hcan.2.2.2.1) (s.readBy_marks_wf o hcan) none).congr rfl rfl
    (s.afterRead_pool o)
    (by rw [State.counter_afterRead_retired, State.counter_readBy _ _ (by simp)])

theorem Context.givenUp_eq (hr : c.window[o.pos]? = some r) : c.modifyChunk o.pos ChunkRecord.givenUp =
    { c with window := c.window.set o.pos { r with state := .empty, ranges := [], slot := none } } :=
  Context.modifyChunk_of_getElem? hr _

theorem State.completed_releasing (hrel : c.state = .releasing) :
    s.completed o c =
      (State.endInFlight ((s.afterRead o).setCtx o.stream c) o.stream o.pos false).settle o.stream := by
  simp only [State.completed, State.applyOutcome, State.ctx?_setCtx_self, hrel]

/-- With more in flight the chunk gives its slot up, and the entry stays. -/
theorem State.completed_releasing_more (hr : c.window[o.pos]? = some r) (hrel : c.state = .releasing)
    (hof : s.pool.slotOf o.stream o.pos = some o.slot) (hflight : (s.afterRead o).inFlight o.stream = true) :
    s.completed o c = ((s.afterRead o).giveUp o.slot false).setCtx o.stream (Context.flagsTested { c with
      window := c.window.set o.pos { r with state := .empty, ranges := [], slot := none } }) := by
  have hpool : (s.afterRead o).pool.slotOf o.stream o.pos = some o.slot := by
    rw [State.afterRead_pool, Pool.slotOf, State.readBy_uses]; exact hof
  have hgive : (s.afterRead o).giveUpAt o.stream o.pos false = (s.afterRead o).giveUp o.slot false := by
    rw [State.giveUpAt, hpool]
  have hstill : ((s.afterRead o).giveUp o.slot false).inFlight o.stream = true := by
    simpa [State.inFlight] using hflight
  rw [State.completed_releasing hrel, State.endInFlight]
  simp only [State.modifyChunk_setCtx, State.ctx?_setCtx_self, State.inFlight_setCtx, hflight, if_true, Context.givenUp_eq hr,
    State.giveUpAt_setCtx, hgive]
  exact State.settle_setCtx _ _ (Context.salvageDone_of_ne (by simp [Context.flagsTested, hrel])) fun _ => hstill

/-- With nothing left in flight the entry returns to FREE. -/
theorem State.completed_releasing_last (hs : Serving s) (hr : c.window[o.pos]? = some r) (hrel : c.state = .releasing)
    (hflight : (s.afterRead o).inFlight o.stream = false) :
    s.completed o c = ((s.afterRead o).released o.stream c none).freeEntry o.stream := by
  have hindex : ∀ p : Nat,
      ((c.window.set o.pos { r with state := .empty, ranges := [], slot := none })[p]?).map (·.index) =
        (c.window[p]?).map (·.index) := map_index_set hr rfl
  rw [State.completed_releasing hrel, State.endInFlight]
  simp only [State.modifyChunk_setCtx, State.ctx?_setCtx_self, State.inFlight_setCtx, hflight, Context.givenUp_eq hr,
    State.toFree_setCtx, Bool.false_eq_true, if_false]
  rw [State.released_congr (c := c) (by rfl) (by rfl) (by rfl) hindex]
  exact State.settle_freeEntry (by rw [State.TableWF, State.released_table, State.afterRead_table]; exact hs.2.1) _

end

end Sys2Proof.Machine
end

section
/-! # The outcome of a stopped stream (O36) -/

namespace Sys2Proof.Machine

/-- Settles O36: a stream in ABORTED or SALVAGING, whose salvage goes on or is over, and one in RELEASING, with more in
flight or without. -/
theorem outcomeOfAStoppedStream : Obligations.OutcomeOfAStoppedStream := by
  intro s o c r he hs hcan hc hr hof i bytes bad read right passes retires counted
  have huse : s.pool.use o.slot = .assigned i o.pos := Pool.slotOf_use hcan.2.2.2.1 hof
  have hreadTable : read.table = s.table := s.readBy_table o
  have hcounted : ∀ u : State, (∀ k, k ≠ .eventsLost → k ≠ .retiredSlots → u.counter k = (s.afterRead o).counter k) →
      counted u := fun u hu => by
    rcases s.verification_cases o with ⟨hp, hv⟩ | ⟨hp, hright, hv⟩ | ⟨hp, hwrong, reason, hv, -⟩
    · have hpass : passes := .inl hp
      have hnew := fun k => State.counter_afterRead_compared hv (k := k)
      refine ⟨?_, ?_, ?_, ?_, fun k hk => ?_⟩
      · simp [hu, hnew, hpass]
      · simp [hu, hnew, hpass]
      · simp [hu, hnew, hp]
      · simp [hu, hnew, bad]
      · simp only [List.mem_cons, not_or] at hk
        simp [hu, hnew, hk]
    · have hpass : passes := .inr hright
      have hnew := fun k => State.counter_afterRead_pass hv hright.1 (k := k)
      refine ⟨?_, ?_, ?_, ?_, fun k hk => ?_⟩
      · simp [hu, hnew, hpass]
      · simp [hu, hnew, hpass]
      · simp [hu, hnew, hp]
      · simp [hu, hnew, bad, hright.1]
      · simp only [List.mem_cons, not_or] at hk
        simp [hu, hnew, hk]
    · have hfail : ¬passes := fun h => h.elim (by simp [hp]) hwrong
      have hnew := fun k => State.counter_afterRead_fail hv (k := k)
      refine ⟨?_, ?_, ?_, ?_, fun k hk => ?_⟩
      · simp [hu, hnew, hfail]
      · simp [hu, hnew, hfail]
      · simp [hu, hnew, hp]
      · simp [hu, hnew, bad]
      · simp only [List.mem_cons, not_or] at hk
        simp [hu, hnew, hk]
  have hreturned : ∀ X : State, X.table = s.table → (∃ l, SlotsListed read i c l ∧ SlotsGivenUp read X (l.map Prod.fst)) →
      Raised read X (.streamReleased i c.tag c.cause c.committed) → (X.freeEntry i).entry i = Entry.free →
      OtherEntries s (X.freeEntry i) i → ReturnedToFree read (X.freeEntry i) i c := by
    rintro X hX ⟨l, hl, hgiven⟩ hraised hfree hothers
    refine returnedToFree_of_listed hfree (fun j hj => (hothers j hj).trans ?_) hl hgiven hraised
    rw [State.entry, State.entry, hreadTable]
  refine ⟨fun hstop hp => ?_, fun hrel => ⟨fun hmore => ?_, fun hlast => ?_⟩⟩
  · intro chunk d
    have houtcome : ((s.afterRead o).setCtx i c).applyOutcome i o.pos (s.verification o) =
        (s.afterStopped o).setCtx i { c with window := c.window.set o.pos chunk } := by
      rcases s.verification_cases o with ⟨hp', -⟩ | ⟨-, hright, hv⟩ | ⟨-, hwrong, reason, hv, hretiring⟩
      · rw [hp] at hp'; exact absurd hp' (by simp)
      · have hchunk : chunk = { r with state := .verified, check := some (trailerCheck bytes) } := if_pos (.inr hright)
        rw [State.outcome_stopped_pass hstop hr hright.1 hv, hchunk]
      · have hfail : ¬passes := fun h => h.elim (by simp [hp]) hwrong
        have hchunk : chunk = { r with
            state := .empty, ranges := [], slot := if decide retires = true then none else r.slot } := by
          simp only [chunk, if_neg hfail, decide_eq_true_eq]
        rw [State.outcome_stopped_fail hstop hr hof hv hretiring (retired := decide retires) decide_eq_true_iff, hchunk]
    have hindex : ∀ p : Nat, (({ c with window := c.window.set o.pos chunk } : Context).window[p]?).map (·.index) =
        (c.window[p]?).map (·.index) := map_index_set hr (by simp only [chunk]; split_ifs <;> rfl)
    have hnotReleasing : c.state ≠ .releasing := by rcases hstop with h | h <;> simp [h]
    refine ⟨fun hover => ?_, fun hover hlast => ?_⟩
    · have hu : s.completed o c = (s.afterStopped o).setCtx i d :=
        (congrArg (State.settle · i) houtcome).trans (State.settle_setCtx _ _
          (Bool.eq_false_iff.mpr fun h => hover ((Context.salvageOver_iff _).mpr h)) fun h => absurd h hnotReleasing)
      obtain ⟨hexec, hengine, hothers, hholds, hrest⟩ := State.completed_spec he hs hc hu (by simp) (by simp)
      obtain ⟨hstate, hspare⟩ := State.afterStopped_figures (s := s) (o := o)
      rw [hs.poolTest_quiet (by simpa using hstate) (by simpa using hspare) (by simp)] at hexec
      obtain ⟨huseRetired, huseKept, huseOther⟩ := State.afterStopped_use (s := s) (o := o) hcan
      refine ⟨_, hexec, hengine, hothers, hholds, by simp [read], by simp [read],
        hcounted _ fun k _ hk => (State.counter_setCtx _ _ _ _).trans (State.counter_afterStopped hk), ?_, ?_, ?_, ?_, ?_⟩
      · split_ifs with h
        · rw [State.counter_setCtx, (State.afterStopped_retired h).2, if_pos rfl, State.counter_afterRead_retired]
        · rw [State.counter_setCtx, (State.afterStopped_kept h).2, State.counter_afterRead_retired]
      · split_ifs with h
        · rw [State.setCtx_pool, huseRetired h]
        · rw [State.setCtx_pool, huseKept h]
      · simpa only [State.setCtx_pool] using huseOther
      · simpa only [State.setCtx_pool] using State.afterStopped_mark
      · refine hrest.trans ?_
        simp only [State.setCtx_pool, State.setCtx_offered, State.setCtx_verifyQueue, State.afterStopped_offered,
          State.afterStopped_verifyQueue, hengine, ← State.afterStopped_pool_eq]
    · have hflight : (s.afterStopped o).inFlight i = false := by
        simp only [State.inFlight, State.afterStopped_engine, State.afterStopped_drainMap]
        simpa using hlast
      have hu : s.completed o c = (((s.afterStopped o).withoutOffers i).released i c none).freeEntry i :=
        ((congrArg (State.settle · i) houtcome).trans
          (State.settle_salvageOver ((Context.salvageOver_iff d).mp hover) hflight)).trans
          (congrArg (fun X : State => X.freeEntry i)
            (State.released_congr (by rfl) (by rfl) (by rfl) hindex none))
      have htable : (((s.afterStopped o).withoutOffers i).released i c none).table = s.table := by simp
      obtain ⟨hexec, hengine, hfree, hothers, hrest⟩ := State.completed_freed he hs hc hu htable (by simp)
      have hpool := State.released_pool_eq ((s.afterStopped o).withoutOffers i) i c none
      rw [State.withoutOffers_pool] at hpool
      refine ⟨_, hexec, hengine, hreturned _ htable
        (State.afterStopped_released hcan huse (State.withoutOffers_pool _ _) (State.counter_withoutOffers _ _ _) c)
        (State.released_raised _ _ _ _ (by simp [read]) (by simp [read]) (by simp [read]) (by simp [read])) hfree hothers,
        hcounted _ fun k hk hk' => ?_, by simp, ?_⟩
      · rw [State.counter_freeEntry, State.counter_released _ _ _ _ hk hk', State.counter_withoutOffers,
          State.counter_afterStopped hk']
      · refine hrest.trans ?_
        rw [State.freeEntry_verifyQueue, State.released_verifyQueue, State.withoutOffers_verifyQueue,
          State.afterStopped_verifyQueue, hengine, State.freeEntry_pool, ← Pool.frame_trans hpool State.afterStopped_pool_eq]
  · have hflight : (s.afterRead o).inFlight i = true := by
      simp only [State.inFlight, State.afterRead_engine, State.afterRead_drainMap]
      simpa using hmore
    have hu := State.completed_releasing_more hr hrel hof hflight
    obtain ⟨hexec, hengine, hothers, hholds, hrest⟩ := State.completed_spec he hs hc hu (by simp) (by simp)
    obtain ⟨more, -, hgave⟩ := (State.afterRead_gaveUp (o := o) hcan).snoc (slot := o.slot) (t' := s.afterRead o) (force := false)
      List.not_mem_nil (by rw [State.readBy_use, huse]; simp) rfl rfl le_rfl (Nat.le_succ _) (by simp)
    refine ⟨_, hexec, hengine, hothers, hholds,
      (hgave.congr rfl rfl (State.setCtx_pool _ _ _) (State.counter_setCtx _ _ _ _)).slotsGivenUp, by simp [read], by simp [read],
      hcounted _ fun k _ hk => ?_, ?_⟩
    · rw [State.counter_setCtx, State.counter_giveUp _ _ _ hk]
    · refine hrest.trans ?_
      rw [State.setCtx_verifyQueue, State.giveUp_verifyQueue, State.afterRead_verifyQueue, State.setCtx_offered,
        State.giveUp_offered, State.afterRead_offered, hengine, State.setCtx_pool,
        ← Pool.frame_trans (State.giveUp_pool _ _ _) State.afterRead_pool_eq]
  · have hflight : (s.afterRead o).inFlight i = false := by
      simp only [State.inFlight, State.afterRead_engine, State.afterRead_drainMap]
      simpa using hlast
    have hu := State.completed_releasing_last hs hr hrel hflight
    have htable : ((s.afterRead o).released i c none).table = s.table := by simp
    obtain ⟨hexec, hengine, hfree, hothers, hrest⟩ := State.completed_freed he hs hc hu htable (by simp)
    have hpool := State.released_pool_eq (s.afterRead o) i c none
    have hgave := State.afterRead_gaveUp (o := o) hcan
    refine ⟨_, hexec, hengine, hreturned _ htable (hgave.released c)
        (State.released_raised _ _ _ _ (by simp [read]) (by simp [read]) (by simp [read]) (by simp [read])) hfree hothers,
        hcounted _ fun k hk hk' => ?_, ?_⟩
    · rw [State.counter_freeEntry, State.counter_released _ _ _ _ hk hk']
    · refine hrest.trans ?_
      rw [State.freeEntry_verifyQueue, State.released_verifyQueue, State.afterRead_verifyQueue, State.freeEntry_offered,
        State.released_offered, State.afterRead_offered, hengine, State.freeEntry_pool,
        ← Pool.frame_trans hpool State.afterRead_pool_eq]

end Sys2Proof.Machine
end

section
/-! # Ordered commit, step by step (R133, R134) -/

namespace Sys2Proof.Machine

/-! ## The context after some commit steps -/

/-- `Context.committing` without the stream's own change of state, its notices and the tests of its flags. -/
def Context.advanced (c : Context) (n : Nat) : Context :=
  let last := decide (1 ≤ n) && c.final.any fun f => decide (0 < f ∧ c.head + n = (f - 1) / 65536 + 1)
  { c with
    committed := if last then c.final.getD 0 else c.committed + 65536 * n
    window := c.window.mapIdx fun p x => ((List.range n).find? fun j => decide (c.posOf (c.head + j) = p)).elim x
      fun j => .fresh (c.head + j + c.w) }

/-- The chunks from the head on that n commit steps commit, as `State.Commits` names them: STORED with a slot, no STORED
chunk behind them, none beyond F. -/
structure Context.CommitsRow (c : Context) (n : Nat) : Prop where
  pos : 1 ≤ n
  le : n ≤ c.w
  stored : ∀ j, j < n → ∃ x, c.window[c.posOf (c.head + j)]? = some x ∧ x.state = .stored ∧ x.slot.isSome = true
  stops : n < c.w → ∀ x, c.window[c.posOf (c.head + n)]? = some x → x.state ≠ .stored
  within : ∀ f, c.final = some f → f = 0 ∨ c.head + n ≤ (f - 1) / 65536 + 1

section
variable {c : Context}

/-- The chunks of a window stand at different positions (R52). -/
theorem Context.posOf_injective {j k : Nat} (hj : j < c.w) (hk : k < c.w)
    (h : c.posOf (c.head + j) = c.posOf (c.head + k)) : j = k :=
  Nat.ModEq.eq_of_lt_of_lt (Nat.ModEq.add_left_cancel' c.head h) hj hk

theorem Context.advanced_zero : c.advanced 0 = c := by
  have hwindow : c.window.mapIdx (fun _ x => x) = c.window := List.ext_getElem? fun p => by simp
  simp [Context.advanced, hwindow]

theorem Context.advanced_getElem? (n p : Nat) : (c.advanced n).window[p]? =
    (c.window[p]?).map fun x => ((List.range n).find? fun j => decide (c.posOf (c.head + j) = p)).elim x
      fun j => .fresh (c.head + j + c.w) := by
  rw [Context.advanced, List.getElem?_mapIdx]

/-- A chunk of the window that no step has committed is as it was. -/
theorem Context.advanced_ahead {n k : Nat} (hn : n ≤ k) (hk : k < c.w) :
    (c.advanced n).window[c.posOf (c.head + k)]? = c.window[c.posOf (c.head + k)]? := by
  have hnone : ((List.range n).find? fun j => decide (c.posOf (c.head + j) = c.posOf (c.head + k))) = none := by
    rw [List.find?_eq_none]
    intro j hj
    have hjn := List.mem_range.mp hj
    simp only [decide_eq_true_eq]
    exact fun h => absurd (Context.posOf_injective (by omega) hk h) (by omega)
  rw [Context.advanced_getElem?, hnone]
  simp

/-- A chunk that a step has committed left an EMPTY record. -/
theorem Context.advanced_behind {n k : Nat} (hk : k < n) {x : ChunkRecord}
    (hx : (c.advanced n).window[c.posOf (c.head + k)]? = some x) : x.state = .empty := by
  have hfound : ((List.range n).find? fun j => decide (c.posOf (c.head + j) = c.posOf (c.head + k))).isSome = true := by
    rw [List.find?_isSome]
    exact ⟨k, List.mem_range.mpr hk, by simp⟩
  obtain ⟨j, hj⟩ := Option.isSome_iff_exists.mp hfound
  rw [Context.advanced_getElem?, hj] at hx
  obtain ⟨y, -, rfl⟩ := Option.map_eq_some_iff.mp hx
  rfl

theorem Context.advanced_posOf (n k : Nat) : (c.advanced n).posOf k = c.posOf k := rfl

variable {n : Nat} (h : c.CommitsRow n)
include h

/-- No step before the last commits the final chunk. -/
theorem Context.CommitsRow.committed {j : Nat} (hj : j < n) : (c.advanced j).committed = c.committed + 65536 * j := by
  refine if_neg ?_
  rw [Bool.and_eq_true, decide_eq_true_eq, Option.any_eq_true]
  rintro ⟨-, f, hf, hlast⟩
  rw [decide_eq_true_eq] at hlast
  have := h.within f hf
  omega

theorem Context.CommitsRow.head {j : Nat} (hj : j < n) : (c.advanced j).head = c.head + j := by
  unfold Context.head Config.chunkSize
  rw [h.committed hj]
  omega

theorem Context.CommitsRow.headRecord {j : Nat} (hj : j < n) :
    (c.advanced j).window[(c.advanced j).posOf (c.advanced j).head]? = c.window[c.posOf (c.head + j)]? := by
  rw [h.head hj, Context.advanced_posOf, Context.advanced_ahead le_rfl (by have := h.le; omega)]

theorem Context.CommitsRow.headStored {j : Nat} (hj : j < n) : (c.advanced j).headStored = true := by
  obtain ⟨x, hx, hstored, -⟩ := h.stored j hj
  rw [Context.headStored, h.headRecord hj, hx]
  simp [hstored]

/-- Between two steps the head chunk holds its slot. -/
theorem Context.CommitsRow.headSlot {j : Nat} (hj : j < n) : (c.advanced j).headSlotless = false := by
  obtain ⟨x, hx, -, hslot⟩ := h.stored j hj
  rw [Context.headSlotless, h.headRecord hj, hx]
  cases hs : x.slot <;> simp_all

/-- One step more. -/
theorem Context.CommitsRow.afterCommit {j : Nat} (hj : j < n) : (c.advanced j).afterCommit = c.advanced (j + 1) := by
  have hcommitted : (c.advanced j).nextCommitted = (c.advanced (j + 1)).committed := by
    have hfinal : (c.advanced j).final = c.final := rfl
    rw [Context.nextCommitted, h.head hj, h.committed hj, hfinal, Context.advanced]
    cases hf : c.final with
    | none => simp [Config.chunkSize]; omega
    | some f =>
      have hlast : (0 < f ∧ c.head + j = finalIndex f) ↔ (0 < f ∧ c.head + (j + 1) = (f - 1) / 65536 + 1) := by
        unfold finalIndex Config.chunkSize
        omega
      simp only [hlast, Option.any_some, decide_eq_true_eq, Bool.and_eq_true, Option.getD_some, Nat.succ_le_succ_iff,
        Nat.zero_le, true_and, Config.chunkSize]
      split_ifs
      · rfl
      · omega
  have hwindow : (c.advanced j).window.set (c.posOf (c.head + j)) (.fresh (c.head + j + c.w)) =
      (c.advanced (j + 1)).window := by
    refine List.ext_getElem? fun p => ?_
    have hlen : (c.advanced j).window.length = c.window.length := List.length_mapIdx
    rw [List.getElem?_set, hlen, Context.advanced_getElem?, Context.advanced_getElem?, List.range_succ, List.find?_append]
    by_cases hp : c.posOf (c.head + j) = p
    · have hnone : ((List.range j).find? fun k => decide (c.posOf (c.head + k) = p)) = none := by
        rw [List.find?_eq_none]
        intro k hk
        have hkj := List.mem_range.mp hk
        have hle := h.le
        rw [← hp, decide_eq_true_eq]
        exact fun e => absurd (Context.posOf_injective (by omega) (by omega) e) (by omega)
      rw [if_pos hp, hnone]
      by_cases hlt : p < c.window.length
      · simp [hp, hlt]
      · simp [hp, hlt]
    · rw [if_neg hp]
      simp [hp]
  have hafter : (c.advanced j).afterCommit = { c.advanced j with
      window := (c.advanced j).window.set (c.posOf (c.head + j)) (.fresh (c.head + j + c.w))
      committed := (c.advanced j).nextCommitted } := by
    rw [Context.afterCommit, h.head hj]
    rfl
  rw [hafter, hwindow, hcommitted]
  rfl

/-- Where the window is not used up, the head chunk is not STORED after the steps. -/
theorem Context.CommitsRow.headNotStored (hlt : n < c.w) : (c.advanced n).headStored = false := by
  have hhead : (c.advanced n).head = c.head + n ∨ (c.advanced n).head + 1 = c.head + n := by
    unfold Context.head Config.chunkSize Context.advanced
    dsimp only
    split_ifs with hl
    · rw [Bool.and_eq_true, decide_eq_true_eq, Option.any_eq_true] at hl
      obtain ⟨-, f, hf, hlast⟩ := hl
      rw [decide_eq_true_eq] at hlast
      obtain ⟨hpos, hlast⟩ := hlast
      rw [hf, Option.getD_some]
      unfold Context.head Config.chunkSize at hlast
      omega
    · left; omega
  have hnot : ∀ x, (c.advanced n).window[(c.advanced n).posOf (c.advanced n).head]? = some x → x.state ≠ .stored := by
    intro x hx
    rw [Context.advanced_posOf] at hx
    rcases hhead with hhead | hhead
    · rw [hhead, Context.advanced_ahead le_rfl hlt] at hx
      exact h.stops hlt x hx
    · have := h.pos
      rw [show (c.advanced n).head = c.head + (n - 1) by omega] at hx
      rw [Context.advanced_behind (by omega) hx]
      simp
  unfold Context.headStored
  cases hx : (c.advanced n).window[(c.advanced n).posOf (c.advanced n).head]? with
  | none => rfl
  | some x => simp [hnot x hx]

end

end Sys2Proof.Machine
end

section
/-! # Ordered commit and the rest of the device (R80, R81, R85, R133) -/

namespace Sys2Proof.Machine

/-! ## The slot recorded for a position -/

/-- The slot the pool finds for a window position is the lowest of those ASSIGNED to it. -/
theorem Pool.slotOf_eq_some_iff {p : Pool} (h : CellsWF .free p.uses) {i : StreamIndex} {pos : Nat} {slot : Slot} :
    p.slotOf i pos = some slot ↔ p.use slot = .assigned i pos ∧ ∀ x, p.use x = .assigned i pos → slot ≤ x := by
  have hmem : ∀ x, p.use x = .assigned i pos → (x, SlotUse.assigned i pos) ∈ p.uses := fun x hx =>
    (mem_iff_cellGet h x _ (by simp)).mpr hx
  have hlowest : ∀ slot, p.slotOf i pos = some slot → ∀ x, p.use x = .assigned i pos → slot ≤ x := by
    intro slot hs x hx
    obtain ⟨cell, hcell, rfl⟩ := Option.map_eq_some_iff.mp hs
    obtain ⟨-, before, after, huses, hbefore⟩ := List.find?_eq_some_iff_append.mp hcell
    have hm := hmem x hx
    have hsorted := h.1
    rw [huses] at hm hsorted
    rcases List.mem_append.mp hm with hm | hm
    · exact absurd (hbefore _ hm) (by simp)
    · rcases List.mem_cons.mp hm with rfl | hm
      · exact le_rfl
      · exact le_of_lt ((List.pairwise_cons.mp (List.pairwise_append.mp hsorted).2.1).1 _ hm)
  refine ⟨fun hs => ⟨Pool.slotOf_use h hs, hlowest slot hs⟩, fun ⟨huse, hleast⟩ => ?_⟩
  have hfound : (p.slotOf i pos).isSome = true := by
    rw [Pool.slotOf, Option.isSome_map, List.find?_isSome]
    exact ⟨_, hmem slot huse, by simp⟩
  obtain ⟨x, hx⟩ := Option.isSome_iff_exists.mp hfound
  rw [hx, le_antisymm (hlowest x hx slot huse) (hleast x (Pool.slotOf_use h hx))]

/-- It depends on nothing but which slots are ASSIGNED to the position. -/
theorem Pool.slotOf_congr {p q : Pool} (hp : CellsWF .free p.uses) (hq : CellsWF .free q.uses) {i : StreamIndex} {pos : Nat}
    (h : ∀ x, p.use x = .assigned i pos ↔ q.use x = .assigned i pos) : p.slotOf i pos = q.slotOf i pos :=
  Option.ext fun slot => by simp only [Pool.slotOf_eq_some_iff hp, Pool.slotOf_eq_some_iff hq, h]

/-! ## One step -/

/-- What a commit step that leaves the context `d` makes of the rest of the device: the head reserve, the slot at the
committed chunk's position, the counter. -/
def State.afterStep (X : State) (i : StreamIndex) (pos : Nat) (d : Context) : State :=
  ((if (d.state.receiving && !decide (d.final = some d.committed)) && d.headSlotless then X.raiseReserve 1
    else X).giveUpAt i pos false).count .chunksCommitted 1

theorem State.commitStep_setCtx (X : State) (i : StreamIndex) (b c : Context) :
    (X.setCtx i b).commitStep i c = (X.afterStep i (c.posOf c.head) c.afterCommit).setCtx i c.afterCommit := by
  unfold State.commitStep State.afterStep
  dsimp only
  split_ifs <;> simp

section
variable (X : State) (i : StreamIndex) (pos : Nat) (d : Context)

theorem State.giveUpAt_eq (force : Bool) : X.giveUpAt i pos force =
    { X with pool := { X.pool with freeList := (X.giveUpAt i pos force).pool.freeList,
                                   uses := (X.giveUpAt i pos force).pool.uses,
                                   marks := (X.giveUpAt i pos force).pool.marks },
             live := (X.giveUpAt i pos force).live } := by
  unfold State.giveUpAt
  split
  · rename_i slot _
    rcases X.giveUp_cases slot force with ⟨-, -, -, h⟩ | ⟨-, h⟩ <;> rw [h] <;> rfl
  · rfl

theorem State.counter_giveUpAt (force : Bool) {k : Counter} (hk : k ≠ .retiredSlots) :
    (X.giveUpAt i pos force).counter k = X.counter k := by
  unfold State.giveUpAt
  split
  · exact X.counter_giveUp _ _ hk
  · rfl

/-- A step leaves all but the pool and the counters alone, and in the pool the slots' number and the pool state. -/
theorem State.afterStep_eq : X.afterStep i pos d =
    { X with pool := { X.pool with freeList := (X.afterStep i pos d).pool.freeList,
                                   uses := (X.afterStep i pos d).pool.uses,
                                   marks := (X.afterStep i pos d).pool.marks,
                                   reserve := (X.afterStep i pos d).pool.reserve },
             live := (X.afterStep i pos d).live } := by
  unfold State.afterStep
  split_ifs
  · rw [State.giveUpAt_eq]; rfl
  · rw [State.giveUpAt_eq]; rfl

theorem State.afterStep_reserve : (X.afterStep i pos d).pool.reserve =
    if (d.state.receiving && !decide (d.final = some d.committed)) && d.headSlotless then X.pool.reserve + 1
      else X.pool.reserve := by
  unfold State.afterStep
  split_ifs
  · rw [State.giveUpAt_eq]; rfl
  · rw [State.giveUpAt_eq]; rfl

theorem State.counter_afterStep {k : Counter} (hk : k ≠ .retiredSlots) :
    (X.afterStep i pos d).counter k = if k = .chunksCommitted then (X.counter k).add 1 else X.counter k := by
  rw [State.afterStep, State.counter_count, State.counter_giveUpAt _ _ _ _ hk]
  split_ifs <;> rfl

end

/-- The slot that a step gives up, after those given up before. -/
theorem GaveUp.afterStep {R X : State} {given freed : List Slot} {i : StreamIndex} {pos : Nat} {slot : Slot}
    (h : GaveUp R X given freed none) (hnew : slot ∉ given) (hlive : R.pool.use slot ≠ .retired)
    (hslot : X.pool.slotOf i pos = some slot) (d : Context) :
    ∃ more, GaveUp R (X.afterStep i pos d) (given ++ [slot]) (freed ++ more) none := by
  unfold State.afterStep
  generalize ((d.state.receiving && !decide (d.final = some d.committed)) && d.headSlotless) = rises
  have hgive : ∀ Y : State, Y.pool.slotOf i pos = some slot → Y.giveUpAt i pos false = Y.giveUp slot false :=
    fun Y hY => by rw [State.giveUpAt, hY]
  cases rises with
  | false =>
    obtain ⟨more, -, hg⟩ := h.snoc hnew hlive (t' := X) (force := false) rfl rfl le_rfl (Nat.le_succ _) (by simp)
    rw [if_neg Bool.false_ne_true, hgive X hslot]
    exact ⟨more, hg.congr rfl rfl rfl (by simp)⟩
  | true =>
    obtain ⟨more, -, hg⟩ := h.snoc hnew hlive (t' := X.raiseReserve 1) (force := false) rfl rfl (Nat.le_succ _) le_rfl
      (by simp)
    rw [if_pos rfl, hgive (X.raiseReserve 1) hslot]
    exact ⟨more, hg.congr rfl rfl rfl (by simp)⟩

/-! ## The steps of one event -/

/-- The rest of the device after the first steps of an event that finds the stream with `c`. -/
def State.committedBy (X : State) (i : StreamIndex) (c : Context) : Nat → State
  | 0 => X
  | n + 1 => (X.committedBy i c n).afterStep i (c.posOf (c.head + n)) (c.advanced (n + 1))

section
variable (X : State) (i : StreamIndex) (c : Context)

theorem State.committedBy_eq (n : Nat) : X.committedBy i c n =
    { X with pool := { X.pool with freeList := (X.committedBy i c n).pool.freeList,
                                   uses := (X.committedBy i c n).pool.uses,
                                   marks := (X.committedBy i c n).pool.marks,
                                   reserve := (X.committedBy i c n).pool.reserve },
             live := (X.committedBy i c n).live } := by
  induction n with
  | zero => rfl
  | succ n ih => rw [State.committedBy, State.afterStep_eq, ih]

@[simp] theorem State.committedBy_table (n : Nat) : (X.committedBy i c n).table = X.table := by rw [State.committedBy_eq]
@[simp] theorem State.committedBy_lanes (n : Nat) : (X.committedBy i c n).lanes = X.lanes := by rw [State.committedBy_eq]
@[simp] theorem State.committedBy_events (n : Nat) : (X.committedBy i c n).events = X.events := by rw [State.committedBy_eq]
@[simp] theorem State.committedBy_errors (n : Nat) : (X.committedBy i c n).errors = X.errors := by rw [State.committedBy_eq]
@[simp] theorem State.committedBy_time (n : Nat) : (X.committedBy i c n).time = X.time := by rw [State.committedBy_eq]
@[simp] theorem State.committedBy_settings (n : Nat) : (X.committedBy i c n).settings = X.settings := by
  rw [State.committedBy_eq]
@[simp] theorem State.committedBy_offered (n : Nat) : (X.committedBy i c n).offered = X.offered := by
  rw [State.committedBy_eq]
@[simp] theorem State.committedBy_verifyQueue (n : Nat) : (X.committedBy i c n).verifyQueue = X.verifyQueue := by
  rw [State.committedBy_eq]

theorem State.counter_committedBy (n : Nat) {k : Counter} (hk : k ≠ .retiredSlots) (hk' : k ≠ .chunksCommitted) :
    (X.committedBy i c n).counter k = X.counter k := by
  induction n with
  | zero => rfl
  | succ n ih => rw [State.committedBy, State.counter_afterStep _ _ _ _ hk, if_neg hk', ih]

theorem State.chunksCommitted_committedBy (n : Nat) : (X.committedBy i c n).counter .chunksCommitted =
    Nat.iterate (fun x : Count => x.add 1) n (X.counter .chunksCommitted) := by
  induction n with
  | zero => rfl
  | succ n ih =>
    rw [State.committedBy, State.counter_afterStep _ _ _ _ (by simp), if_pos rfl, ih, Function.iterate_succ_apply']

end

section
variable {c : Context} {n : Nat} (h : c.CommitsRow n)
include h

theorem Context.CommitsRow.commitSteps_from (X : State) (i : StreamIndex) (fuel : Nat) : ∀ j, j ≤ n → n - j ≤ fuel →
    (n - j = fuel ∨ n < c.w) →
    ((X.committedBy i c j).setCtx i (c.advanced j)).commitSteps i fuel =
      (X.committedBy i c n).setCtx i (c.advanced n) := by
  induction fuel with
  | zero =>
    intro j hj hle _
    rw [show j = n by omega]
    rfl
  | succ fuel ih =>
    intro j hj hle hstop
    unfold State.commitSteps
    rw [State.ctx?_setCtx_self]
    by_cases hlt : j < n
    · dsimp only
      rw [if_pos (h.headStored hlt), State.commitStep_setCtx, h.afterCommit hlt, h.head hlt]
      exact ih (j + 1) hlt (by omega) (by omega)
    · rw [show j = n by omega]
      dsimp only
      rw [h.headNotStored (by omega)]
      exact if_neg Bool.false_ne_true

/-- The steps of the event: n of them, and then the row is over. -/
theorem Context.CommitsRow.commitSteps (X : State) (i : StreamIndex) :
    (X.setCtx i c).commitSteps i c.w = (X.committedBy i c n).setCtx i (c.advanced n) := by
  have hle := h.le
  have := h.commitSteps_from X i c.w 0 (by omega) (by omega) (by omega)
  rwa [Context.advanced_zero] at this

/-- Only the last step can leave a head chunk without a slot, and so raise the head reserve. -/
theorem Context.CommitsRow.reserve_before (X : State) (i : StreamIndex) {j : Nat} (hj : j < n) :
    (X.committedBy i c j).pool.reserve = X.pool.reserve := by
  induction j with
  | zero => rfl
  | succ j ih =>
    rw [State.committedBy, State.afterStep_reserve, h.headSlot hj, Bool.and_false, ih (by omega)]
    rfl

theorem Context.CommitsRow.reserve (X : State) (i : StreamIndex) : (X.committedBy i c n).pool.reserve =
    if (c.state.receiving && !decide (c.final = some (c.advanced n).committed)) && (c.advanced n).headSlotless
      then X.pool.reserve + 1 else X.pool.reserve := by
  obtain ⟨m, rfl⟩ := Nat.exists_eq_add_of_le' h.pos
  rw [State.committedBy, State.afterStep_reserve, h.reserve_before X i (Nat.lt_succ_self m)]
  rfl

/-- The slots of the steps are given up one after the other, in chunk order. -/
theorem Context.CommitsRow.gaveUp {R X : State} {i : StreamIndex} (hR : CellsWF .free R.pool.uses)
    (hslots : ∀ j, j < n → (R.pool.slotOf i (c.posOf (c.head + j))).isSome = true) (hX : GaveUp R X [] [] none) {m : Nat}
    (hm : m ≤ n) : ∃ freed, GaveUp R (X.committedBy i c m) (R.committedSlots i c m) freed none := by
  induction m with
  | zero => exact ⟨[], hX⟩
  | succ m ih =>
    obtain ⟨freed, hg⟩ := ih (by omega)
    obtain ⟨slot, hslot⟩ := Option.isSome_iff_exists.mp (hslots m hm)
    have huse := Pool.slotOf_use hR hslot
    have hassigned : ∀ x ∈ R.committedSlots i c m, R.pool.use x ≠ .assigned i (c.posOf (c.head + m)) := by
      intro x hx he
      obtain ⟨k, hk, hkx⟩ := List.mem_filterMap.mp hx
      have hkm := List.mem_range.mp hk
      rw [Pool.slotOf_use hR hkx, SlotUse.assigned.injEq] at he
      have hle := h.le
      exact absurd (Context.posOf_injective (by omega) (by omega) he.2) (by omega)
    have hstill : (X.committedBy i c m).pool.slotOf i (c.posOf (c.head + m)) = some slot := by
      rw [← hslot]
      refine Pool.slotOf_congr hg.uses hR fun x => ?_
      by_cases hx : x ∈ R.committedSlots i c m
      · have hgone : (X.committedBy i c m).pool.use x = .free ∨ (X.committedBy i c m).pool.use x = .retired := by
          have := hg.each x hx
          split_ifs at this
          · exact .inl this.1
          · exact .inr this.1
        have hnever := hassigned x hx
        rcases hgone with hgone | hgone <;> simp [hgone, hnever]
      · rw [(hg.others x hx).1]
    have hgiven : R.committedSlots i c (m + 1) = R.committedSlots i c m ++ [slot] := by
      simp [State.committedSlots, List.range_succ, List.filterMap_append, hslot]
    have hnew : slot ∉ R.committedSlots i c m := fun hmem => hassigned slot hmem huse
    have hlive : R.pool.use slot ≠ .retired := by simp [huse]
    obtain ⟨more, hg'⟩ := hg.afterStep hnew hlive hstill (c.advanced (m + 1))
    exact ⟨_, hgiven ▸ hg'⟩

end

end Sys2Proof.Machine
end

section
/-! # A pattern chunk compared (O35) -/

namespace Sys2Proof.Machine

/-! ## Ordered commit (R133, R134) -/

/-- The chunks that an event commits: none with the head chunk not STORED, or the row from the head on. -/
def Context.CommitsAll (c : Context) (n : Nat) : Prop := (n = 0 ∧ c.headStored = false) ∨ c.CommitsRow n

/-- STREAM_FINISHED of a stream that its commits bring to F. -/
def State.tellFinish (X : State) (i : StreamIndex) (c : Context) (n : Nat) : State :=
  if c.finishes n then X.raise (.streamFinished i c.tag (c.committing n).committed) else X

section
variable (X : State) (i : StreamIndex) (c : Context) (n : Nat)

@[simp] theorem State.tellFinish_table : (X.tellFinish i c n).table = X.table := by
  unfold State.tellFinish; split_ifs <;> simp
@[simp] theorem State.tellFinish_lanes : (X.tellFinish i c n).lanes = X.lanes := by
  unfold State.tellFinish; split_ifs <;> simp
@[simp] theorem State.tellFinish_pool : (X.tellFinish i c n).pool = X.pool := by
  unfold State.tellFinish; split_ifs <;> simp
@[simp] theorem State.tellFinish_offered : (X.tellFinish i c n).offered = X.offered := by
  unfold State.tellFinish; split_ifs <;> simp
@[simp] theorem State.tellFinish_verifyQueue : (X.tellFinish i c n).verifyQueue = X.verifyQueue := by
  unfold State.tellFinish; split_ifs <;> simp
@[simp] theorem State.counter_tellFinish {k : Counter} (h : k ≠ .eventsLost) :
    (X.tellFinish i c n).counter k = X.counter k := by
  unfold State.tellFinish; split_ifs <;> simp [h]

end

section
variable {c : Context} {n : Nat}

theorem Context.finishes_iff (h : 1 ≤ n) :
    c.finishes n = true ↔ c.state.receiving = true ∧ c.final = some (c.advanced n).committed := by
  rw [Context.finishes, Bool.and_eq_true, Bool.and_eq_true, decide_eq_true_eq, decide_eq_true_eq]
  exact ⟨fun ⟨⟨_, hr⟩, hf⟩ => ⟨hr, hf⟩, fun ⟨hr, hf⟩ => ⟨⟨h, hr⟩, hf⟩⟩

/-- `Context.committing` from the context after the steps. -/
theorem Context.committing_eq : c.committing n = Context.flagsTested { c.advanced n with
    state := if c.finishes n then .complete else c.state
    notices := if c.finishes n then { c.notices with resync := false, gaps := [], commit := true, ended := true }
      else { c.notices with commit := c.notices.commit || decide (1 ≤ n) } } := rfl

theorem Context.committing_zero : c.committing 0 = c.flagsTested := by
  have hfinishes : c.finishes 0 = false := rfl
  rw [Context.committing_eq, Context.advanced_zero, hfinishes]
  simp

theorem Context.committing_finishes (h : c.finishes n = true) : c.committing n = Context.flagsTested
    { ((c.advanced n).notify .addCommit).notify fun k => k.dropRequests.addEnd with state := .complete } := by
  rw [Context.committing_eq, h]
  rfl

theorem Context.committing_goesOn (hn : 1 ≤ n) (h : c.finishes n = false) :
    c.committing n = ((c.advanced n).notify .addCommit).flagsTested := by
  rw [Context.committing_eq, h]
  simp only [Bool.false_eq_true, if_false, hn, decide_true, Bool.or_true]
  rfl

/-- A stream in OPEN, HOLD or ABORTED with its commits done and its flags tested. -/
theorem State.orderedCommit_settled (X : State) (i : StreamIndex) (hst : c.state.receiving = true ∨ c.state = .aborted)
    (h : c.CommitsAll n) : ((X.setCtx i c).orderedCommit i).settle i =
      ((X.committedBy i c n).tellFinish i c n).setCtx i (c.committing n) := by
  have hstate : c.state ≠ .salvaging ∧ c.state ≠ .releasing := by
    rw [StreamState.receiving_iff] at hst
    rcases hst with (h | h) | h <;> simp [h]
  rcases h with ⟨rfl, hhead⟩ | h
  · have hcommit : (X.setCtx i c).orderedCommit i = X.setCtx i c := by
      rw [State.orderedCommit, State.ctx?_setCtx_self]
      dsimp only
      rw [hhead]
      exact if_neg Bool.false_ne_true
    rw [hcommit, X.settle_live i hstate.1 hstate.2, Context.committing_zero]
    rfl
  · have hstored : c.headStored = true := by
      have := h.headStored (j := 0) h.pos
      rwa [Context.advanced_zero] at this
    have hcommit : (X.setCtx i c).orderedCommit i = (((X.committedBy i c n).setCtx i
        ((c.advanced n).notify .addCommit))).testComplete i := by
      rw [State.orderedCommit, State.ctx?_setCtx_self]
      dsimp only
      rw [if_pos (by rcases hst with hst | hst <;> simp [hstored, hst]), h.commitSteps, State.modifyCtx_setCtx]
    have hcond : (((c.advanced n).notify .addCommit).state.receiving = true ∧
        ((c.advanced n).notify .addCommit).final = some ((c.advanced n).notify .addCommit).committed) ↔
        c.finishes n = true :=
      (Context.finishes_iff (c := c) h.pos).symm
    rw [hcommit, State.testComplete, State.ctx?_setCtx_self]
    dsimp only
    rw [State.tellFinish]
    by_cases hf : c.finishes n = true
    · rw [if_pos (hcond.mpr hf), if_pos hf, Context.committing_finishes hf, State.completeStream, State.modifyCtx_setCtx, State.raise_setCtx]
      exact State.settle_live _ _ (by simp) (by simp)
    · rw [if_neg (fun h => hf (hcond.mp h)), if_neg hf, Context.committing_goesOn h.pos (Bool.eq_false_iff.mpr hf)]
      exact State.settle_live _ _ hstate.1 hstate.2

end

/-! ## The comparison (R103, R109) -/

/-- The context after a comparison, before its commits. -/
def Context.comparedAt (c : Context) (pos : Nat) (r : ChunkRecord) (wrong : Nat) : Context :=
  { c with
    state := if c.state = .hold then .opened else c.state
    history := if c.state = .hold then [] else if c.state = .opened
      then (c.history ++ [Verdict.pass]).drop (c.history.length - 7) else c.history
    holdFailures := if c.state = .hold then 0 else c.holdFailures
    counts := { c.counts with patternErrors := min (c.counts.patternErrors + wrong) 4294967295 }
    window := c.window.set pos { r with state := .stored } }

section
variable {s : State} {o : EngineOp} {c : Context} {r : ChunkRecord} {n : Nat}

theorem Context.comparedAt_state (pos : Nat) (wrong : Nat) (hst : c.state.receiving = true ∨ c.state = .aborted) :
    (c.comparedAt pos r wrong).state.receiving = c.state.receiving ∧
      ((c.comparedAt pos r wrong).state.receiving = true ∨ (c.comparedAt pos r wrong).state = .aborted) := by
  rw [StreamState.receiving_iff] at hst
  rcases hst with (h | h) | h <;> simp [Context.comparedAt, h, StreamState.receiving]

/-- The chunks that the comparison lets commit, as the stream's new context names them. -/
theorem Context.comparedAt_commitsAll {i : StreamIndex} {pos : Nat} (hr : c.window[pos]? = some r)
    (h : s.Commits i c pos n) (wrong : Nat) : (c.comparedAt pos r wrong).CommitsAll n := by
  have hlen := (List.getElem?_eq_some_iff.mp hr).1
  have hself : (c.window.set pos { r with state := .stored })[pos]? = some { r with state := .stored } :=
    List.getElem?_set_self hlen
  rcases h with ⟨hn, hpos, hhead⟩ | ⟨rfl, hpos, hle, -, hrow, hstops, hwithin⟩
  · refine .inl ⟨hn, ?_⟩
    rw [← hhead]
    show (match (c.window.set pos { r with state := .stored })[c.posOf c.head]? with | some r => decide (r.state = ChunkState.stored) | none => false) = _
    rw [List.getElem?_set_ne hpos]
    rfl
  · have hother : ∀ j, 1 ≤ j → j < c.w → (c.window.set (c.posOf c.head) { r with state := .stored })[c.posOf (c.head + j)]? =
        c.window[c.posOf (c.head + j)]? := fun j h1 hj =>
      List.getElem?_set_ne fun e => absurd (Context.posOf_injective (j := 0) (by omega) hj e) (by omega)
    refine .inr ⟨hpos, hle, fun j hj => ?_, fun hlt x hx => hstops x hlt ?_, hwithin⟩
    · obtain ⟨x, hx, hslot, -, hstored⟩ := hrow j hj
      rcases Nat.eq_zero_or_pos j with rfl | h1
      · obtain rfl : r = x := Option.some.inj (hr.symm.trans hx)
        exact ⟨_, hself, rfl, hslot⟩
      · exact ⟨x, (hother j h1 (by omega)).trans hx, hstored h1, hslot⟩
    · exact (hother n hpos hlt).symm.trans hx

/-- The event up to its watermark test. -/
theorem State.completed_compared (hp : o.pattern = true) (hst : c.state.receiving = true ∨ c.state = .aborted)
    (hr : c.window[o.pos]? = some r) (h : s.Commits o.stream c o.pos n) :
    let base := c.comparedAt o.pos r (s.wrongBytes o)
    s.completed o c = ((((s.afterRead o).tellResume o.stream c).committedBy o.stream base n).tellFinish o.stream base n).setCtx
      o.stream (base.committing n) := by
  intro base
  rw [← State.orderedCommit_settled _ _ (Context.comparedAt_state _ _ hst).2 (Context.comparedAt_commitsAll hr h _),
    State.completed, State.verification_pattern s hp]
  congr 1
  rcases hst with hrecv | habort
  · rw [State.applyOutcome_receiving _ _ _ _ hrecv, State.outcomeReceiving, State.comparedReceiving, State.modifyCtx_setCtx,
      State.resume_setCtx _ _ (by rfl), Context.modifyChunk_of_getElem? hr]
    congr 2
    rcases c.state.receiving_iff.mp hrecv with hc | hc <;>
      simp [Context.resumed, Context.comparedAt, hc, Context.recordVerdict, Context.addPatternErrors, Context.count, satAdd,
        ChunkRecord.passed, Config.countMax, Config.historyLimit]
  · rw [State.applyOutcome_stopped _ _ _ _ (.inl habort), State.outcomeStopped, State.modifyCtx_setCtx,
      Context.modifyChunk_of_getElem? hr, State.tellResume, if_neg (by simp [habort])]
    congr 2
    simp [Context.comparedAt, habort, Context.addPatternErrors, Context.count, satAdd, ChunkRecord.passed, Config.countMax]

end

end Sys2Proof.Machine
end

section
/-! # The comparison's slots, its head reserve and its records (O35) -/

namespace Sys2Proof.Machine

/-- The slots that commit steps name depend on the uses of the slots, the head and W. -/
theorem State.committedSlots_congr {s t : State} {c d : Context} (hp : t.pool.uses = s.pool.uses)
    (hcommitted : d.committed = c.committed) (hw : d.w = c.w) (i : StreamIndex) (n : Nat) :
    t.committedSlots i d n = s.committedSlots i c n := by
  have hpos : ∀ j, d.posOf (d.head + j) = c.posOf (c.head + j) := fun j => by
    rw [Context.posOf, Context.posOf, Context.head, Context.head, hcommitted, hw]
  have hof : ∀ pos, t.pool.slotOf i pos = s.pool.slotOf i pos := fun pos => by rw [Pool.slotOf, Pool.slotOf, hp]
  simp only [State.committedSlots, hpos, hof]

section
variable {s X : State} {o : EngineOp} {i : StreamIndex} {c : Context} {r : ChunkRecord} {n : Nat}

/-- The row's chunks have slots recorded for them. -/
theorem State.Commits.slots {pos : Nat} (h : s.Commits i c pos n) {j : Nat} (hj : j < n) :
    (s.pool.slotOf i (c.posOf (c.head + j))).isSome = true := by
  rcases h with ⟨rfl, -, -⟩ | ⟨-, -, -, -, hrow, -, -⟩
  · exact absurd hj (Nat.not_lt_zero _)
  · obtain ⟨x, -, hslot, hof, -⟩ := hrow j hj
    rw [hof]; exact hslot

/-- The slots given up between the report of the read and the end of the commits. -/
theorem State.compared_gaveUp (hcan : CanonicalForm s) (hr : c.window[o.pos]? = some r)
    (h : s.Commits o.stream c o.pos n) (hpool : X.pool = (s.afterRead o).pool)
    (hcounter : X.counter .retiredSlots = (s.afterRead o).counter .retiredSlots) (wrong : Nat) :
    ∃ freed, GaveUp (s.readBy o) (X.committedBy o.stream (c.comparedAt o.pos r wrong) n)
      (s.committedSlots o.stream c n) freed none := by
  have hX : GaveUp (s.readBy o) X [] [] none := (State.afterRead_gaveUp hcan).congr rfl rfl hpool hcounter
  have hslots : (s.readBy o).committedSlots o.stream (c.comparedAt o.pos r wrong) n = s.committedSlots o.stream c n :=
    State.committedSlots_congr (s.readBy_uses o) (by rfl) (by rfl) _ _
  rcases Context.comparedAt_commitsAll hr h wrong with ⟨rfl, -⟩ | hrow
  · exact ⟨[], hX⟩
  · rw [← hslots]
    refine hrow.gaveUp (by rw [State.readBy_uses]; exact hcan.2.2.2.1) (fun j hj => ?_) hX le_rfl
    rw [Pool.slotOf, State.readBy_uses]
    exact h.slots hj

theorem Context.CommitsAll.reserve (h : c.CommitsAll n) (X : State) (i : StreamIndex) :
    (X.committedBy i c n).pool.reserve =
      if (decide (1 ≤ n) && c.state.receiving && !c.finishes n && (c.committing n).headSlotless) = true
        then X.pool.reserve + 1 else X.pool.reserve := by
  rcases h with ⟨rfl, -⟩ | h
  · rfl
  · rw [h.reserve X i]
    have hpos := h.pos
    have hslotless : (c.committing n).headSlotless = (c.advanced n).headSlotless := rfl
    have hfinishes : c.finishes n = (c.state.receiving && decide (c.final = some (c.advanced n).committed)) := by
      rw [Bool.eq_iff_iff, Context.finishes_iff hpos, Bool.and_eq_true, decide_eq_true_eq]
    rw [hslotless, hfinishes]
    cases c.state.receiving <;> simp [hpos]

end

/-! ## The records of the event -/

/-- Two states in which the Event Generator finds the same: what one raises in both goes to the same place. -/
structure SaysAs (s t : State) : Prop where
  events : t.events = s.events
  errors : t.errors = s.errors
  time : t.time = s.time
  settings : t.settings = s.settings

theorem SaysAs.raise {s t : State} (h : SaysAs s t) (e : Event) : SaysAs (s.raise e) (t.raise e) where
  events := State.raise_events_congr h.events h.time h.settings e
  errors := State.raise_errors_congr h.events h.errors h.settings e
  time := by rw [State.raise_time, State.raise_time, h.time]
  settings := by rw [State.raise_settings, State.raise_settings, h.settings]

theorem SaysAs.tellResume {s t : State} (h : SaysAs s t) (i : StreamIndex) (c : Context) :
    SaysAs (s.tellResume i c) (t.tellResume i c) := by
  unfold State.tellResume
  split_ifs
  · exact h.raise _
  · exact h

theorem SaysAs.tellFinish {s t : State} (h : SaysAs s t) (i : StreamIndex) (c : Context) (n : Nat) :
    SaysAs (s.tellFinish i c n) (t.tellFinish i c n) := by
  unfold State.tellFinish
  split_ifs
  · exact h.raise _
  · exact h

theorem SaysAs.committedBy {s t : State} (h : SaysAs s t) (i : StreamIndex) (c : Context) (n : Nat) :
    SaysAs s (t.committedBy i c n) :=
  ⟨by rw [State.committedBy_events, h.events], by rw [State.committedBy_errors, h.errors],
    by rw [State.committedBy_time, h.time], by rw [State.committedBy_settings, h.settings]⟩

theorem SaysAs.afterRead (s : State) (o : EngineOp) : SaysAs (s.readBy o) (s.afterRead o) :=
  ⟨s.afterRead_events o, s.afterRead_errors o, by rw [State.afterRead_time, State.readBy_time],
    by rw [State.afterRead_settings, State.readBy_settings]⟩

/-- Free list, uses, marks and head reserve changed after the marks: the rest of the pool is as it was. -/
theorem Pool.frame_trans_reserve {p q u : Pool}
    (hu : u = { q with freeList := u.freeList, uses := u.uses, marks := u.marks, reserve := u.reserve })
    (hq : q = { p with uses := q.uses, marks := q.marks }) :
    u = { p with freeList := u.freeList, uses := u.uses, marks := u.marks, reserve := u.reserve } := by
  rw [hq] at hu
  exact hu

theorem State.committedBy_pool (X : State) (i : StreamIndex) (c : Context) (n : Nat) : (X.committedBy i c n).pool =
    { X.pool with freeList := (X.committedBy i c n).pool.freeList, uses := (X.committedBy i c n).pool.uses,
                  marks := (X.committedBy i c n).pool.marks, reserve := (X.committedBy i c n).pool.reserve } :=
  congrArg State.pool (X.committedBy_eq i c n)

/-- Settles O35: the comparison, the commits it lets follow, the flags' tests. -/
theorem patternChunkIsCompared : Obligations.PatternChunkIsCompared := by
  intro s o c r n he hp hs hcan hc hst hr hcommits i wrong read base d told said
  have hbase : base = c.comparedAt o.pos r wrong := rfl
  have hall : base.CommitsAll n := Context.comparedAt_commitsAll hr hcommits wrong
  have hreceiving : base.state.receiving = c.state.receiving := (Context.comparedAt_state o.pos wrong hst).1
  have hnew := fun k => State.counter_afterRead_compared (State.verification_pattern s hp) (k := k)
  let X := (s.afterRead o).tellResume i c
  let Y := (X.committedBy i base n).tellFinish i base n
  have hu : s.completed o c = Y.setCtx i d := State.completed_compared hp hst hr hcommits
  obtain ⟨freed, hgave⟩ := State.compared_gaveUp (X := X) hcan hr hcommits (State.tellResume_pool _ _ _)
    (State.counter_tellResume _ _ _ (by simp)) wrong
  rw [← hbase] at hgave
  have hsays : SaysAs said Y := (((SaysAs.afterRead s o).tellResume i c).committedBy i base n).tellFinish i base n
  clear_value base
  obtain ⟨hexec, hengine, hothers, hholds, hrest⟩ := State.completed_spec he hs hc hu (by simp [Y, X]) (by simp [Y, X])
  have hpool : Y.pool = (X.committedBy i base n).pool := State.tellFinish_pool _ _ _ _
  have hcounter : ∀ k, k ≠ .eventsLost → (Y.setCtx i d).counter k = (X.committedBy i base n).counter k := fun k hk =>
    (State.counter_setCtx _ _ _ _).trans (State.counter_tellFinish _ _ _ _ hk)
  have hread : ∀ k, k ≠ .eventsLost → k ≠ .retiredSlots → k ≠ .chunksCommitted →
      (Y.setCtx i d).counter k = (s.afterRead o).counter k := by
    intro k hk hk' hk''
    rw [hcounter k hk, State.counter_committedBy _ _ _ _ hk' hk'', State.counter_tellResume _ _ _ hk]
  have hcommitted : (Y.setCtx i d).counter .chunksCommitted =
      Nat.iterate (fun x : Count => x.add 1) n (s.counter .chunksCommitted) := by
    rw [hcounter _ (by simp), State.chunksCommitted_committedBy, State.counter_tellResume _ _ _ (by simp), hnew _ (by simp)]
    simp
  have hX : X.pool = (s.readBy o).pool := (State.tellResume_pool _ _ _).trans (s.afterRead_pool o)
  obtain ⟨-, hreserve, -, -⟩ := s.readBy_figures o
  have hframe := Pool.frame_trans_reserve (X.committedBy_pool i base n)
    ((State.tellResume_pool _ _ _).symm ▸ State.afterRead_pool_eq)
  rw [← hpool] at hframe
  refine ⟨Y.setCtx i d, hexec, hengine, hothers, hholds, ?_, ?_, ?_, ?_, ?_, ?_, hcommitted, ?_, ?_, ?_⟩
  · exact (hgave.congr rfl rfl ((State.setCtx_pool _ _ _).trans hpool) (hcounter _ (by simp))).slotsGivenUp
  · exact (State.setCtx_events _ _ _).trans hsays.events
  · exact (State.setCtx_errors _ _ _).trans hsays.errors
  · rw [State.setCtx_pool, hpool, hall.reserve X i, hreceiving, hX, hreserve]
  · rw [hread _ (by simp) (by simp) (by simp), hnew _ (by simp), if_pos rfl]
  · rw [hread _ (by simp) (by simp) (by simp), hnew _ (by simp), if_neg (by simp), if_pos rfl]
  · rw [hread _ (by simp) (by simp) (by simp), hnew _ (by simp)]
    simp
  · intro k hk
    simp only [List.mem_cons, not_or] at hk
    rw [hread _ (by simp [hk]) (by simp [hk]) (by simp [hk]), hnew _ (by simp [hk])]
    simp [hk]
  · refine hrest.trans ?_
    rw [State.setCtx_pool, State.setCtx_offered, State.setCtx_verifyQueue, State.tellFinish_offered,
      State.tellFinish_verifyQueue, State.committedBy_offered, State.committedBy_verifyQueue, State.tellResume_offered,
      State.tellResume_verifyQueue, State.afterRead_offered, State.afterRead_verifyQueue, hengine, ← hframe]

end Sys2Proof.Machine
end

section
/-! # What no command takes away (R13, R16, R17, R33, R61, R133)

One relation for what every operation does to the sparse stores and to the streams: canonical stores stay canonical, an
entry with good parity keeps it, and a live context comes from a live one whose progress it continues. Each operation of
the model has one lemma, in the order of the model's files. -/

namespace Sys2Proof.Machine

/-! ## The progress of one stream -/

/-- The fields of a context in which its progress is read, the committed offset and the capacity last. -/
def Context.course (c : Context) :
    Nat × Nat × Nat × Nat × Bool × Nat × Nat × Option Nat × Nat × Nat :=
  (c.tag, c.w, c.b, c.t, c.pattern, c.target, c.base, c.final, c.cap, c.committed)

/-- `d` continues the stream of `c`: it is the same stream with the same parameters, and no step back. That the committed
offset does not fall rests on its alignment, which is kept. -/
structure Context.Continues (c d : Context) : Prop where
  tag : d.tag = c.tag
  w : d.w = c.w
  b : d.b = c.b
  t : d.t = c.t
  pattern : d.pattern = c.pattern
  target : d.target = c.target
  base : d.base = c.base
  cap : c.cap ≤ d.cap
  final : ∀ f, c.final = some f → d.final = some f
  aligned : c.Aligned → d.Aligned
  committed : c.Aligned → c.committed ≤ d.committed

theorem Context.Continues.trans {c d e : Context} (h : c.Continues d) (g : d.Continues e) : c.Continues e where
  tag := g.tag.trans h.tag
  w := g.w.trans h.w
  b := g.b.trans h.b
  t := g.t.trans h.t
  pattern := g.pattern.trans h.pattern
  target := g.target.trans h.target
  base := g.base.trans h.base
  cap := h.cap.trans g.cap
  final f hf := g.final f (h.final f hf)
  aligned a := g.aligned (h.aligned a)
  committed a := (h.committed a).trans (g.committed (h.aligned a))

/-- A context whose course is untouched continues the stream. -/
theorem Context.Continues.of_course {c d : Context} (h : d.course = c.course) : c.Continues d := by
  simp only [Context.course, Prod.mk.injEq] at h
  obtain ⟨htag, hw, hb, ht, hpattern, htarget, hbase, hfinal, hcap, hcommitted⟩ := h
  exact ⟨htag, hw, hb, ht, hpattern, htarget, hbase, hcap.ge, fun _ hf => hfinal.trans hf,
    fun a => by rwa [Context.Aligned, hcommitted, hfinal], fun _ => hcommitted.ge⟩

theorem Context.Continues.refl (c : Context) : c.Continues c := .of_course (by rfl)

/-- A capacity that does not shrink (R30). -/
theorem Context.Continues.of_cap {c d : Context} (h : d.course = { c with cap := d.cap }.course) (hcap : c.cap ≤ d.cap) :
    c.Continues d := by
  have g := Context.Continues.of_course h
  exact { g with cap := hcap }

/-- A final end that was not known (R61). -/
theorem Context.Continues.setFinal {c : Context} (h : c.final = none) (f : Nat) :
    c.Continues { c with final := some f } where
  tag := rfl
  w := rfl
  b := rfl
  t := rfl
  pattern := rfl
  target := rfl
  base := rfl
  cap := le_rfl
  final g hg := by rw [h] at hg; exact absurd hg (by simp)
  aligned a := .inl (a.resolve_right (by rw [h]; simp))
  committed _ := le_rfl

/-- A commit step ends a chunk further, or at F (R133). -/
theorem Context.continues_afterCommit (c : Context) : c.Continues c.afterCommit := by
  have hnext : c.Aligned → c.committed ≤ c.nextCommitted ∧
      (c.nextCommitted % 65536 = 0 ∨ c.final = some c.nextCommitted) := by
    intro a
    simp only [Context.Aligned, Config.chunkSize] at a
    unfold Context.nextCommitted
    cases hf : c.final with
    | none =>
      simp only [hf, reduceCtorEq, or_false] at a
      simp only [Config.chunkSize]
      omega
    | some f =>
      simp only [hf, Option.some.injEq] at a
      by_cases hlast : 0 < f ∧ c.head = finalIndex f
      · simp only [if_pos hlast, or_true, and_true]
        simp only [Context.head, finalIndex, Config.chunkSize] at hlast
        omega
      · simp only [if_neg hlast, Option.some.injEq]
        simp only [Context.head, finalIndex, Config.chunkSize] at hlast ⊢
        omega
  exact ⟨rfl, rfl, rfl, rfl, rfl, rfl, rfl, le_rfl, fun _ h => h, fun a => (hnext a).2, fun a => (hnext a).1⟩

/-! ## The relation -/

/-- The sparse stores other than the table are in canonical form. -/
def State.StoresWF (s : State) : Prop :=
  Memory.wf s.buffer ∧ CellsWF .sound s.words ∧ CellsWF .free s.pool.uses ∧ CellsWF false s.pool.marks

theorem canonicalForm_iff (s : State) : CanonicalForm s ↔ s.TableWF ∧ s.StoresWF := by
  unfold CanonicalForm State.StoresWF
  tauto

/-- What every operation keeps, from `s` to `t`. -/
structure Evolves (s t : State) : Prop where
  table : s.TableWF → t.TableWF
  stores : s.StoresWF → t.StoresWF
  parity : s.TableWF → ∀ i, (s.entry i).parityGood = true → (t.entry i).parityGood = true
  streams : s.TableWF → ∀ i d, t.ctx? i = some d → ∃ c, s.ctx? i = some c ∧ c.Continues d

theorem Evolves.trans {s t u : State} (h : Evolves s t) (g : Evolves t u) : Evolves s u where
  table w := g.table (h.table w)
  stores w := g.stores (h.stores w)
  parity w i hi := g.parity (h.table w) i (h.parity w i hi)
  streams w i e he := by
    obtain ⟨d, hd, hde⟩ := g.streams (h.table w) i e he
    obtain ⟨c, hc, hcd⟩ := h.streams w i d hd
    exact ⟨c, hc, hcd.trans hde⟩

/-- The sparse stores and the table, which are all that the relation speaks of. -/
def State.sparse (s : State) :
    List (StreamIndex × Entry) × List Host.Cell × List (Nat × WordCondition) × List (Slot × SlotUse) ×
      List (Slot × Bool) :=
  (s.table, s.buffer, s.words, s.pool.uses, s.pool.marks)

/-- Where the table is as it was, only the other stores are in question. -/
theorem Evolves.of_table {s t : State} (h : t.table = s.table) (hs : s.StoresWF → t.StoresWF) : Evolves s t where
  table w := by rw [State.TableWF, h]; exact w
  stores := hs
  parity _ i hi := by rw [State.entry, h]; exact hi
  streams _ i d hd := by rw [State.ctx?, State.entry, h] at hd; exact ⟨d, hd, .refl d⟩

theorem Evolves.of_sparse {s t : State} (h : t.sparse = s.sparse) : Evolves s t := by
  simp only [State.sparse, Prod.mk.injEq] at h
  obtain ⟨htable, hbuffer, hwords, huses, hmarks⟩ := h
  exact .of_table htable fun w => by rw [State.StoresWF, hbuffer, hwords, huses, hmarks]; exact w

theorem Evolves.refl (s : State) : Evolves s s := .of_sparse (by rfl)

/-! ## Elementary updates -/

/-- An entry with good parity is written that is FREE or continues the stream that was there. -/
theorem State.setEntry_evolves {s : State} {i : StreamIndex} {e : Entry} (hgood : e.parityGood = true)
    (h : ∀ d, e.ctx = some d → ∃ c, s.ctx? i = some c ∧ c.Continues d) : Evolves s (s.setEntry i e) where
  table w := State.setEntry_tableWF w i e
  stores w := w
  parity w j hj := by
    rw [State.entry_setEntry w]
    split_ifs
    · exact hgood
    · exact hj
  streams w j d hd := by
    rw [State.ctx?, State.entry_setEntry w] at hd
    split_ifs at hd with hj
    · rw [hj]; exact h d hd
    · exact ⟨d, hd, .refl d⟩

theorem State.freeEntry_evolves (s : State) (i : StreamIndex) : Evolves s (s.freeEntry i) :=
  State.setEntry_evolves rfl fun d hd => absurd hd (by simp [Entry.free])

theorem State.setCtx_evolves {s : State} {i : StreamIndex} {c d : Context} (hc : s.ctx? i = some c)
    (h : c.Continues d) : Evolves s (s.setCtx i d) :=
  State.setEntry_evolves rfl fun e he => ⟨c, hc, by rw [← Option.some.inj he]; exact h⟩

theorem State.modifyCtx_evolves (s : State) (i : StreamIndex) {f : Context → Context}
    (h : ∀ c, s.ctx? i = some c → c.Continues (f c)) : Evolves s (s.modifyCtx i f) := by
  unfold State.modifyCtx
  split
  · rename_i c hc
    exact State.setCtx_evolves hc (h c hc)
  · exact .refl s

/-- A change of a context that leaves its course alone. -/
theorem State.adjustCtx_evolves (s : State) (i : StreamIndex) {f : Context → Context}
    (h : ∀ c, (f c).course = c.course) : Evolves s (s.modifyCtx i f) :=
  s.modifyCtx_evolves i fun c _ => .of_course (h c)

theorem State.modifyChunk_evolves (s : State) (i : StreamIndex) (pos : Nat) (f : ChunkRecord → ChunkRecord) :
    Evolves s (s.modifyChunk i pos f) := s.adjustCtx_evolves i fun _ => by rfl

theorem State.modifyChunks_evolves (i : StreamIndex) (f : ChunkRecord → ChunkRecord) (ps : List Nat) :
    ∀ s : State, Evolves s (ps.foldl (fun t p => t.modifyChunk i p f) s) := by
  induction ps with
  | nil => exact .refl
  | cons p rest ih => exact fun s => (s.modifyChunk_evolves _ _ _).trans (ih _)

theorem State.raise_evolves (s : State) (e : Event) : Evolves s (s.raise e) := .of_sparse (by simp [State.sparse])

theorem State.count_evolves (s : State) (k : Counter) (n : Nat) : Evolves s (s.count k n) := .of_sparse (by rfl)

theorem State.countDrop_evolves (s : State) (r : DropReason) : Evolves s (s.countDrop r) := .of_sparse (by rfl)

theorem State.raiseReserve_evolves (s : State) (n : Nat) : Evolves s (s.raiseReserve n) := .of_sparse (by rfl)

theorem State.lowerReserve_evolves (s : State) : Evolves s s.lowerReserve := .of_sparse (by rfl)

theorem State.modifyLane_evolves (s : State) (l : LaneId) (f : Lane → Lane) : Evolves s (s.modifyLane l f) :=
  .of_sparse (by rfl)

theorem State.setQueue_evolves (s : State) (q : List ChunkName) : Evolves s { s with verifyQueue := q } :=
  .of_sparse (by rfl)

theorem State.setDrain_evolves (s : State) (m : List DrainRecord) (o : List Offer) :
    Evolves s { s with drainMap := m, offered := o } := .of_sparse (by rfl)

theorem State.poolTest_evolves (s : State) : Evolves s s.poolTest := by
  unfold State.poolTest
  dsimp only
  split_ifs
  · exact .of_sparse (by simp [State.sparse])
  · exact .refl s

/-! ## The Slot Pool -/

/-- The table, the buffer and the ECC conditions stand; the uses and marks of the slots stay canonical. -/
theorem Evolves.of_pool {s t : State} (htable : t.table = s.table) (hbuffer : t.buffer = s.buffer)
    (hwords : t.words = s.words) (huses : CellsWF .free s.pool.uses → CellsWF .free t.pool.uses)
    (hmarks : CellsWF false s.pool.marks → CellsWF false t.pool.marks) : Evolves s t :=
  .of_table htable fun ⟨b, w, u, m⟩ => ⟨hbuffer ▸ b, hwords ▸ w, huses u, hmarks m⟩

theorem State.retireSlot_evolves (s : State) (slot : Slot) : Evolves s (s.retireSlot slot) :=
  .of_pool rfl rfl rfl (fun u => cellPut_wf u _ _) id

theorem State.giveUp_evolves (s : State) (slot : Slot) (force : Bool) : Evolves s (s.giveUp slot force) := by
  unfold State.giveUp
  split_ifs
  · exact s.retireSlot_evolves slot
  · exact .of_pool rfl rfl rfl (fun u => cellPut_wf u _ _) fun m => cellPut_wf m _ _

theorem State.giveUpAt_evolves (s : State) (i : StreamIndex) (pos : Nat) (force : Bool) :
    Evolves s (s.giveUpAt i pos force) := by
  unfold State.giveUpAt
  split
  · exact s.giveUp_evolves _ _
  · exact .refl s

theorem State.giveUpAll_evolves (forced : Option Nat) (l : List (Slot × Nat)) :
    ∀ s : State, Evolves s (s.giveUpAll forced l) := by
  induction l with
  | nil => exact .refl
  | cons x rest ih => exact fun s => (s.giveUp_evolves _ _).trans (ih _)

theorem State.retireFromChunk_evolves (s : State) (i : StreamIndex) (pos : Nat) :
    Evolves s (s.retireFromChunk i pos) := by
  unfold State.retireFromChunk
  split
  · exact .refl s
  · rename_i slot _
    generalize hrise : (if s.isReceivingHead i pos = true then 1 else 0) = rise
    dsimp only
    split_ifs
    · exact ((s.retireSlot_evolves slot).trans (State.adjustCtx_evolves _ i fun _ => by rfl)).trans
        (State.raiseReserve_evolves _ _)
    · exact .refl s

theorem State.retireGiven_evolves (s : State) (i : StreamIndex) (r : Option Nat) : Evolves s (s.retireGiven i r) := by
  cases r
  · exact .refl s
  · exact s.retireFromChunk_evolves i _

/-- A grant records the slot's use (R83). -/
theorem State.request_evolves {s : State} {i : StreamIndex} {pos : Nat} {head : Bool} {g : Slot × Pool}
    (h : s.pool.request i pos head = some g) : Evolves s { s with pool := g.2 } := by
  have hassign : ∀ {x : Slot × Pool}, s.pool.assign i pos = some x →
      x.2.marks = s.pool.marks ∧ (CellsWF .free s.pool.uses → CellsWF .free x.2.uses) := by
    intro x hx
    unfold Pool.assign at hx
    split at hx
    · exact absurd hx (by simp)
    · rw [← Option.some.inj hx]
      exact ⟨rfl, fun u => cellPut_wf u _ _⟩
  have hg : g.2.marks = s.pool.marks ∧ (CellsWF .free s.pool.uses → CellsWF .free g.2.uses) := by
    unfold Pool.request at h
    split_ifs at h
    · obtain ⟨x, hx, hxg⟩ := Option.map_eq_some_iff.mp h
      rw [← hxg]
      exact hassign (x := x) hx
    · exact hassign h
  exact .of_pool rfl rfl rfl hg.2 fun m => hg.1 ▸ m

/-! ## The chunk buffer -/

theorem State.reportRead_evolves (s : State) (slot : Slot) (ws : List Nat) (i : StreamIndex) (k : Nat) :
    Evolves s (s.reportRead slot ws i k) := by
  unfold State.reportRead
  dsimp only
  split_ifs
  · exact .of_sparse (by rfl)
  · refine Evolves.trans (t := { s with pool := s.pool.setMark slot }) ?_ ?_
    · exact .of_pool rfl rfl rfl id fun m => cellPut_wf m _ _
    · exact .of_sparse (by simp [State.sparse])

theorem State.setCondition_evolves (s : State) (slot : Slot) (w : Nat) (c : WordCondition) :
    Evolves s (s.setCondition slot w c) := .of_table rfl fun ⟨b, ws, u⟩ => ⟨b, cellPut_wf ws _ _, u⟩

theorem State.setConditions_evolves (slot : Slot) (f : State → Nat → WordCondition) (ws : List Nat) :
    ∀ s : State, Evolves s (ws.foldl (fun t w => t.setCondition slot w (f t w)) s) := by
  induction ws with
  | nil => exact .refl
  | cons w rest ih => exact fun s => (s.setCondition_evolves _ _ _).trans (ih _)

theorem State.writeByte_evolves (s : State) (slot : Slot) (y : Nat) (b : Byte) : Evolves s (s.writeByte slot y b) :=
  .of_table (by simp) fun ⟨hb, hw⟩ => ⟨State.writeByte_wf hb _ _ _, by simpa using hw⟩

theorem State.writeBytes_evolves (slot : Slot) (f : Nat → Byte) (ys : List Nat) :
    ∀ s : State, Evolves s (ys.foldl (fun t y => t.writeByte slot y (f y)) s) := by
  induction ys with
  | nil => exact .refl
  | cons y rest ih =>
    exact fun s => (s.writeByte_evolves _ _ _).trans (ih _)

theorem State.writePiece_evolves (s : State) (slot : Slot) (piece : Range) (held : List Range) (bytes : List Byte)
    (i : StreamIndex) (k : Nat) : Evolves s (s.writePiece slot piece held bytes i k) :=
  ((s.reportRead_evolves _ _ _ _).trans
    (State.setConditions_evolves slot (fun t w => writtenCondition _ (t.condition slot w)) _ _)).trans
    (State.writeBytes_evolves slot _ _ _)

/-! ## Withdrawal, release, the tests at an event's end -/

theorem State.withdrawOffers_evolves (s : State) (i : StreamIndex) : Evolves s (s.withdrawOffers i) :=
  (State.modifyChunks_evolves i _ _ s).trans (.of_sparse (by rfl))

theorem State.clearQueue_evolves (s : State) (i : StreamIndex) : Evolves s (s.clearQueue i) :=
  (State.modifyChunks_evolves i _ _ s).trans (.of_sparse (by rfl))

theorem State.enterReleasing_evolves (s : State) (i : StreamIndex) (cause : Option Cause) :
    Evolves s (s.enterReleasing i cause) := (s.adjustCtx_evolves i fun _ => by rfl).trans (State.withdrawOffers_evolves _ i)

theorem State.toFree_evolves (s : State) (i : StreamIndex) (c : Context) (forced : Option Nat) :
    Evolves s (s.toFree i c forced) :=
  ((State.giveUpAll_evolves forced _ s).trans (State.raise_evolves _ _)).trans (State.freeEntry_evolves _ i)

theorem State.endInFlight_evolves (s : State) (i : StreamIndex) (pos : Nat) (force : Bool) :
    Evolves s (s.endInFlight i pos force) := by
  unfold State.endInFlight
  refine (s.modifyChunk_evolves i pos ChunkRecord.givenUp).trans ?_
  dsimp only
  split
  · exact .refl _
  · split
    · exact State.giveUpAt_evolves _ _ _ _
    · exact State.toFree_evolves _ _ _ _

theorem State.testFree_evolves (s : State) (i : StreamIndex) : Evolves s (s.testFree i) := by
  unfold State.testFree
  split
  · split_ifs
    · exact s.toFree_evolves _ _ _
    · exact .refl s
  · exact .refl s

theorem State.settle_evolves (s : State) (i : StreamIndex) : Evolves s (s.settle i) := by
  unfold State.settle
  refine (s.adjustCtx_evolves i (f := Context.testDrainFlags) fun _ => by rfl).trans
    (Evolves.trans ?_ (State.testFree_evolves _ i))
  split
  · split_ifs
    · exact State.enterReleasing_evolves _ _ _
    · exact .refl _
  · exact .refl _

theorem State.settleAll_evolves (l : List StreamIndex) : ∀ s : State, Evolves s (s.settleAll l) := by
  induction l with
  | nil => exact .refl
  | cons i rest ih => exact fun s => (s.settle_evolves i).trans (ih _)

/-! ## Parity errors, lookups -/

theorem State.detach_evolves {s : State} {i : StreamIndex} {c : Context} (hc : s.ctx? i = some c) :
    Evolves s (s.detach i c) := by
  unfold State.detach
  refine Evolves.trans ?_ (State.clearQueue_evolves _ i)
  refine Evolves.trans ?_ (State.withdrawOffers_evolves _ i)
  have hcontinues : c.Continues { c with state := .releasing, cause := some .contextError, notices := .none } :=
    .of_course (by rfl)
  refine (State.setCtx_evolves hc hcontinues).trans ?_
  refine .of_sparse ?_
  split_ifs <;> simp [State.sparse, State.noteParity]

theorem State.handleParity_evolves (s : State) (i : StreamIndex) : Evolves s (s.handleParity i) := by
  unfold State.handleParity
  split_ifs
  · exact .refl s
  · split
    · exact (s.freeEntry_evolves i).trans (.of_sparse (by rfl))
    · exact State.detach_evolves ‹_›

theorem State.handleAll_evolves (l : List StreamIndex) : ∀ s : State, Evolves s (s.handleAll l) := by
  induction l with
  | nil => exact .refl
  | cons i rest ih => exact fun s => (s.handleParity_evolves i).trans (ih _)

theorem State.checkParity_evolves (s : State) (i : StreamIndex) : Evolves s (s.checkParity i) := by
  unfold State.checkParity
  split_ifs
  · exact .refl s
  · exact (s.handleParity_evolves i).trans (State.settle_evolves _ i)

theorem State.checkAll_evolves (l : List StreamIndex) : ∀ s : State, Evolves s (s.checkAll l) := by
  induction l with
  | nil => exact .refl
  | cons i rest ih => exact fun s => (s.checkParity_evolves i).trans (ih _)

theorem State.checkRead_evolves (s : State) (read : List StreamIndex) : Evolves s (s.checkRead read) := by
  unfold State.checkRead
  exact State.checkAll_evolves _ s

theorem State.turn_evolves (s : State) (order : List StreamIndex) (serves : StreamIndex → Bool) :
    Evolves s (s.turn order serves).1 := by
  unfold State.turn
  dsimp only
  exact s.checkRead_evolves _

theorem State.lookup_evolves (s : State) (tag : Nat) : Evolves s (s.lookup tag).1 := by
  unfold State.lookup
  dsimp only
  split_ifs
  · split <;> exact .refl s
  · exact (s.checkParity_evolves _).trans (State.checkParity_evolves _ _)

/-- What a lookup finds is an entry as it stands. -/
theorem State.ctx?_of_matchAt {s : State} {tag : Nat} {i : StreamIndex} {x : StreamIndex × Context}
    (h : s.matchAt tag i = some x) : x.1 = i ∧ s.ctx? i = some x.2 ∧ x.2.matchesTag tag = true := by
  unfold State.matchAt at h
  split at h
  · rename_i c hc
    split_ifs at h with hm
    rw [← Option.some.inj h]
    exact ⟨rfl, hc, hm⟩
  · exact absurd h (by simp)

theorem State.ctx?_of_lookup {s : State} {tag : Nat} {i : StreamIndex} {c : Context}
    (h : (s.lookup tag).2 = .found i c) : (s.lookup tag).1.ctx? i = some c := by
  unfold State.lookup at h ⊢
  dsimp only at h ⊢
  split at h
  · split at h
    · rename_i hgood _ x hx
      obtain ⟨rfl, rfl⟩ := Lookup.found.inj h
      rw [if_pos hgood]
      rcases Option.or_eq_some_iff.mp hx with hx | ⟨-, hx⟩
      · obtain ⟨hi, hc, -⟩ := State.ctx?_of_matchAt hx
        rw [hi]; exact hc
      · obtain ⟨hi, hc, -⟩ := State.ctx?_of_matchAt hx
        rw [hi]; exact hc
    · exact absurd h (by simp)
  · exact absurd h (by simp)

/-- A lookup that finds nothing has changed nothing. -/
theorem State.lookup_of_notFound {s : State} {tag : Nat} (h : (s.lookup tag).2 = .notFound) : (s.lookup tag).1 = s := by
  unfold State.lookup at h ⊢
  dsimp only at h ⊢
  split at h
  · rename_i hgood
    rw [if_pos hgood]
    split <;> rfl
  · exact absurd h (by simp)

/-- The way OPEN takes is FREE. -/
theorem State.ctx?_of_freeWay {s : State} {tag : Nat} {i : StreamIndex} (h : s.freeWay tag = some i) :
    s.ctx? i = none := by
  unfold State.freeWay at h
  split_ifs at h with h0 h1
  · rw [← Option.some.inj h]; exact h0
  · rw [← Option.some.inj h]; exact h1

end Sys2Proof.Machine
end

section
/-! # What no command takes away: placement, notices, lanes, the Check Unit, the drain -/

namespace Sys2Proof.Machine

/-! ## Abort and ordered commit -/

theorem State.enterAborted_evolves (s : State) (i : StreamIndex) (cause : Cause) (retiring : Option Nat) :
    Evolves s (s.enterAborted i cause retiring) := by
  unfold State.enterAborted
  split
  · exact .refl s
  · rename_i c _
    dsimp only
    refine Evolves.trans ?_ (State.raise_evolves _ _)
    refine Evolves.trans ?_ (State.adjustCtx_evolves _ _ fun _ => by rfl)
    refine Evolves.trans ?_ (State.clearQueue_evolves _ _)
    refine Evolves.trans ?_ (State.withdrawOffers_evolves _ _)
    refine Evolves.trans ?_ (State.poolTest_evolves _)
    refine Evolves.trans ?_ (State.retireGiven_evolves _ i retiring)
    refine (s.adjustCtx_evolves i (f := fun d => { d with state := .aborted, cause := some cause }) fun _ => by rfl).trans ?_
    split_ifs
    · exact .of_sparse (by rfl)
    · exact .refl _

theorem State.commitStep_evolves {s : State} {i : StreamIndex} {c : Context} (hc : s.ctx? i = some c) :
    Evolves s (s.commitStep i c) := by
  unfold State.commitStep
  dsimp only
  refine (State.setCtx_evolves hc c.continues_afterCommit).trans ?_
  refine Evolves.trans ?_ ((State.giveUpAt_evolves _ i _ false).trans (.of_sparse (by rfl)))
  split_ifs
  · exact .of_sparse (by rfl)
  · exact .refl _

theorem State.commitSteps_evolves (i : StreamIndex) (n : Nat) : ∀ s : State, Evolves s (s.commitSteps i n) := by
  induction n with
  | zero => exact .refl
  | succ n ih =>
    intro s
    unfold State.commitSteps
    split
    · split_ifs
      · exact (State.commitStep_evolves ‹_›).trans (ih _)
      · exact .refl s
    · exact .refl s

theorem State.completeStream_evolves (s : State) (i : StreamIndex) (c : Context) (f : Nat) :
    Evolves s (s.completeStream i c f) := (s.adjustCtx_evolves i fun _ => by rfl).trans (State.raise_evolves _ _)

theorem State.testComplete_evolves (s : State) (i : StreamIndex) : Evolves s (s.testComplete i) := by
  unfold State.testComplete
  split
  · split_ifs
    · exact State.completeStream_evolves _ _ _ _
    · exact .refl s
  · exact .refl s

theorem State.orderedCommit_evolves (s : State) (i : StreamIndex) : Evolves s (s.orderedCommit i) := by
  unfold State.orderedCommit
  split
  · split_ifs
    · exact ((State.commitSteps_evolves i _ s).trans (State.adjustCtx_evolves _ i fun _ => by rfl)).trans
        (State.testComplete_evolves _ i)
    · exact .refl s
  · exact .refl s

/-! ## Notices -/

theorem State.serveStream_evolves (s : State) (l : LaneId) (i : StreamIndex) : Evolves s (s.serveStream l i) := by
  unfold State.serveStream
  split
  · exact .refl s
  · rename_i c hc
    split
    · exact .refl s
    · exact (State.setCtx_evolves hc (.of_course (by rfl))).trans (State.modifyLane_evolves _ _ _)

theorem State.placeStreamOrCredit_evolves (s : State) (l : LaneId) : Evolves s (s.placeStreamOrCredit l) := by
  have h := s.turn_evolves (turnOrder (s.lane l).turn) (s.servable l)
  unfold State.placeStreamOrCredit
  generalize s.turn (turnOrder (s.lane l).turn) (s.servable l) = r at h ⊢
  refine h.trans ?_
  dsimp only
  split
  · exact State.serveStream_evolves _ _ _
  · split
    · exact .of_sparse (by rfl)
    · exact .refl _

/-! ## Placement -/

theorem State.bookkeep_evolves (s : State) (i : StreamIndex) (l : LaneId) (merged : Option Nat) :
    Evolves s (s.bookkeep i l merged) := by
  unfold State.bookkeep
  have h := s.adjustCtx_evolves i (f := fun c =>
    { c with lastArrival := s.time, idleReported := false
             replyLane := if decide ((s.lane l).state = .active) then some l else c.replyLane }) fun _ => by rfl
  dsimp only
  generalize s.modifyCtx i _ = t at h ⊢
  refine h.trans ?_
  split
  · split
    · exact (State.adjustCtx_evolves _ i fun _ => by rfl).trans (State.raise_evolves _ _)
    · exact .refl _
  · exact .refl _

theorem State.finishSegment_evolves (s : State) (i : StreamIndex) (l : LaneId) (accepted : Bool) (merged : Option Nat)
    (lost : List DropReason) : Evolves s (s.finishSegment i l accepted merged lost) := by
  unfold State.finishSegment
  dsimp only
  refine Evolves.trans
    (s.adjustCtx_evolves i (f := fun c => c.count fun n => lost.dedup.foldl StreamCounters.drop n) fun _ => by rfl) ?_
  split
  · exact State.bookkeep_evolves _ _ _ _
  · split
    · exact .of_sparse (by rfl)
    · exact .refl _

theorem State.queueFinalChunk_evolves (s : State) (i : StreamIndex) (f : Nat) : Evolves s (s.queueFinalChunk i f) := by
  unfold State.queueFinalChunk
  split
  · exact .refl s
  · dsimp only
    split
    · exact (s.modifyChunk_evolves i _ _).trans (State.setQueue_evolves _ _)
    · exact .refl s

theorem State.freeBeyond_evolves (i : StreamIndex) (l : List (Nat × ChunkRecord)) :
    ∀ s : State, Evolves s (s.freeBeyond i l) := by
  induction l with
  | nil => exact .refl
  | cons x rest ih =>
    intro s
    unfold State.freeBeyond
    refine (s.adjustCtx_evolves i (f := fun c =>
      (c.modifyChunk x.1 fun r => { r with slot := none }).notify fun n => n.removeGap x.1) fun _ => by rfl).trans
      (Evolves.trans ?_ (ih _))
    split
    · exact State.giveUpAt_evolves _ _ _ _
    · exact .refl _

/-- The final end of a stream that has none is accepted (R61). -/
theorem State.acceptFinal_evolves {s : State} {i : StreamIndex} {c : Context} (hc : s.ctx? i = some c)
    (hf : c.final = none) (f : Nat) : Evolves s (s.acceptFinal i c f) := by
  unfold State.acceptFinal
  dsimp only
  refine (s.modifyCtx_evolves i (f := fun d => { d with final := some f }) fun d hd => ?_).trans ?_
  · obtain rfl : c = d := Option.some.inj (hc.symm.trans hd)
    exact .setFinal hf f
  · have htail : ∀ t : State, Evolves t (((if f = c.committed ∧ c.headSlotless then t.lowerReserve else t).queueFinalChunk
        i f).freeBeyond i (c.ring.filter fun x => decide ((f + 65535) / Config.chunkSize ≤ x.2.index))) := by
      intro t
      refine Evolves.trans ?_ ((State.queueFinalChunk_evolves _ i f).trans (State.freeBeyond_evolves i _ _))
      split
      · exact .of_sparse (by rfl)
      · exact .refl t
    split
    · exact (htail _).trans (State.completeStream_evolves _ _ _ _)
    · exact htail _

theorem State.noteBeyond_evolves (s : State) (i : StreamIndex) (cls : DropReason) (x : Nat) :
    Evolves s (s.noteBeyond i cls x) := by
  unfold State.noteBeyond
  split
  · split
    · exact (s.adjustCtx_evolves i fun _ => by rfl).trans (State.raise_evolves _ _)
    · exact .refl s
  · exact .refl s

theorem State.mergeInto_evolves (s : State) (i : StreamIndex) (pos : Nat) (r : ChunkRecord) (slot : Slot) (piece : Range)
    (bytes : List Byte) (len : Nat) : Evolves s (s.mergeInto i pos r slot piece bytes len) := by
  unfold State.mergeInto
  dsimp only
  cases isComplete (insertRange piece r.ranges) len with
  | true =>
    exact ((s.writePiece_evolves slot piece r.ranges bytes i r.index).trans
      (State.adjustCtx_evolves _ i fun _ => by rfl)).trans (State.setQueue_evolves _ _)
  | false =>
    exact (s.writePiece_evolves slot piece r.ranges bytes i r.index).trans
      (State.adjustCtx_evolves _ i fun _ => by rfl)

theorem State.mergePiece_evolves (s : State) (i : StreamIndex) (pos : Nat) (r : ChunkRecord) (slot : Slot)
    (piece : Range) (bytes : List Byte) (len : Nat) : Evolves s (s.mergePiece i pos r slot piece bytes len).1 := by
  unfold State.mergePiece
  split
  · split
    · exact .refl s
    · exact s.mergeInto_evolves _ _ _ _ _ _ _
  · exact s.adjustCtx_evolves i fun _ => by rfl

theorem State.placePiece_evolves (s : State) (i : StreamIndex) (x y : Nat) (bytes : List Byte) :
    Evolves s (s.placePiece i x y bytes).1 := by
  unfold State.placePiece
  split
  · exact .refl s
  · dsimp only
    split
    · exact .refl s
    · split
      · exact s.mergePiece_evolves _ _ _ _ _ _ _
      · split
        · exact .refl s
        · rename_i g hg
          exact ((State.request_evolves hg).trans (State.modifyChunk_evolves _ i _ _)).trans
            (State.mergePiece_evolves _ _ _ _ _ _ _ _)

theorem State.placePieces_evolves (i : StreamIndex) (o : Nat) (payload : List Byte) (l : List (Nat × Nat)) :
    ∀ s : State, Evolves s (s.placePieces i o payload l).state := by
  induction l with
  | nil => exact .refl
  | cons p rest ih =>
    intro s
    have h := (s.placePiece_evolves i p.1 p.2 (payload.drop (p.1 - o))).trans (ih _)
    unfold State.placePieces
    dsimp only
    split
    · exact h
    · exact h

theorem State.addOld_evolves (s : State) (i : StreamIndex) (n : Nat) : Evolves s (s.addOld i n) :=
  s.adjustCtx_evolves i fun _ => by rfl

theorem State.placeBytes_evolves (s : State) (i : StreamIndex) (c : Context) (l : LaneId) (g : Segment)
    (lastAccepted : Bool) : Evolves s (s.placeBytes i c l g lastAccepted) := by
  unfold State.placeBytes
  dsimp only
  split
  · exact ((s.addOld_evolves i _).trans (State.adjustCtx_evolves _ i fun _ => by rfl)).trans (State.countDrop_evolves _ _)
  · split
    · exact (s.noteBeyond_evolves i _ _).trans (State.finishSegment_evolves _ _ _ _ _ _)
    · refine Evolves.trans ?_ (State.finishSegment_evolves _ _ _ _ _ _)
      refine Evolves.trans ?_ (State.placePieces_evolves _ _ _ _ _)
      refine (s.addOld_evolves i (max g.offset c.committed - g.offset)).trans ?_
      split
      · exact State.noteBeyond_evolves _ i _ _
      · exact .refl _

theorem State.placeRest_evolves (s : State) (i : StreamIndex) (l : LaneId) (g : Segment) (lastAccepted : Bool) :
    Evolves s (s.placeRest i l g lastAccepted) := by
  unfold State.placeRest
  split
  · exact .refl s
  · split
    · exact s.finishSegment_evolves _ _ _ _ _
    · exact s.placeBytes_evolves _ _ _ _ _

theorem State.placeSegment_evolves {s : State} {i : StreamIndex} {c : Context} (hc : s.ctx? i = some c) (l : LaneId)
    (g : Segment) : Evolves s (s.placeSegment i c l g) := by
  unfold State.placeSegment
  dsimp only
  split
  · split
    · rename_i hf
      split
      · exact s.finishSegment_evolves _ _ _ _ _
      · have h := State.acceptFinal_evolves hc hf (g.offset + g.length)
        split
        · exact (h.trans (State.addOld_evolves _ i _)).trans (State.finishSegment_evolves _ _ _ _ _ _)
        · exact h.trans (State.placeRest_evolves _ _ _ _ _)
    · split
      · exact s.placeRest_evolves _ _ _ _
      · exact s.finishSegment_evolves _ _ _ _ _
  · exact s.placeRest_evolves _ _ _ _

theorem State.dropStopped_evolves (s : State) (i : StreamIndex) : Evolves s (s.dropStopped i) :=
  (s.adjustCtx_evolves i fun _ => by rfl).trans (State.count_evolves _ _ _)

theorem State.routeSegment_evolves (s : State) (l : LaneId) (g : Segment) : Evolves s (s.routeSegment l g) := by
  have h := s.lookup_evolves g.tag
  unfold State.routeSegment
  dsimp only
  split
  · exact h.trans (.of_sparse (by rfl))
  · exact h.trans (.of_sparse (by rfl))
  · rename_i i c hfound
    split
    · exact h.trans ((State.placeSegment_evolves (State.ctx?_of_lookup hfound) l g).trans (State.settle_evolves _ i))
    · exact h.trans (State.dropStopped_evolves _ i)

theorem State.handleSegment_evolves (s : State) (l : LaneId) (record : List Byte) :
    Evolves s (s.handleSegment l record) := by
  unfold State.handleSegment
  split
  · exact .of_sparse (by rfl)
  · split
    · exact .of_sparse (by rfl)
    · exact s.routeSegment_evolves _ _

/-! ## Reply lanes and lost notices -/

theorem State.redirect_evolves (old new : Option LaneId) (l : List StreamIndex) :
    ∀ s : State, Evolves s (s.redirect old new l) := by
  induction l with
  | nil => exact .refl
  | cons i rest ih =>
    refine fun s => ((s.checkParity_evolves i).trans (State.adjustCtx_evolves _ i fun c => ?_)).trans (ih _)
    split_ifs <;> rfl

theorem Context.putBack_course (c : Context) (n : Notice) : (c.putBack n).course = c.course := by
  cases n with
  | commit | pool | credit => rfl
  | gap | resync | ended | stop => simp only [Context.putBack]; split_ifs <;> rfl

theorem State.putBackOne_evolves (s : State) (r : NoticeRecord) : Evolves s (s.putBackOne r) := by
  unfold State.putBackOne
  split
  · refine s.adjustCtx_evolves _ fun c => ?_
    split_ifs
    · exact c.putBack_course _
    · rfl
  · exact .refl s

theorem State.putBackEach_evolves (l : List NoticeRecord) : ∀ s : State, Evolves s (s.putBackEach l) := by
  induction l with
  | nil => exact .refl
  | cons r rest ih => exact fun s => (s.putBackOne_evolves r).trans (ih _)

theorem State.laneActive_evolves (s : State) (l : LaneId) (v : Lane) (cause : LaneCause) :
    Evolves s (s.laneActive l v cause) :=
  (Evolves.of_sparse (by simp [State.sparse])).trans (State.redirect_evolves _ _ _ _)

theorem State.laneQuiesced_evolves (s : State) (l : LaneId) : Evolves s (s.laneQuiesced l) :=
  (Evolves.of_sparse (by simp [State.sparse])).trans (State.redirect_evolves _ _ _ _)

theorem State.linkLost_evolves (s : State) (l : LaneId) (cause : LaneCause) : Evolves s (s.linkLost l cause) := by
  unfold State.linkLost
  dsimp only
  split
  · exact .of_sparse (by rfl)
  · refine Evolves.trans ?_ (((State.checkRead_evolves _ _).trans (State.putBackEach_evolves _ _)).trans
      (State.raise_evolves _ _))
    refine Evolves.trans (t := (s.count (.drop .laneLost) (s.lane l).ingress.length).setLane l (s.lane l).lost)
      (.of_sparse (by rfl)) ?_
    split
    · exact State.redirect_evolves _ _ _ _
    · exact .refl _

/-! ## The idle test -/

theorem State.idleTest_evolves (s : State) (i : StreamIndex) : Evolves s (s.idleTest i) := by
  unfold State.idleTest
  split
  · exact .refl s
  · rename_i c hc
    split_ifs
    · exact (State.setCtx_evolves hc (.of_course (by rfl))).trans (State.raise_evolves _ _)
    · exact s.checkParity_evolves i
    · exact .refl s

theorem State.idleTests_evolves (l : List StreamIndex) : ∀ s : State, Evolves s (s.idleTests l) := by
  induction l with
  | nil => exact .refl
  | cons i rest ih => exact fun s => (s.idleTest_evolves i).trans (ih _)

/-! ## Outcomes of a verification -/

theorem State.countVerification_evolves (s : State) (v : Verification) : Evolves s (s.countVerification v) := by
  rw [State.countVerification_eq]
  exact .of_sparse (by rfl)

theorem State.resume_evolves (s : State) (i : StreamIndex) (c : Context) : Evolves s (s.resume i c) := by
  unfold State.resume
  split
  · exact (s.adjustCtx_evolves i fun _ => by rfl).trans (State.raise_evolves _ _)
  · exact .refl s

theorem State.testThreshold_evolves (s : State) (i : StreamIndex) (pos : Nat) (c : Context) :
    Evolves s (s.testThreshold i pos c) := by
  unfold State.testThreshold
  split
  · exact (((s.adjustCtx_evolves i fun _ => by rfl).trans (State.clearQueue_evolves _ i)).trans
      (State.adjustCtx_evolves _ i fun _ => by rfl)).trans (State.raise_evolves _ _)
  · exact s.adjustCtx_evolves i fun _ => by rfl

theorem State.failInHold_evolves (s : State) (i : StreamIndex) (c : Context) (r : Option Nat) :
    Evolves s (s.failInHold i c r) := by
  unfold State.failInHold
  dsimp only
  refine (s.adjustCtx_evolves i (f := fun d => { d with holdFailures := d.holdFailures + 1 }) fun _ => by rfl).trans ?_
  split
  · exact (State.adjustCtx_evolves _ i fun _ => by rfl).trans (State.retireGiven_evolves _ _ _)
  · exact State.enterAborted_evolves _ _ _ _

theorem State.failReceiving_evolves {s : State} {i : StreamIndex} {c : Context} (hc : s.ctx? i = some c) (pos : Nat)
    (r : Option Nat) : Evolves s (s.failReceiving i pos c r) := by
  unfold State.failReceiving
  dsimp only
  generalize hd : Context.count _ _ = d
  have hset : Evolves s (s.setCtx i d) := State.setCtx_evolves hc (by rw [← hd]; exact .of_course (by rfl))
  refine hset.trans ?_
  split
  · exact State.enterAborted_evolves _ _ _ _
  · split
    · exact State.failInHold_evolves _ _ _ _
    · exact (State.testThreshold_evolves _ _ _ _).trans (State.retireGiven_evolves _ _ _)

theorem State.outcomeReceiving_evolves {s : State} {i : StreamIndex} {c : Context} (hc : s.ctx? i = some c) (pos : Nat)
    (v : Verification) : Evolves s (s.outcomeReceiving i pos c v) := by
  cases v with
  | pass check => exact (s.adjustCtx_evolves i fun _ => by rfl).trans (State.resume_evolves _ _ _)
  | compared n =>
    exact ((s.adjustCtx_evolves i fun _ => by rfl).trans (State.resume_evolves _ _ _)).trans (State.orderedCommit_evolves _ _)
  | fail reason => exact State.failReceiving_evolves hc _ _

theorem State.outcomeStopped_evolves (s : State) (i : StreamIndex) (pos : Nat) (v : Verification) :
    Evolves s (s.outcomeStopped i pos v) := by
  cases v with
  | pass check => exact s.modifyChunk_evolves _ _ _
  | compared n => exact (s.adjustCtx_evolves i fun _ => by rfl).trans (State.orderedCommit_evolves _ _)
  | fail reason => exact (s.modifyChunk_evolves _ _ _).trans (State.retireGiven_evolves _ _ _)

theorem State.applyOutcome_evolves (s : State) (i : StreamIndex) (pos : Nat) (v : Verification) :
    Evolves s (s.applyOutcome i pos v) := by
  unfold State.applyOutcome
  split
  · exact .refl s
  · rename_i c hc
    cases c.state with
    | opened => exact State.outcomeReceiving_evolves hc _ _
    | hold => exact State.outcomeReceiving_evolves hc _ _
    | aborted => exact s.outcomeStopped_evolves _ _ _
    | salvaging => exact s.outcomeStopped_evolves _ _ _
    | releasing => exact s.endInFlight_evolves _ _ _
    | complete => exact .refl s

theorem State.startVerify_evolves (s : State) (q : ChunkName) : Evolves s (s.startVerify q) := by
  unfold State.startVerify
  split
  · exact .refl s
  · split
    · exact .refl s
    · split
      · exact .refl s
      · exact ((s.modifyChunk_evolves _ _ _).trans (.of_sparse (by rfl))).trans (State.settle_evolves _ _)

/-! ## Completions, withdrawals, offers -/

theorem State.storeFailure_evolves (s : State) (i : StreamIndex) (pos : Nat) (c : Context) (r : ChunkRecord) :
    Evolves s (s.storeFailure i pos c r) := by
  unfold State.storeFailure
  dsimp only
  refine (s.modifyChunk_evolves i pos fun x => { x with state := .verified }).trans ?_
  split
  · exact .refl _
  · cases c.state with
    | opened => exact State.enterAborted_evolves _ _ _ _
    | hold => exact State.enterAborted_evolves _ _ _ _
    | salvaging => exact State.enterReleasing_evolves _ _ _
    | complete => exact .refl _
    | aborted => exact .refl _
    | releasing => exact .refl _

theorem State.targetFull_evolves (s : State) (i : StreamIndex) (pos : Nat) (c : Context) :
    Evolves s (s.targetFull i pos c) := by
  unfold State.targetFull
  dsimp only
  refine (s.modifyChunk_evolves i pos fun x => { x with state := .verified }).trans ?_
  cases c.state with
  | opened => exact State.enterAborted_evolves _ _ _ _
  | hold => exact State.enterAborted_evolves _ _ _ _
  | salvaging => exact State.enterReleasing_evolves _ _ _
  | complete => exact .refl _
  | aborted => exact .refl _
  | releasing => exact .refl _

theorem State.poisonedFailure_evolves (s : State) (i : StreamIndex) (pos n : Nat) (c : Context) :
    Evolves s (s.poisonedFailure i pos n c) := by
  unfold State.poisonedFailure
  dsimp only
  refine Evolves.trans
    (s.adjustCtx_evolves i (f := fun d => d.count fun k => { k with failures := satAdd k.failures 1 }) fun _ => by rfl) ?_
  split
  · exact State.enterAborted_evolves _ _ _ _
  · exact (State.adjustCtx_evolves _ i fun _ => by rfl).trans (State.retireFromChunk_evolves _ _ _)

theorem State.poisonedCompletion_evolves (s : State) (i : StreamIndex) (pos : Nat) (c : Context) (r : ChunkRecord) :
    Evolves s (s.poisonedCompletion i pos c r) := by
  unfold State.poisonedCompletion
  dsimp only
  refine (s.modifyChunk_evolves i pos ChunkRecord.poisoned).trans ?_
  split
  · exact State.poisonedFailure_evolves _ _ _ _ _
  · exact State.retireFromChunk_evolves _ _ _

theorem State.completeLive_evolves (s : State) (i : StreamIndex) (pos : Nat) (c : Context) (r : ChunkRecord)
    (st : CompletionStatus) (check : Word) : Evolves s (s.completeLive i pos c r st check) := by
  cases st with
  | stored =>
    simp only [State.completeLive]
    split
    · exact (s.modifyChunk_evolves _ _ _).trans (State.orderedCommit_evolves _ _)
    · exact s.storeFailure_evolves _ _ _ _
  | writeFailed => exact s.storeFailure_evolves _ _ _ _
  | targetFull => exact s.targetFull_evolves _ _ _
  | poisoned => exact s.poisonedCompletion_evolves _ _ _ _

theorem State.applyCompletion_evolves (s : State) (i : StreamIndex) (pos : Nat) (st : CompletionStatus) (check : Word) :
    Evolves s (s.applyCompletion i pos st check) := by
  unfold State.applyCompletion
  split
  · exact .refl s
  · split
    · exact s.endInFlight_evolves _ _ _
    · exact .refl s
    · exact s.completeLive_evolves _ _ _ _ _ _
    · exact .refl s

theorem State.endRecord_evolves (s : State) (d : DrainRecord) (st : CompletionStatus) (check : Word) :
    Evolves s (s.endRecord d st check) := by
  unfold State.endRecord
  dsimp only
  refine Evolves.trans ?_ (State.poolTest_evolves _)
  refine Evolves.trans ?_ (State.settle_evolves _ _)
  refine Evolves.trans ?_ (State.applyCompletion_evolves _ _ _ _ _)
  exact (s.checkParity_evolves d.stream).trans (.of_sparse (by rfl))

theorem State.withdrawOne_evolves (s : State) (q : ChunkName) (rest : List ChunkName) :
    Evolves s (s.withdrawOne q rest) := by
  unfold State.withdrawOne
  split
  · exact .refl s
  · split
    · exact (s.modifyChunk_evolves _ _ _).trans (State.giveUpAll_evolves _ _ _)
    · exact s.modifyChunk_evolves _ _ _

theorem State.withdrawEach_evolves (l : List ChunkName) : ∀ s : State, Evolves s (s.withdrawEach l) := by
  induction l with
  | nil => exact .refl
  | cons q rest ih => exact fun s => (s.withdrawOne_evolves q rest).trans (ih _)

theorem State.withdrawMap_evolves (s : State) : Evolves s s.withdrawMap := by
  unfold State.withdrawMap
  dsimp only
  refine Evolves.trans ?_ (State.settleAll_evolves _ _)
  refine Evolves.trans ?_ (State.setDrain_evolves _ _ _)
  exact (State.handleAll_evolves _ s).trans (State.withdrawEach_evolves _ _)

theorem State.withdrawAll_evolves (s : State) : Evolves s s.withdrawAll := by
  unfold State.withdrawAll
  dsimp only
  refine Evolves.trans ?_ (State.settleAll_evolves _ _)
  refine Evolves.trans ?_ (State.setDrain_evolves _ _ _)
  exact (State.handleAll_evolves _ s).trans (State.withdrawEach_evolves _ _)

theorem State.takeHead_evolves (s : State) : Evolves s s.takeHead := by
  have h := s.checkRead_evolves ((s.offered.takeWhile fun o => !(s.entry o.stream).parityGood).map (·.stream))
  unfold State.takeHead
  dsimp only
  generalize s.checkRead _ = t at h ⊢
  refine h.trans ?_
  split
  · exact .of_sparse (by rfl)
  · rename_i o rest _
    unfold State.takeOffer
    dsimp only
    have hanswer : ∀ (u : State) (bytes : List Byte), Evolves u (u.answerTake bytes) := fun _ _ => .of_sparse (by rfl)
    refine Evolves.trans ?_ (hanswer _ _)
    refine Evolves.trans ?_ (State.settle_evolves _ _)
    exact (State.setDrain_evolves _ _ _).trans (State.modifyChunk_evolves _ _ _ _)

theorem State.readRecord_evolves (s : State) (q : ReadRequest) (d : DrainRecord) : Evolves s (s.readRecord q d) := by
  unfold State.readRecord State.readChunk
  split
  · split
    · split
      · exact .of_sparse (by rfl)
      · exact (s.reportRead_evolves _ _ _ _).trans (.of_sparse (by rfl))
    · exact .of_sparse (by rfl)
  · exact .of_sparse (by rfl)

theorem State.makeOffer_evolves (s : State) (i : StreamIndex) : Evolves s (s.makeOffer i) := by
  unfold State.makeOffer
  split
  · exact .refl s
  · rename_i c hc
    split
    · exact .refl s
    · rename_i x _
      dsimp only
      refine Evolves.trans ?_ (State.settle_evolves _ i)
      have h : ∀ t : State, t.sparse = s.sparse → ∀ d : Context, d.course = c.course → Evolves s (t.setCtx i d) := by
        intro t ht d hd
        have htable : t.table = s.table := congrArg Prod.fst ht
        exact (Evolves.of_sparse ht).trans
          (State.setCtx_evolves (by rw [State.ctx?, State.entry, htable]; exact hc) (.of_course hd))
      cases decide (1 ≤ x.2.offers) with
      | true => exact Evolves.trans (h _ (by rfl) _ (by rfl)) (State.count_evolves _ _ _)
      | false => exact h _ (by rfl) _ (by rfl)

theorem State.serveFirst_evolves (s : State) (order : List StreamIndex) : Evolves s (s.serveFirst order) := by
  have h := s.turn_evolves order s.offerableAt
  unfold State.serveFirst
  generalize s.turn order s.offerableAt = r at h ⊢
  refine h.trans ?_
  dsimp only
  split
  · exact State.makeOffer_evolves _ _
  · exact .refl _

end Sys2Proof.Machine
end

section
/-! # What no command takes away: the commands, the step (O55, O60) -/

namespace Sys2Proof.Machine

/-! ## The take of a host command -/

theorem State.takeWhen_evolves {body : State → List Byte → State} (h : ∀ t record, Evolves t (body t record))
    (s : State) (accepts : Nat → Bool) : Evolves s (s.takeWhen accepts body) := by
  unfold State.takeWhen
  split
  · exact .refl s
  · rename_i record rest _
    split
    · exact Evolves.trans (t := { s with commands := rest }) (.of_sparse (by rfl)) (h _ record)
    · exact .refl s

theorem State.respond_evolves (s : State) (record : List Byte) (st : Status) (data : List Byte) :
    Evolves s (s.respond record st data) := .of_sparse (by rfl)

theorem State.takeCommand_evolves {body : State → List Byte → State} (h : ∀ t record, Evolves t (body t record))
    (s : State) (code : Nat) : Evolves s (s.takeCommand code body) := by
  refine State.takeWhen_evolves (fun t record => ?_) s _
  split
  · exact (h t record).trans (State.poolTest_evolves _)
  · exact t.respond_evolves _ _ _

theorem State.onStream_evolves {body : State → StreamIndex → Context → State}
    (h : ∀ t i c, t.ctx? i = some c → Evolves t (body t i c)) (s : State) (record : List Byte) :
    Evolves s (s.onStream record body) := by
  have hl := s.lookup_evolves (commandTag record)
  unfold State.onStream
  dsimp only
  split
  · exact hl.trans (State.respond_evolves _ _ _ _)
  · exact hl.trans (State.respond_evolves _ _ _ _)
  · rename_i i c hfound
    exact hl.trans (h _ i c (State.ctx?_of_lookup hfound))

/-! ## The bodies of the stream commands -/

theorem State.closeBody_evolves (s : State) (record : List Byte) : Evolves s (s.closeBody record) := by
  refine State.onStream_evolves (fun t i c _ => ?_) s record
  split
  · exact (t.freeEntry_evolves i).trans (State.respond_evolves _ _ _ _)
  · exact t.respond_evolves _ _ _

theorem State.abortBody_evolves (s : State) (record : List Byte) : Evolves s (s.abortBody record) := by
  refine State.onStream_evolves (fun t i c _ => ?_) s record
  have habort : Evolves t (((t.enterAborted i .hostAbort none).settle i).respond record .done []) :=
    ((t.enterAborted_evolves i _ _).trans (State.settle_evolves _ i)).trans (State.respond_evolves _ _ _ _)
  cases c.state with
  | opened => exact habort
  | hold => exact habort
  | aborted => exact t.respond_evolves _ _ _
  | complete => exact t.respond_evolves _ _ _
  | salvaging => exact t.respond_evolves _ _ _
  | releasing => exact t.respond_evolves _ _ _

theorem State.releaseBody_evolves (s : State) (record : List Byte) : Evolves s (s.releaseBody record) := by
  refine State.onStream_evolves (fun t i c _ => ?_) s record
  have hrelease : Evolves t (((t.enterReleasing i c.cause).settle i).respond record .done []) :=
    ((t.enterReleasing_evolves i _).trans (State.settle_evolves _ i)).trans (State.respond_evolves _ _ _ _)
  cases c.state with
  | aborted => exact hrelease
  | salvaging => exact hrelease
  | opened => exact t.respond_evolves _ _ _
  | hold => exact t.respond_evolves _ _ _
  | complete => exact t.respond_evolves _ _ _
  | releasing => exact t.respond_evolves _ _ _

theorem State.salvageBody_evolves (s : State) (record : List Byte) : Evolves s (s.salvageBody record) := by
  refine State.onStream_evolves (fun t i c hc => ?_) s record
  split
  · exact ((State.setCtx_evolves hc (.of_course (by rfl))).trans (State.settle_evolves _ i)).trans
      (State.respond_evolves _ _ _ _)
  · exact t.respond_evolves _ _ _

theorem Context.continues_extended {c : Context} {cap : Nat} (h : c.cap ≤ cap) (reserve : Nat) :
    c.Continues (c.extended cap reserve) := by
  unfold Context.extended
  dsimp only
  split <;> exact .of_cap rfl h

theorem State.extendBody_evolves (s : State) (record : List Byte) : Evolves s (s.extendBody record) := by
  refine State.onStream_evolves (fun t i c hc => ?_) s record
  split
  · exact t.respond_evolves _ _ _
  · split
    · exact t.respond_evolves _ _ _
    · rename_i hcap
      exact (State.setCtx_evolves hc (Context.continues_extended (not_lt.mp hcap) _)).trans (State.respond_evolves _ _ _ _)

theorem State.flushBody_evolves (s : State) (record : List Byte) : Evolves s (s.flushBody record) := by
  refine State.onStream_evolves (fun t i c hc => ?_) s record
  split
  · exact ((State.setCtx_evolves hc (.of_course (by rfl))).trans (State.settle_evolves _ i)).trans
      (State.respond_evolves _ _ _ _)
  · exact t.respond_evolves _ _ _

theorem State.queryBody_evolves (s : State) (record : List Byte) : Evolves s (s.queryBody record) :=
  State.onStream_evolves (fun t _ _ _ => t.respond_evolves _ _ _) s record

theorem State.endInterval_evolves (s : State) : Evolves s s.endInterval :=
  .of_sparse (by simp [State.endInterval, State.sparse])

theorem State.configureBody_evolves (s : State) (record : List Byte) : Evolves s (s.configureBody record) := by
  have hset : ∀ (t : State) (g : Settings), Evolves t { t with settings := g } := fun _ _ => .of_sparse (by rfl)
  unfold State.configureBody
  dsimp only
  refine Evolves.trans ?_ (hset _ _)
  have htail : ∀ t : State, Evolves s t → Evolves s
      (if ((parseConfigure record).intervalLength.isSome && t.intervalDue) = true then t.endInterval else t) := by
    intro t ht
    split
    · exact ht.trans t.endInterval_evolves
    · exact ht
  refine htail _ ?_
  refine Evolves.trans ?_ (State.respond_evolves _ _ _ _)
  refine Evolves.trans ?_ (State.poolTest_evolves _)
  refine (hset s { s.settings.configure (parseConfigure record) with enables := s.settings.enables }).trans ?_
  split
  · exact State.idleTests_evolves _ _
  · exact .refl _

theorem State.laneCommand_evolves (s : State) (record : List Byte) (l : LaneId) (wanted : LaneState) :
    Evolves s (s.laneCommand record l wanted) := by
  unfold State.laneCommand
  dsimp only
  split
  · exact s.respond_evolves _ _ _
  · exact (s.laneQuiesced_evolves l).trans (State.respond_evolves _ _ _ _)
  · split
    · exact (s.laneActive_evolves l _ _).trans (State.respond_evolves _ _ _ _)
    · exact s.respond_evolves _ _ _
  · exact s.respond_evolves _ _ _
  · exact s.respond_evolves _ _ _

/-! ## OPEN -/

/-- OPEN either is refused or writes an aligned context into an entry that was FREE. -/
theorem State.openBody_evolves (s : State) (record : List Byte) :
    Evolves s (s.openBody record) ∨
      ∃ i d, s.ctx? i = none ∧ d.Aligned ∧ Evolves (s.setCtx i d) (s.openBody record) := by
  have hl := s.lookup_evolves (parseOpen record).tag
  unfold State.openBody
  dsimp only
  split
  · exact .inl (s.respond_evolves _ _ _)
  · rename_i hbad
    split
    · exact .inl (hl.trans (State.respond_evolves _ _ _ _))
    · exact .inl (hl.trans (State.respond_evolves _ _ _ _))
    · rename_i hnone
      rw [State.lookup_of_notFound hnone]
      split
      · exact .inl (s.respond_evolves _ _ _)
      · rename_i i hi
        split
        · exact .inl (s.respond_evolves _ _ _)
        · refine .inr ⟨i, _, State.ctx?_of_freeWay hi, ?_,
            (State.raiseReserve_evolves _ 1).trans (State.respond_evolves _ _ _ _)⟩
          have hstart : (parseOpen record).start % Config.chunkSize = 0 := by
            simp only [OpenParams.bad, decide_eq_true_eq, not_or, not_not] at hbad
            exact hbad.2.2.2.1
          exact .inl hstart

/-! ## Resets and the self-test -/

/-- An empty table is canonical, and no entry of it is live. -/
theorem Evolves.of_emptyTable {s t : State} (h : t.table = []) (hs : s.StoresWF → t.StoresWF) : Evolves s t where
  table _ := by rw [State.TableWF, h]; exact ⟨.nil, fun _ hc => absurd hc List.not_mem_nil⟩
  stores := hs
  parity _ i _ := by rw [State.entry, h]; rfl
  streams _ i d hd := by rw [State.ctx?, State.entry, h] at hd; exact absurd hd (by simp [cellGet, Entry.free])

theorem State.restarted_evolves {s : State} {pool : Pool} (sample : ResetSample) (counter : Word)
    (huses : CellsWF .free s.pool.uses → CellsWF .free pool.uses)
    (hmarks : CellsWF false s.pool.marks → CellsWF false pool.marks) : Evolves s (s.restarted sample pool counter) :=
  .of_emptyTable rfl fun ⟨b, w, u, m⟩ => ⟨b, w, huses u, hmarks m⟩

theorem State.afterDeviceReset_evolves (s : State) (sample : ResetSample) (counter : Word) :
    Evolves s (s.restarted sample s.pool.afterDeviceReset counter) :=
  State.restarted_evolves sample counter (fun u => cellsWF_filter u _) fun m => cellsWF_filter m _

theorem State.powerOnReset_evolves (s : State) (sample : ResetSample) : Evolves s (s.restarted sample .reset 0) :=
  State.restarted_evolves sample 0 (fun _ => ⟨.nil, fun _ hc => absurd hc List.not_mem_nil⟩)
    fun _ => ⟨.nil, fun _ hc => absurd hc List.not_mem_nil⟩

theorem State.walked_evolves (s : State) : Evolves s s.walked :=
  .of_table rfl fun ⟨b, w, p⟩ => ⟨State.walked_wf b, cellsWF_filter w _, p⟩

theorem State.enterReady_evolves (s : State) : Evolves s s.enterReady := by
  have hlanes : ∀ (l : List LaneId) (t : State), Evolves t (l.foldl State.laneAtReady t) := by
    intro l
    induction l with
    | nil => exact .refl
    | cons l rest ih =>
      intro t
      refine Evolves.trans ?_ (ih _)
      unfold State.laneAtReady
      dsimp only
      split
      · exact t.laneActive_evolves _ _ _
      · exact .refl t
  unfold State.enterReady
  dsimp only
  have hready : Evolves s { s with device := .ready, intervalStart := s.time } := .of_sparse (by rfl)
  have h := hready.trans (hlanes laneIds _)
  split
  · exact h.trans (State.raise_evolves _ _)
  · exact h

/-! ## Every command -/

/-- A command's outcome: the state it leaves, if any, has come from `s` as every operation leaves it. -/
def EvolvesInto (s : State) (o : Host.Outcome State Fault Refusal) : Prop := ∀ t, o = .next t → Evolves s t

theorem Evolves.next {s t : State} (h : Evolves s t) : EvolvesInto s (.next t) :=
  fun _ hu => Host.Outcome.next.inj hu ▸ h

section
variable (s : State)

theorem execPushSegment_evolves (l : LaneId) (record : List Byte) : EvolvesInto s (execPushSegment l record s) := by
  unfold execPushSegment
  dsimp only
  split
  · split
    · exact (s.countDrop_evolves _).next
    · exact (Evolves.refl s).next
  · split
    · exact Evolves.next (.of_sparse (by rfl))
    · exact (s.countDrop_evolves _).next

theorem execLinkUp_evolves (l : LaneId) : EvolvesInto s (execLinkUp l s) := by
  unfold execLinkUp
  dsimp only
  split
  · exact ((s.laneActive_evolves _ _ _).trans (State.poolTest_evolves _)).next
  · exact Evolves.next (.of_sparse (by rfl))

theorem execNoticeTake_evolves (l : LaneId) : EvolvesInto s (execNoticeTake l s) := by
  unfold execNoticeTake
  split
  · exact Evolves.next (.of_sparse (by rfl))
  · exact Evolves.next (.of_sparse (by rfl))

theorem execSegmentTake_evolves (l : LaneId) : EvolvesInto s (execSegmentTake l s) := by
  unfold execSegmentTake
  dsimp only
  split
  · exact (Evolves.refl s).next
  · exact (Evolves.refl s).next
  · refine Evolves.next (Evolves.trans (Evolves.trans ?_ (State.handleSegment_evolves _ _ _)) (State.poolTest_evolves _))
    exact .of_sparse (by rfl)

theorem execNoticePlacement_evolves (l : LaneId) : EvolvesInto s (execNoticePlacement l s) := by
  unfold execNoticePlacement
  dsimp only
  split
  · split
    · exact Evolves.next (.of_sparse (by rfl))
    · split
      · exact ((s.placeStreamOrCredit_evolves l).trans (State.poolTest_evolves _)).next
      · exact (Evolves.refl s).next
  · exact (Evolves.refl s).next

theorem execTake_evolves : EvolvesInto s (execTake s) := by
  unfold execTake
  split
  · exact Evolves.next (.of_sparse (by rfl))
  · exact (s.takeHead_evolves.trans (State.poolTest_evolves _)).next

theorem execRead_evolves (record : List Byte) : EvolvesInto s (execRead record s) := by
  unfold execRead
  dsimp only
  split
  · exact Evolves.next (.of_sparse (by rfl))
  · exact (((s.checkParity_evolves _).trans (State.readRecord_evolves _ _ _)).trans (State.poolTest_evolves _)).next

theorem execComplete_evolves (record : List Byte) : EvolvesInto s (execComplete record s) := by
  unfold execComplete
  dsimp only
  split
  · split
    · exact (s.count_evolves _ _).next
    · exact (Evolves.refl s).next
  · exact (s.endRecord_evolves _ _ _).next

theorem execDrainTimeout_evolves (tag : Word) : EvolvesInto s (execDrainTimeout tag s) := by
  unfold execDrainTimeout
  split
  · exact (Evolves.refl s).next
  · split
    · exact ((s.count_evolves _ _).trans (State.endRecord_evolves _ _ _ _)).next
    · exact (Evolves.refl s).next

theorem execWriterSignal_evolves (signal : WriterSignal) : EvolvesInto s (execWriterSignal signal s) := by
  have hset : Evolves s { s with signal := signal } := .of_sparse (by rfl)
  unfold execWriterSignal
  dsimp only
  split
  · exact (Evolves.refl s).next
  · split
    · cases signal with
      | ready => exact (hset.trans (State.raise_evolves _ _)).next
      | offline =>
        exact (((hset.trans (State.raise_evolves _ _)).trans (State.withdrawMap_evolves _)).trans
          (State.poolTest_evolves _)).next
    · exact hset.next

theorem execPortReset_evolves : EvolvesInto s (execPortReset s) := by
  have hset : Evolves s { s with signal := .offline } := .of_sparse (by rfl)
  unfold execPortReset
  dsimp only
  refine Evolves.next (Evolves.trans (Evolves.trans ?_ (State.withdrawAll_evolves _)) (State.poolTest_evolves _))
  split
  · exact hset.trans (State.raise_evolves _ _)
  · exact hset

theorem execArbiterTurn_evolves : EvolvesInto s (execArbiterTurn s) := by
  unfold execArbiterTurn
  split
  · exact ((s.serveFirst_evolves _).trans (State.poolTest_evolves _)).next
  · exact (Evolves.refl s).next

theorem execEngineTake_evolves : EvolvesInto s (execEngineTake s) := by
  unfold execEngineTake
  split
  · exact (Evolves.refl s).next
  · split
    · split
      · exact (((s.setQueue_evolves _).trans (State.startVerify_evolves _ _)).trans (State.poolTest_evolves _)).next
      · exact (((s.checkParity_evolves _).trans (State.setQueue_evolves _ _)).trans (State.poolTest_evolves _)).next
    · exact (Evolves.refl s).next

theorem execVerifyCompletion_evolves : EvolvesInto s (execVerifyCompletion s) := by
  have hidle : ∀ t : State, Evolves t { t with engine := none } := fun _ => .of_sparse (by rfl)
  unfold execVerifyCompletion
  split
  · exact (Evolves.refl s).next
  · refine Evolves.next ?_
    refine Evolves.trans ?_ (State.poolTest_evolves _)
    refine Evolves.trans ?_ (State.settle_evolves _ _)
    refine Evolves.trans ?_ (State.applyOutcome_evolves _ _ _ _)
    refine Evolves.trans ?_ (State.countVerification_evolves _ _)
    refine Evolves.trans ?_ (hidle _)
    exact (s.reportRead_evolves _ _ _ _).trans (State.checkParity_evolves _ _)

theorem execCommandWrite_evolves (record : List Byte) : EvolvesInto s (execCommandWrite record s) := by
  unfold execCommandWrite
  dsimp only
  split
  · exact Evolves.next (.of_sparse (by rfl))
  · split
    · exact Evolves.next (.of_sparse (by rfl))
    · exact Evolves.next (.of_sparse (by simp [State.sparse]))

theorem execResponseQueueRead_evolves : EvolvesInto s (execResponseQueueRead s) := by
  unfold execResponseQueueRead
  split <;> exact Evolves.next (.of_sparse (by rfl))

theorem execEventQueueRead_evolves : EvolvesInto s (execEventQueueRead s) := by
  unfold execEventQueueRead
  split <;> exact Evolves.next (.of_sparse (by rfl))

theorem execLane_evolves : EvolvesInto s (execLane s) := by
  refine Evolves.next (State.takeCommand_evolves (fun t record => ?_) s 9)
  split
  · exact t.respond_evolves _ _ _
  · split
    · exact t.laneCommand_evolves _ _ _
    · exact t.respond_evolves _ _ _

theorem execClearErrors_evolves : EvolvesInto s (execClearErrors s) :=
  Evolves.next (State.takeCommand_evolves (fun _ _ => .of_sparse (by rfl)) s 12)

theorem execReset_evolves (sample : ResetSample) : EvolvesInto s (execReset sample s) :=
  Evolves.next (State.takeWhen_evolves
    (fun t _ => (t.afterDeviceReset_evolves sample _).trans (State.respond_evolves _ _ _ _)) s _)

theorem execBufferWalk_evolves (bad : List Nat) : EvolvesInto s (execBufferWalk bad s) := by
  have hset : ∀ (t : State) (d : DeviceState), Evolves t { t with device := d } := fun _ _ => .of_sparse (by rfl)
  unfold execBufferWalk
  split
  · exact (s.walked_evolves.trans (hset _ _)).next
  · exact (Evolves.refl s).next

theorem execStreamTableTest_evolves (bad : List Nat) : EvolvesInto s (execStreamTableTest bad s) := by
  unfold execStreamTableTest
  split
  · exact Evolves.next (.of_emptyTable (by rfl) fun w => w)
  · exact (Evolves.refl s).next

theorem execKnownAnswer_evolves (flips : Word) : EvolvesInto s (execKnownAnswer flips s) := by
  unfold execKnownAnswer
  split
  · split
    · exact (s.enterReady_evolves.trans (State.poolTest_evolves _)).next
    · exact Evolves.next (.of_sparse (by rfl))
  · exact (Evolves.refl s).next

theorem execScrub_evolves : EvolvesInto s (execScrub s) := by
  unfold execScrub
  split
  · have hset : ∀ (t : State) (i : StreamIndex), Evolves t { t with scrubPosition := i } := fun _ _ => .of_sparse (by rfl)
    exact (((s.checkParity_evolves _).trans (hset _ _)).trans (State.poolTest_evolves _)).next
  · exact (Evolves.refl s).next

theorem execIdleExpiry_evolves (i : StreamIndex) : EvolvesInto s (execIdleExpiry i s) := by
  unfold execIdleExpiry
  split
  · exact ((s.idleTest_evolves i).trans (State.poolTest_evolves _)).next
  · exact (Evolves.refl s).next

theorem execIntervalExpiry_evolves : EvolvesInto s (execIntervalExpiry s) := by
  unfold execIntervalExpiry
  split
  · exact s.endInterval_evolves.next
  · exact (Evolves.refl s).next

end

/-- Every command but OPEN leaves what it finds as every operation does. -/
theorem exec_evolves {x : Instr} (hx : x ≠ .openCmd) (s : State) : EvolvesInto s (exec x s) := by
  cases x with
  | pushSegment l record => exact execPushSegment_evolves s l record
  | linkUp l => exact execLinkUp_evolves s l
  | linkDown l => exact ((s.linkLost_evolves l _).trans (State.poolTest_evolves _)).next
  | laneReset l => exact ((s.linkLost_evolves l _).trans (State.poolTest_evolves _)).next
  | noticeTake l => exact execNoticeTake_evolves s l
  | segmentTake l => exact execSegmentTake_evolves s l
  | noticePlacement l => exact execNoticePlacement_evolves s l
  | take => exact execTake_evolves s
  | read record => exact execRead_evolves s record
  | complete record => exact execComplete_evolves s record
  | writerSignal signal => exact execWriterSignal_evolves s signal
  | portReset => exact execPortReset_evolves s
  | arbiterTurn => exact execArbiterTurn_evolves s
  | drainTimeout tag => exact execDrainTimeout_evolves s tag
  | engineTake => exact execEngineTake_evolves s
  | verifyCompletion => exact execVerifyCompletion_evolves s
  | commandWrite record => exact execCommandWrite_evolves s record
  | openCmd => exact absurd rfl hx
  | closeCmd => exact (State.takeCommand_evolves State.closeBody_evolves s 2).next
  | abortCmd => exact (State.takeCommand_evolves State.abortBody_evolves s 3).next
  | releaseCmd => exact (State.takeCommand_evolves State.releaseBody_evolves s 4).next
  | salvageCmd => exact (State.takeCommand_evolves State.salvageBody_evolves s 5).next
  | extendCmd => exact (State.takeCommand_evolves State.extendBody_evolves s 6).next
  | flushCmd => exact (State.takeCommand_evolves State.flushBody_evolves s 7).next
  | queryCmd => exact (State.takeCommand_evolves State.queryBody_evolves s 8).next
  | laneCmd => exact execLane_evolves s
  | configureCmd => exact (State.takeCommand_evolves State.configureBody_evolves s 10).next
  | countersCmd => exact (State.takeCommand_evolves (fun t _ => t.respond_evolves _ _ _) s 11).next
  | clearErrorsCmd => exact execClearErrors_evolves s
  | statusCmd => exact (State.takeWhen_evolves (fun t _ => t.respond_evolves _ _ _) s _).next
  | resetCmd sample => exact execReset_evolves s sample
  | unknownCommand => exact (State.takeWhen_evolves (fun t _ => t.respond_evolves _ _ _) s _).next
  | responseQueueRead => exact execResponseQueueRead_evolves s
  | eventQueueRead => exact execEventQueueRead_evolves s
  | powerOnReset sample => exact (s.powerOnReset_evolves sample).next
  | bufferWalk bad => exact execBufferWalk_evolves s bad
  | streamTableTest bad => exact execStreamTableTest_evolves s bad
  | knownAnswer flips => exact execKnownAnswer_evolves s flips
  | scrub => exact execScrub_evolves s
  | idleExpiry i => exact execIdleExpiry_evolves s i
  | intervalExpiry => exact execIntervalExpiry_evolves s

/-- OPEN may write an aligned context into an entry that was FREE besides. -/
theorem execOpen_evolves {s t : State} (h : execOpen s = .next t) :
    Evolves s t ∨ ∃ i d, s.ctx? i = none ∧ d.Aligned ∧ Evolves (s.setCtx i d) t := by
  obtain rfl := Host.Outcome.next.inj h
  unfold State.takeCommand State.takeWhen
  split
  · exact .inl (.refl s)
  · rename_i record rest _
    have hrest : Evolves s { s with commands := rest } := .of_sparse (by rfl)
    dsimp only
    split
    · split
      · rcases State.openBody_evolves { s with commands := rest } record with hrefused | ⟨i, d, hfree, hd, hopened⟩
        · exact .inl ((hrest.trans hrefused).trans (State.poolTest_evolves _))
        · refine .inr ⟨i, d, hfree, hd, Evolves.trans (Evolves.trans ?_ hopened) (State.poolTest_evolves _)⟩
          exact .of_sparse (by rfl)
      · exact .inl (hrest.trans (State.respond_evolves _ _ _ _))
    · exact .inl (.refl s)

/-- What every command does to the stores and to the streams. -/
theorem exec_evolves_or_opens {x : Instr} {s t : State} (h : exec x s = .next t) :
    Evolves s t ∨ ∃ i d, s.ctx? i = none ∧ d.Aligned ∧ Evolves (s.setCtx i d) t := by
  by_cases hx : x = .openCmd
  · subst hx
    exact execOpen_evolves h
  · exact .inl (exec_evolves hx s t h)

/-! ## Canonical form (O55) -/

theorem Evolves.canonicalForm {s t : State} (h : Evolves s t) (hs : CanonicalForm s) : CanonicalForm t := by
  rw [canonicalForm_iff] at hs ⊢
  exact ⟨h.table hs.1, h.stores hs.2⟩

theorem exec_canonicalForm {x : Instr} {s t : State} (hs : CanonicalForm s) (h : exec x s = .next t) :
    CanonicalForm t := by
  rcases exec_evolves_or_opens h with he | ⟨i, d, -, -, he⟩
  · exact he.canonicalForm hs
  · refine he.canonicalForm ?_
    rw [canonicalForm_iff] at hs ⊢
    exact ⟨State.setEntry_tableWF hs.1 i _, hs.2⟩

theorem State.strike_canonicalForm {s : State} (hs : CanonicalForm s) (d : Disturbance) : CanonicalForm (s.strike d) := by
  obtain ⟨hbuffer, htable, hwords, hpool⟩ := hs
  cases d with
  | entry i content => exact ⟨hbuffer, State.setEntry_tableWF htable i _, hwords, hpool⟩
  | correctable w => exact ⟨hbuffer, htable, cellPut_wf hwords _ _, hpool⟩
  | uncorrectable w bytes => exact ⟨upsetBytes_wf hbuffer w bytes, htable, cellPut_wf hwords _ _, hpool⟩

theorem State.idle_canonicalForm {s : State} (hs : CanonicalForm s) : CanonicalForm s.idle := by
  unfold State.idle
  split
  · rename_i d rest _
    exact State.strike_canonicalForm (s := { s with disturbances := rest }) hs d
  · unfold State.tick
    split <;> exact hs

/-- Settles O55: a command evolves the stores or opens a stream, and an upset writes through the same sparse writes. -/
theorem stepKeepsCanonicalForm : Obligations.StepKeepsCanonicalForm := by
  intro s t hs h
  unfold step at h
  split at h
  · rename_i x rest _
    exact exec_canonicalForm (s := { s with pending := rest }) hs h
  · obtain rfl := Host.Outcome.next.inj h
    exact State.idle_canonicalForm hs

/-! ## Progress (O60) -/

/-- Settles O60: a context that is live afterwards continues the one that was there, or is one that OPEN has written into
a FREE entry. -/
theorem progressNeverReverses : Obligations.ProgressNeverReverses := by
  intro x s t hw ha h
  have hfrom : ∀ i d, t.ctx? i = some d →
      (∃ c, s.ctx? i = some c ∧ c.Continues d) ∨ (s.ctx? i = none ∧ d.Aligned) := by
    intro i d hd
    rcases exec_evolves_or_opens h with he | ⟨j, e, hfree, halign, he⟩
    · exact .inl (he.streams hw i d hd)
    · obtain ⟨c, hc, hcd⟩ := he.streams (State.setEntry_tableWF hw j _) i d hd
      rw [State.ctx?, State.entry_setCtx hw] at hc
      split_ifs at hc with hi
      · obtain rfl : e = c := Option.some.inj hc
        exact .inr ⟨hi ▸ hfree, hcd.aligned halign⟩
      · exact .inl ⟨c, hc, hcd⟩
  refine ⟨fun i d hd => ?_, fun i c d hc hd => ?_⟩
  · rcases hfrom i d hd with ⟨c, hc, hcd⟩ | ⟨-, halign⟩
    · exact hcd.aligned (ha i c hc)
    · exact halign
  · rcases hfrom i d hd with ⟨c', hc', hcd⟩ | ⟨hnone, -⟩
    · obtain rfl : c = c' := Option.some.inj (hc.symm.trans hc')
      exact ⟨hcd.tag, hcd.w, hcd.b, hcd.t, hcd.pattern, hcd.target, hcd.base, hcd.committed (ha i c hc), hcd.cap,
        hcd.final⟩
    · exact absurd hc (by rw [hnone]; simp)

end Sys2Proof.Machine
end

section
/-! # A parity error found and handled (R33 to R35, R156): lookups, SCRUB (O7, O51) -/

namespace Sys2Proof.Machine

/-! ## The entry given back -/

theorem otherEntries_freeEntry {s t : State} (hw : s.TableWF) (ht : t.table = s.table) (i : StreamIndex) :
    OtherEntries s (t.freeEntry i) i := fun j hj => by
  have htw : t.TableWF := by rw [State.TableWF, ht]; exact hw
  rw [State.entry_freeEntry htw, if_neg hj, State.entry, ht]
  rfl

theorem entry_freeEntry_self {s t : State} (hw : s.TableWF) (ht : t.table = s.table) (i : StreamIndex) :
    (t.freeEntry i).entry i = Entry.free := by
  have htw : t.TableWF := by rw [State.TableWF, ht]; exact hw
  rw [State.entry_freeEntry htw, if_pos rfl]

/-- A chunk of the stream is VERIFYING or TAKEN (R156). -/
theorem State.inFlight_iff (s : State) (i : StreamIndex) : s.inFlight i = true ↔
    (∃ o, s.engine = some o ∧ o.stream = i) ∨ ∃ m ∈ s.drainMap, m.stream = i := by
  simp [State.inFlight, Option.any_eq_true]

theorem State.inFlight_eq_false {s : State} {i : StreamIndex} (hengine : ∀ o, s.engine = some o → o.stream ≠ i)
    (hdrain : ∀ m ∈ s.drainMap, m.stream ≠ i) : s.inFlight i = false := by
  rw [← Bool.not_eq_true, State.inFlight_iff]
  rintro (⟨o, ho, hi⟩ | ⟨m, hm, hi⟩)
  · exact hengine o ho hi
  · exact hdrain m hm hi

/-- A stream in RELEASING with nothing in flight returns its entry to FREE (R156). -/
theorem State.settle_released {X : State} {i : StreamIndex} {c : Context} (hs : c.state = .releasing)
    (hflight : X.inFlight i = false) : (X.setCtx i c).settle i = (X.released i c none).freeEntry i := by
  have hover : c.flagsTested.salvageDone = false :=
    Context.salvageDone_of_ne (by rw [show c.flagsTested.state = c.state from rfl, hs]; simp)
  simp only [State.settle, State.testFree, State.modifyCtx_setCtx, State.ctx?_setCtx_self, Context.testDrainFlags_eq, hover,
    Bool.false_eq_true, if_false]
  rw [if_pos ⟨hs, hflight⟩, State.toFree_setCtx]
  exact congrArg (fun Y : State => Y.freeEntry i) (State.released_congr (by rfl) (by rfl) (by rfl) (fun _ => by rfl) none)

/-- Where the figures of the pool alone have moved, no slot has been given up. -/
theorem GaveUp.of_reserve {s t : State} (hu : CellsWF .free s.pool.uses) (hm : CellsWF false s.pool.marks)
    (hpool : t.pool = { s.pool with reserve := t.pool.reserve })
    (hcounter : t.counter .retiredSlots = s.counter .retiredSlots) (poisoned : Option Slot) :
    GaveUp s t [] [] poisoned where
  sublist := .refl _
  freeList := by rw [hpool, List.append_nil]
  others _ _ := by rw [hpool]; exact ⟨rfl, rfl⟩
  each _ h := absurd h List.not_mem_nil
  allRetired _ _ _ h := absurd h List.not_mem_nil
  allFreed _ := rfl
  counter := hcounter
  retired := by rw [hpool]; rfl
  uses := by rw [hpool]; exact hu
  marks := by rw [hpool]; exact hm

/-! ## A live entry detached (R35) -/

/-- The context of a detached stream, its chunks apart. -/
def Context.detached (c : Context) : Context :=
  { c with state := .releasing, cause := some .contextError, notices := .none }

/-- The records of R35: the parity error flagged and counted, DEVICE_ERROR, and STREAM_ABORTED unless RELEASING already. -/
def State.toldDetach (s : State) (i : StreamIndex) (c : Context) : State :=
  let told := (s.noteParity i).raise (.deviceError .tableParity (some i) (some c.tag) none none)
  if c.state = .releasing then told else told.raise (.streamAborted i c.tag .contextError c.committed)

/-- The head reserve without a stream that was in OPEN or HOLD with a slotless head chunk (R81). -/
def State.leftReceiving (X : State) (c : Context) : State :=
  if c.state.receiving && c.headSlotless then X.lowerReserve else X

/-- What detaching a stream makes of the rest of the device. -/
def State.afterDetach (s : State) (i : StreamIndex) (c : Context) : State :=
  (((s.toldDetach i c).leftReceiving c).withoutOffers i).withoutQueue i

/-- The context of a detached stream, its offers withdrawn and its verify queue entries removed. -/
def Context.detachedFrom (c : Context) (offers queued : List Nat) : Context :=
  (c.detached.changeChunks offers ChunkRecord.withdrawn).changeChunks queued ChunkRecord.emptied

theorem Context.detachedFrom_getElem? (c : Context) (offers queued : List Nat) (p : Nat) :
    (c.detachedFrom offers queued).window[p]? =
      (c.window[p]?).map fun r => (r.withdrawnBy (offers.count p)).unqueuedBy (queued.count p) := by
  rw [Context.detachedFrom, Context.changeChunks_getElem?, Context.changeChunks_getElem?, Option.map_map]
  congr 1
  funext r
  simp only [Function.comp_apply, ChunkRecord.withdrawn_iterate, ChunkRecord.emptied_iterate]

theorem ChunkRecord.unqueuedBy_index (r : ChunkRecord) (n : Nat) : (r.unqueuedBy n).index = r.index := by
  unfold ChunkRecord.unqueuedBy; split_ifs <;> rfl

section
variable (s : State) (i : StreamIndex) (c : Context)

@[simp] theorem State.noteParity_setCtx (j : StreamIndex) : (s.setCtx i c).noteParity j = (s.noteParity j).setCtx i c := rfl

@[simp] theorem State.toldDetach_table : (s.toldDetach i c).table = s.table := by
  unfold State.toldDetach; dsimp only; split_ifs <;> simp [State.noteParity]
@[simp] theorem State.toldDetach_lanes : (s.toldDetach i c).lanes = s.lanes := by
  unfold State.toldDetach; dsimp only; split_ifs <;> simp [State.noteParity]
@[simp] theorem State.toldDetach_pool : (s.toldDetach i c).pool = s.pool := by
  unfold State.toldDetach; dsimp only; split_ifs <;> simp [State.noteParity]
@[simp] theorem State.toldDetach_offered : (s.toldDetach i c).offered = s.offered := by
  unfold State.toldDetach; dsimp only; split_ifs <;> simp [State.noteParity]
@[simp] theorem State.toldDetach_verifyQueue : (s.toldDetach i c).verifyQueue = s.verifyQueue := by
  unfold State.toldDetach; dsimp only; split_ifs <;> simp [State.noteParity]
@[simp] theorem State.toldDetach_engine : (s.toldDetach i c).engine = s.engine := by
  unfold State.toldDetach; dsimp only; split_ifs <;> simp [State.noteParity]
@[simp] theorem State.toldDetach_drainMap : (s.toldDetach i c).drainMap = s.drainMap := by
  unfold State.toldDetach; dsimp only; split_ifs <;> simp [State.noteParity]
@[simp] theorem State.counter_noteParity (k : Counter) :
    (s.noteParity i).counter k = if k = .tableParityErrors then (s.counter k).add 1 else s.counter k :=
  State.counter_count _ _ k 1
theorem State.counter_toldDetach {k : Counter} (h : k ≠ .eventsLost) :
    (s.toldDetach i c).counter k = if k = .tableParityErrors then (s.counter k).add 1 else s.counter k := by
  unfold State.toldDetach; dsimp only; split_ifs <;> simp_all

theorem SaysAs.leftReceiving {s t : State} (h : SaysAs s t) (c : Context) : SaysAs s (t.leftReceiving c) := by
  unfold State.leftReceiving
  split_ifs
  · exact ⟨h.events, h.errors, h.time, h.settings⟩
  · exact h

theorem SaysAs.afterDetach {s t : State} (h : SaysAs t (s.toldDetach i c)) : SaysAs t (s.afterDetach i c) := by
  have hleft := h.leftReceiving c
  exact ⟨hleft.events, hleft.errors, hleft.time, hleft.settings⟩

@[simp] theorem State.afterDetach_table : (s.afterDetach i c).table = s.table := by
  unfold State.afterDetach State.leftReceiving; split_ifs <;> simp
@[simp] theorem State.afterDetach_lanes : (s.afterDetach i c).lanes = s.lanes := by
  unfold State.afterDetach State.leftReceiving; split_ifs <;> simp
@[simp] theorem State.afterDetach_offered :
    (s.afterDetach i c).offered = s.offered.filter fun o => decide (o.stream ≠ i) := by
  unfold State.afterDetach State.leftReceiving; split_ifs <;> simp
@[simp] theorem State.afterDetach_verifyQueue :
    (s.afterDetach i c).verifyQueue = s.verifyQueue.filter fun q => decide (q.stream ≠ i) := by
  unfold State.afterDetach State.leftReceiving; split_ifs <;> simp
@[simp] theorem State.afterDetach_pool : (s.afterDetach i c).pool = { s.pool with
    reserve := if c.state.receiving && c.headSlotless then s.pool.reserve - 1 else s.pool.reserve } := by
  unfold State.afterDetach State.leftReceiving; split_ifs <;> simp
@[simp] theorem State.afterDetach_inFlight : (s.afterDetach i c).inFlight i = s.inFlight i := by
  have h : (s.afterDetach i c).engine = s.engine ∧ (s.afterDetach i c).drainMap = s.drainMap := by
    unfold State.afterDetach State.leftReceiving
    split_ifs
    · exact ⟨s.toldDetach_engine i c, s.toldDetach_drainMap i c⟩
    · exact ⟨s.toldDetach_engine i c, s.toldDetach_drainMap i c⟩
  rw [State.inFlight, State.inFlight, h.1, h.2]
theorem State.counter_afterDetach {k : Counter} (h : k ≠ .eventsLost) :
    (s.afterDetach i c).counter k = if k = .tableParityErrors then (s.counter k).add 1 else s.counter k := by
  rw [← s.counter_toldDetach i c h]
  unfold State.afterDetach State.leftReceiving
  split_ifs <;> rfl

theorem State.detach_eq :
    s.detach i c = (s.afterDetach i c).setCtx i (c.detachedFrom (s.offersOf i) (s.queueOf i)) := by
  have htold : (if c.state = .releasing
      then ((s.setCtx i c.detached).noteParity i).raise (.deviceError .tableParity (some i) (some c.tag) none none)
      else (((s.setCtx i c.detached).noteParity i).raise (.deviceError .tableParity (some i) (some c.tag) none none)).raise
        (.streamAborted i c.tag .contextError c.committed)) = (s.toldDetach i c).setCtx i c.detached := by
    unfold State.toldDetach
    split_ifs <;> simp
  have hleft : (if (c.state.receiving && c.headSlotless) = true then ((s.toldDetach i c).setCtx i c.detached).lowerReserve
      else (s.toldDetach i c).setCtx i c.detached) = ((s.toldDetach i c).leftReceiving c).setCtx i c.detached := by
    unfold State.leftReceiving
    split_ifs <;> rfl
  have hoffers : ((s.toldDetach i c).leftReceiving c).offersOf i = s.offersOf i := by
    unfold State.offersOf State.leftReceiving; split_ifs <;> simp
  have hqueue : (((s.toldDetach i c).leftReceiving c).withoutOffers i).queueOf i = s.queueOf i := by
    unfold State.queueOf State.leftReceiving; split_ifs <;> simp
  unfold State.detach
  dsimp only
  rw [show ({ c with state := .releasing, cause := some .contextError, notices := .none } : Context) = c.detached from rfl,
    htold, hleft, State.withdrawOffers_setCtx, State.clearQueue_setCtx, hoffers, hqueue]
  rfl

end

/-! ## The check of one entry -/

section
variable {s : State} {i : StreamIndex} {c : Context}

theorem State.checkParity_free (hw : s.TableWF) (h : s.entry i = ⟨false, none⟩) :
    s.checkParity i = (s.noteParity i).freeEntry i := by
  simp only [State.checkParity, State.handleParity, State.ctx?, h, Bool.false_eq_true, if_false]
  exact State.settle_freeEntry (s := s.noteParity i) hw i

theorem State.checkParity_live (h : s.entry i = ⟨false, some c⟩) : s.checkParity i =
    ((s.afterDetach i c).setCtx i (c.detachedFrom (s.offersOf i) (s.queueOf i))).settle i := by
  simp only [State.checkParity, State.handleParity, State.ctx?, h, Bool.false_eq_true, if_false, State.detach_eq]

/-- A damaged stream with a chunk in flight stays, detached. -/
theorem State.checkParity_inFlight (h : s.entry i = ⟨false, some c⟩) (hf : s.inFlight i = true) : s.checkParity i =
    (s.afterDetach i c).setCtx i (c.detachedFrom (s.offersOf i) (s.queueOf i)).flagsTested := by
  rw [State.checkParity_live h]
  refine State.settle_setCtx _ _ (Context.salvageDone_of_ne ?_) fun _ => ?_
  · rw [show (c.detachedFrom (s.offersOf i) (s.queueOf i)).flagsTested.state = .releasing from rfl]; simp
  · rw [State.afterDetach_inFlight, hf]

/-- A damaged stream with nothing in flight gives its entry back at once. -/
theorem State.checkParity_idle (h : s.entry i = ⟨false, some c⟩) (hf : s.inFlight i = false) : s.checkParity i =
    ((s.afterDetach i c).released i { c with cause := some .contextError } none).freeEntry i := by
  have hindex : ∀ p : Nat, ((c.detachedFrom (s.offersOf i) (s.queueOf i)).window[p]?).map (·.index) =
      (({ c with cause := some .contextError } : Context).window[p]?).map (·.index) := fun p => by
    rw [Context.detachedFrom_getElem?, Option.map_map]
    congr 1
    funext r
    rw [Function.comp_apply, ChunkRecord.unqueuedBy_index, ChunkRecord.withdrawnBy_index]
  rw [State.checkParity_live h, State.settle_released rfl (by rw [State.afterDetach_inFlight, hf])]
  exact congrArg (fun Y : State => Y.freeEntry i) (State.released_congr (by rfl) (by rfl) (by rfl) hindex none)

/-- Every other entry stands, and the one checked has good parity afterwards. -/
theorem State.checkParity_entries (hw : s.TableWF) (i : StreamIndex) :
    OtherEntries s (s.checkParity i) i ∧ ((s.checkParity i).entry i).parityGood = true := by
  rcases he : s.entry i with ⟨good, ctx⟩
  cases good with
  | true =>
    rw [State.checkParity_good (by rw [he])]
    exact ⟨fun _ _ => rfl, by rw [he]⟩
  | false =>
    cases ctx with
    | none =>
      rw [State.checkParity_free hw he]
      have ht : (s.noteParity i).table = s.table := rfl
      exact ⟨otherEntries_freeEntry hw ht i, by rw [entry_freeEntry_self hw ht]; rfl⟩
    | some c =>
      by_cases hf : s.inFlight i = true
      · rw [State.checkParity_inFlight he hf]
        exact ⟨otherEntries_setCtx hw (s.afterDetach_table i c) i _, by rw [State.entry_setCtx_self]⟩
      · rw [State.checkParity_idle he (by simpa using hf)]
        have ht : ((s.afterDetach i c).released i { c with cause := some .contextError } none).table = s.table := by simp
        exact ⟨otherEntries_freeEntry hw ht i, by rw [entry_freeEntry_self hw ht]; rfl⟩

end

/-! ## The lookup (R14) -/

section
variable {s : State} {tag : Nat}

theorem Context.matchesTag_iff (c : Context) (tag : Nat) : c.matchesTag tag = true ↔
    c.tag = tag ∧ tag ≠ 0 ∧ ¬(c.state = .releasing ∧ c.cause = some .contextError) := by
  rw [Context.matchesTag, Bool.and_eq_true, Bool.and_eq_true, decide_eq_true_eq, decide_eq_true_eq, Bool.not_eq_true',
    decide_eq_false_iff_not, and_assoc]

theorem State.matchAt_eq_none (s : State) (tag : Nat) (i : StreamIndex) :
    s.matchAt tag i = none ↔ ∀ c, s.ctx? i = some c → ¬c.matchesTag tag = true := by
  unfold State.matchAt
  cases s.ctx? i <;> simp

theorem State.lookup_bad
    (h : (s.entry (wayOf tag 0)).parityGood = false ∨ (s.entry (wayOf tag 1)).parityGood = false) :
    s.lookup tag = ((s.checkParity (wayOf tag 0)).checkParity (wayOf tag 1), .contextError) := by
  have hnot : ¬((s.entry (wayOf tag 0)).parityGood && (s.entry (wayOf tag 1)).parityGood) = true := by
    rw [Bool.and_eq_true]
    rintro ⟨h0, h1⟩
    rcases h with h | h
    · rw [h0] at h; exact Bool.noConfusion h
    · rw [h1] at h; exact Bool.noConfusion h
  unfold State.lookup
  exact if_neg hnot

theorem State.lookup_good (h0 : (s.entry (wayOf tag 0)).parityGood = true)
    (h1 : (s.entry (wayOf tag 1)).parityGood = true) :
    s.lookup tag = (s, ((s.matchAt tag (wayOf tag 0)).or (s.matchAt tag (wayOf tag 1))).elim .notFound
      fun x => .found x.1 x.2) := by
  unfold State.lookup
  dsimp only
  rw [if_pos (by rw [h0, h1]; rfl)]
  cases (s.matchAt tag (wayOf tag 0)).or (s.matchAt tag (wayOf tag 1)) <;> rfl

theorem State.lookup_contextError_iff (s : State) (tag : Nat) : (s.lookup tag).2 = .contextError ↔
    (s.entry (wayOf tag 0)).parityGood = false ∨ (s.entry (wayOf tag 1)).parityGood = false := by
  refine ⟨fun h => ?_, fun h => congrArg Prod.snd (State.lookup_bad h)⟩
  by_contra hnot
  rw [not_or, Bool.not_eq_false, Bool.not_eq_false] at hnot
  rw [State.lookup_good hnot.1 hnot.2] at h
  cases hx : (s.matchAt tag (wayOf tag 0)).or (s.matchAt tag (wayOf tag 1)) <;> simp [hx] at h

/-- A lookup that is not ended by a parity error has read two sound entries. -/
theorem State.parityGood_of_lookup (h : (s.lookup tag).2 ≠ .contextError) :
    (s.entry (wayOf tag 0)).parityGood = true ∧ (s.entry (wayOf tag 1)).parityGood = true := by
  rwa [Ne, State.lookup_contextError_iff, not_or, Bool.not_eq_false, Bool.not_eq_false] at h

/-- What a lookup finds stands in the tag's row as it says; nothing has changed. -/
theorem State.lookup_found {i : StreamIndex} {c : Context} (h : (s.lookup tag).2 = .found i c) :
    (s.lookup tag).1 = s ∧ (i = wayOf tag 0 ∨ i = wayOf tag 1) ∧ Holds s i c ∧ c.matchesTag tag = true := by
  obtain ⟨h0, h1⟩ := State.parityGood_of_lookup (s := s) (tag := tag) (by rw [h]; simp)
  rw [State.lookup_good h0 h1] at h ⊢
  rcases hx : (s.matchAt tag (wayOf tag 0)).or (s.matchAt tag (wayOf tag 1)) with _ | x
  · rw [hx] at h; exact absurd h (by simp)
  · rw [hx] at h
    obtain ⟨rfl, rfl⟩ := Lookup.found.inj h
    have hholds : ∀ {j}, (s.entry j).parityGood = true → s.ctx? j = some x.2 → Holds s j x.2 := fun {j} hg hc => by
      rw [Holds, ← hg, ← hc]; rfl
    rcases Option.or_eq_some_iff.mp hx with hx | ⟨-, hx⟩
    · obtain ⟨hi, hc, hm⟩ := State.ctx?_of_matchAt hx
      exact ⟨rfl, .inl hi, hi ▸ hholds h0 hc, hm⟩
    · obtain ⟨hi, hc, hm⟩ := State.ctx?_of_matchAt hx
      exact ⟨rfl, .inr hi, hi ▸ hholds h1 hc, hm⟩

theorem State.lookup_notFound_iff (h0 : (s.entry (wayOf tag 0)).parityGood = true)
    (h1 : (s.entry (wayOf tag 1)).parityGood = true) :
    (s.lookup tag).2 = .notFound ↔ s.matchAt tag (wayOf tag 0) = none ∧ s.matchAt tag (wayOf tag 1) = none := by
  rw [State.lookup_good h0 h1]
  cases s.matchAt tag (wayOf tag 0) <;> cases s.matchAt tag (wayOf tag 1) <;> simp

/-- What a lookup that a parity error ends leaves of the table. -/
theorem State.lookup_contextError (hw : s.TableWF) (h : (s.lookup tag).2 = .contextError) :
    ((s.lookup tag).1.entry (wayOf tag 0)).parityGood = true ∧
      ((s.lookup tag).1.entry (wayOf tag 1)).parityGood = true ∧
      ∀ j, j ≠ wayOf tag 0 → j ≠ wayOf tag 1 → (s.lookup tag).1.entry j = s.entry j := by
  rw [State.lookup_bad ((s.lookup_contextError_iff tag).mp h)]
  have hw' := (s.checkParity_evolves (wayOf tag 0)).table hw
  obtain ⟨hothers, hgood⟩ := State.checkParity_entries hw (wayOf tag 0)
  obtain ⟨hothers', hgood'⟩ := State.checkParity_entries hw' (wayOf tag 1)
  exact ⟨(State.checkParity_evolves _ _).parity hw' _ hgood, hgood', fun j h0 h1 => (hothers' j h1).trans (hothers j h0)⟩

/-- Settles O7: a lookup that meets a parity error, or one that reads two sound entries. -/
theorem lookupReadsTheRow : Obligations.LookupReadsTheRow := by
  intro s tag hw a b l
  refine ⟨fun hbad => ?_, fun h0 h1 => ?_⟩
  · have herror : l.2 = .contextError := congrArg Prod.snd (State.lookup_bad hbad)
    obtain ⟨hgood0, hgood1, -⟩ := State.lookup_contextError hw herror
    exact ⟨herror, hgood0, hgood1⟩
  · have hl : l = _ := State.lookup_good h0 h1
    refine ⟨congrArg Prod.fst hl, fun herror => ?_, fun i c hfound => ?_, ?_⟩
    · rcases (s.lookup_contextError_iff tag).mp herror with h | h
      · exact Bool.noConfusion (h0.symm.trans h)
      · exact Bool.noConfusion (h1.symm.trans h)
    · obtain ⟨-, hi, hholds, hmatch⟩ := State.lookup_found hfound
      exact ⟨hi, congrArg Entry.ctx hholds, (c.matchesTag_iff tag).mp hmatch⟩
    · have hnot : ∀ c : Context, ¬c.matchesTag tag = true ↔
          c.tag ≠ tag ∨ tag = 0 ∨ (c.state = .releasing ∧ c.cause = some .contextError) := fun c => by
        rw [Context.matchesTag_iff]; tauto
      rw [State.lookup_notFound_iff h0 h1, State.matchAt_eq_none, State.matchAt_eq_none]
      simp only [hnot]
      constructor
      · rintro ⟨hrow0, hrow1⟩ i c (rfl | rfl) hc
        · exact hrow0 c hc
        · exact hrow1 c hc
      · exact fun h => ⟨fun c hc => h _ c (.inl rfl) hc, fun c hc => h _ c (.inr rfl) hc⟩

end

/-! ## SCRUB (R32) -/

theorem exec_scrub {s Y : State} (h : s.device = .ready) (hY : s.checkParity s.scrubPosition = Y) :
    exec .scrub s = .next ({ Y with scrubPosition := s.scrubPosition + 1 } : State).poolTest := by
  rw [← hY]
  exact if_pos h

/-- What the check of an entry and the advance of the scrub position leave of the device. -/
theorem State.checkParity_frame {s Y : State} {i : StreamIndex} {p : Pool} (h : s.checkParity i = Y)
    (hlanes : Y.lanes = s.lanes) (hpool : Y.pool = p) (pos : StreamIndex) : ({ Y with scrubPosition := pos } : State) =
      { s with scrubPosition := pos, table := Y.table, live := Y.live, errors := Y.errors, events := Y.events,
               offered := Y.offered, verifyQueue := Y.verifyQueue, pool := p } := by
  have hrest := (s.checkParity_op i).rest
  rw [h, hlanes, hpool] at hrest
  exact congrArg (fun Z : State => { Z with scrubPosition := pos }) hrest

/-- What the state looks like to the Event Generator once the records of a detached entry are raised, the rest as before. -/
def State.saidDetach (s : State) (i : StreamIndex) (c : Context) : State :=
  let noted : State := { s with errors := { s.errors with
    tableParity := true, first := s.errors.first.or (some ⟨.tableParity, some i, none, none⟩) } }
  let told := noted.raise (.deviceError .tableParity (some i) (some c.tag) none none)
  if c.state = .releasing then told else told.raise (.streamAborted i c.tag .contextError c.committed)

/-- What SCRUB leaves of the device after a damaged live entry. -/
def ScrubKeeps (s : State) (i : StreamIndex) (c : Context) (u : State) : Prop :=
  u.scrubPosition = i + 1 ∧ u.offered = (s.offered.filter fun o => decide (o.stream ≠ i)) ∧
    u.verifyQueue = (s.verifyQueue.filter fun q => decide (q.stream ≠ i)) ∧
    u.counter .tableParityErrors = (s.counter .tableParityErrors).add 1 ∧
    CountersKept s u [.tableParityErrors, .retiredSlots, .eventsLost] ∧
    u = { s with scrubPosition := u.scrubPosition, table := u.table, live := u.live, errors := u.errors,
                 events := u.events, offered := u.offered, verifyQueue := u.verifyQueue, pool := { s.pool with
                   freeList := u.pool.freeList, uses := u.pool.uses, marks := u.pool.marks
                   reserve := if c.state.receiving && c.headSlotless then s.pool.reserve - 1 else s.pool.reserve } }

section
variable (s : State) (i : StreamIndex) (c : Context)

theorem State.saidDetach_says : SaysAs (s.saidDetach i c) (s.afterDetach i c) := by
  refine SaysAs.afterDetach i c ?_
  have htold := (SaysAs.mk rfl rfl rfl rfl : SaysAs { s with errors := { s.errors with
    tableParity := true, first := s.errors.first.or (some ⟨.tableParity, some i, none, none⟩) } } (s.noteParity i)).raise
      (.deviceError .tableParity (some i) (some c.tag) none none)
  unfold State.saidDetach State.toldDetach
  dsimp only
  split_ifs
  · exact htold
  · exact htold.raise _

@[simp] theorem State.saidDetach_pool : (s.saidDetach i c).pool = s.pool := by
  unfold State.saidDetach; dsimp only; split_ifs <;> simp
@[simp] theorem State.saidDetach_table : (s.saidDetach i c).table = s.table := by
  unfold State.saidDetach; dsimp only; split_ifs <;> simp
theorem State.counter_saidDetach {k : Counter} (h : k ≠ .eventsLost) :
    (s.saidDetach i c).counter k = s.counter k := by
  unfold State.saidDetach; dsimp only; split_ifs <;> simp only [State.counter_raise _ _ h] <;> rfl

end

section
variable {s Y : State} {i : StreamIndex} {c : Context}

theorem scrubKeeps_of_checkParity (hY : s.checkParity i = Y) (hlanes : Y.lanes = s.lanes)
    (hoffered : Y.offered = (s.afterDetach i c).offered) (hqueue : Y.verifyQueue = (s.afterDetach i c).verifyQueue)
    (hpool : Y.pool = { (s.afterDetach i c).pool with
      freeList := Y.pool.freeList, uses := Y.pool.uses, marks := Y.pool.marks })
    (hcounter : ∀ k, k ≠ .eventsLost → k ≠ .retiredSlots → Y.counter k = (s.afterDetach i c).counter k) :
    ScrubKeeps s i c { Y with scrubPosition := i + 1 } := by
  have hnew : ∀ k, k ≠ .eventsLost → k ≠ .retiredSlots →
      Y.counter k = if k = .tableParityErrors then (s.counter k).add 1 else s.counter k :=
    fun k h h' => (hcounter k h h').trans (s.counter_afterDetach i c h)
  rw [s.afterDetach_pool i c] at hpool
  refine ⟨rfl, hoffered.trans (s.afterDetach_offered i c), hqueue.trans (s.afterDetach_verifyQueue i c),
    hnew _ (by simp) (by simp), fun k hk => ?_, State.checkParity_frame hY hlanes hpool _⟩
  simp only [List.mem_cons, not_or] at hk
  exact (hnew k hk.2.2.1 hk.2.1).trans (if_neg hk.1)

/-- A damaged stream with a chunk in flight: it waits in RELEASING. -/
theorem scrubKeeps_inFlight (hbad : s.entry i = ⟨false, some c⟩) (hf : s.inFlight i = true) :
    ScrubKeeps s i c { s.checkParity i with scrubPosition := i + 1 } := by
  have hu := State.checkParity_inFlight hbad hf
  rw [hu]
  exact scrubKeeps_of_checkParity hu (s.afterDetach_lanes i c) (State.setCtx_offered _ _ _) (State.setCtx_verifyQueue _ _ _)
    (State.setCtx_pool _ _ _) fun _ _ _ => State.counter_setCtx _ _ _ _

/-- A damaged stream with nothing in flight: its entry is given back. -/
theorem scrubKeeps_idle (hbad : s.entry i = ⟨false, some c⟩) (hf : s.inFlight i = false) :
    ScrubKeeps s i c { s.checkParity i with scrubPosition := i + 1 } := by
  have hu := State.checkParity_idle hbad hf
  rw [hu]
  refine scrubKeeps_of_checkParity hu ?_ ?_ ?_ (State.released_pool_eq _ _ _ _) fun k hk hk' =>
    State.counter_released _ _ _ _ hk hk'
  · rw [State.freeEntry_lanes, State.released_lanes, State.afterDetach_lanes]
  · rw [State.freeEntry_offered, State.released_offered]
  · rw [State.freeEntry_verifyQueue, State.released_verifyQueue]

/-- Its slots, the entry and the record of its return (R156), seen from the records of R35 on. -/
theorem returnedToFree_idle (hw : s.TableWF) (hcan : CanonicalForm s) (hbad : s.entry i = ⟨false, some c⟩)
    (hf : s.inFlight i = false) :
    ReturnedToFree (s.saidDetach i c) (s.checkParity i) i { c with cause := some .contextError } := by
  have htable : ((s.afterDetach i c).released i { c with cause := some .contextError } none).table = s.table := by simp
  have hsays := s.saidDetach_says i c
  obtain ⟨-, -, -, huses, hmarks⟩ := hcan
  have hgave : GaveUp (s.saidDetach i c) (s.afterDetach i c) [] [] none := by
    refine GaveUp.of_reserve (by simpa using huses) (by simpa using hmarks) (by simp) ?_ none
    rw [State.counter_saidDetach _ _ _ (by simp), State.counter_afterDetach _ _ _ (by simp), if_neg (by simp)]
  obtain ⟨l, hl, hgiven⟩ := hgave.released (i := i) { c with cause := some .contextError }
  rw [State.checkParity_idle hbad hf]
  refine returnedToFree_of_listed (entry_freeEntry_self hw htable i) (fun j hj => ?_) hl hgiven
    (State.released_raised _ _ _ _ hsays.events hsays.errors hsays.time hsays.settings)
  rw [otherEntries_freeEntry hw htable i j hj, State.entry, State.entry, State.saidDetach_table]

/-- The rest of the device of a damaged stream with a chunk in flight. -/
theorem scrub_inFlight (hw : s.TableWF) (hf : s.inFlight i = true) (hbad : s.entry i = ⟨false, some c⟩) {u : State}
    (hu : u = { s.checkParity i with scrubPosition := i + 1 }) :
    OtherEntries s u i ∧ Holds u i (c.detachedFrom (s.offersOf i) (s.queueOf i)).flagsTested ∧
      u.events = (s.saidDetach i c).events ∧ u.errors = (s.saidDetach i c).errors ∧
      u.counter .retiredSlots = s.counter .retiredSlots ∧ u.pool.freeList = s.pool.freeList ∧
      u.pool.uses = s.pool.uses ∧ u.pool.marks = s.pool.marks ∧ ScrubKeeps s i c u := by
  have hkeeps := scrubKeeps_inFlight hbad hf
  rw [← hu] at hkeeps
  have hsays := s.saidDetach_says i c
  rw [State.checkParity_inFlight hbad hf] at hu
  have hpool : u.pool = (s.afterDetach i c).pool := by rw [hu]; rfl
  rw [State.afterDetach_pool] at hpool
  have hcounter : u.counter .retiredSlots = (s.afterDetach i c).counter .retiredSlots := by rw [hu]; rfl
  refine ⟨?_, ?_, ?_, ?_, ?_, ?_, ?_, ?_, hkeeps⟩
  · rw [hu]; exact otherEntries_setCtx hw (s.afterDetach_table i c) i _
  · rw [hu]; exact holds_setCtx _ i _
  · rw [hu]; exact hsays.events
  · rw [hu]; exact hsays.errors
  · rw [hcounter, State.counter_afterDetach _ _ _ (by simp), if_neg (by simp)]
  · rw [hpool]
  · rw [hpool]
  · rw [hpool]

end

/-- A detached context: the state, the cause and the notices, its chunks and its drain flags tested. -/
theorem Context.detachedFrom_eq (c : Context) (offers queued : List Nat) :
    let d := (c.detachedFrom offers queued).flagsTested
    d = { c with state := .releasing, cause := some .contextError, notices := ⟨false, [], false, false, false⟩
                 window := d.window, streaming := d.streaming, flushPending := d.flushPending } := rfl

/-- Settles O51: outside READY, a good entry, a FREE one with bad parity, a live one with a chunk in flight or without. -/
theorem scrubChecksTheEntry : Obligations.ScrubChecksTheEntry := by
  intro s i
  refine ⟨fun hdev => if_neg hdev, fun hs hgood => ?_, fun hs hfree => ?_, fun c hs hbad => ⟨fun hflight => ?_,
    fun hengine hdrain hcan => ?_⟩⟩
  · rw [exec_scrub hs.1 (State.checkParity_good hgood), hs.poolTest_quiet (by rfl) (by rfl) (by rfl)]
  · rw [exec_scrub hs.1 (State.checkParity_free hs.2.1 hfree), hs.poolTest_quiet (by rfl) (by rfl) (by rfl)]
    exact ⟨_, rfl, rfl, entry_freeEntry_self (s := s) (t := s.noteParity i) hs.2.1 rfl i,
      otherEntries_freeEntry (t := s.noteParity i) hs.2.1 rfl i, s.counter_noteParity i, rfl, rfl⟩
  · have hf : s.inFlight i = true := (s.inFlight_iff i).mpr hflight
    generalize hu : ({ s.checkParity i with scrubPosition := i + 1 } : State) = u
    obtain ⟨hothers, hholds, hrest⟩ := scrub_inFlight hs.2.1 hf hbad hu.symm
    refine ⟨u, (c.detachedFrom (s.offersOf i) (s.queueOf i)).flagsTested, ?_, hothers, hholds,
      c.detachedFrom_eq _ _, fun p => ?_, flagsTested_flagsTested (by rfl) (by rfl), hrest⟩
    · rw [← hu]; exact exec_scrub hs.1 rfl
    · rw [← s.count_offersOf, ← s.count_queueOf]
      exact c.detachedFrom_getElem? _ _ p
  · have hf : s.inFlight i = false := State.inFlight_eq_false hengine hdrain
    exact ⟨_, exec_scrub hs.1 rfl, returnedToFree_idle hs.2.1 hcan hbad hf, scrubKeeps_idle hbad hf⟩

end Sys2Proof.Machine
end

section
/-! # The host's commands that name a stream (R26 to R31, R150 to R156): O42 to O45 -/

namespace Sys2Proof.Machine

/-! ## The take of the head of the command queue (R162) -/

/-- The device with the head of its command queue taken. -/
def State.dequeued (s : State) (rest : List (List Byte)) : State := { s with commands := rest }

section
variable (s : State) (rest : List (List Byte)) (i : StreamIndex)

@[simp] theorem State.dequeued_table : (s.dequeued rest).table = s.table := rfl
@[simp] theorem State.dequeued_pool : (s.dequeued rest).pool = s.pool := rfl
@[simp] theorem State.dequeued_settings : (s.dequeued rest).settings = s.settings := rfl
@[simp] theorem State.dequeued_time : (s.dequeued rest).time = s.time := rfl
@[simp] theorem State.dequeued_events : (s.dequeued rest).events = s.events := rfl
@[simp] theorem State.dequeued_errors : (s.dequeued rest).errors = s.errors := rfl
@[simp] theorem State.dequeued_lanes : (s.dequeued rest).lanes = s.lanes := rfl
@[simp] theorem State.dequeued_offered : (s.dequeued rest).offered = s.offered := rfl
@[simp] theorem State.dequeued_verifyQueue : (s.dequeued rest).verifyQueue = s.verifyQueue := rfl
@[simp] theorem State.dequeued_commands : (s.dequeued rest).commands = rest := rfl
@[simp] theorem State.dequeued_responses : (s.dequeued rest).responses = s.responses := rfl
@[simp] theorem State.dequeued_offersOf : (s.dequeued rest).offersOf i = s.offersOf i := rfl
@[simp] theorem State.dequeued_queueOf : (s.dequeued rest).queueOf i = s.queueOf i := rfl
@[simp] theorem State.dequeued_inFlight : (s.dequeued rest).inFlight i = s.inFlight i := rfl
@[simp] theorem State.dequeued_entry : (s.dequeued rest).entry i = s.entry i := rfl
@[simp] theorem State.counter_dequeued (k : Counter) : (s.dequeued rest).counter k = s.counter k := rfl

/-- What a lookup finds does not depend on the command queue. -/
theorem State.lookup_dequeued (tag : Nat) : ((s.dequeued rest).lookup tag).2 = (s.lookup tag).2 := by
  unfold State.lookup
  dsimp only
  by_cases hgood : ((s.entry (wayOf tag 0)).parityGood && (s.entry (wayOf tag 1)).parityGood) = true
  · rw [if_pos hgood, State.dequeued_entry, State.dequeued_entry, if_pos hgood,
      show (s.dequeued rest).matchAt tag = s.matchAt tag from rfl]
    cases (s.matchAt tag (wayOf tag 0)).or (s.matchAt tag (wayOf tag 1)) <;> rfl
  · rw [if_neg hgood, State.dequeued_entry, State.dequeued_entry, if_neg hgood]

end

section
variable {s : State} {code : Nat} {record : List Byte} {rest : List (List Byte)}

/-- In READY the body works on the state without the record, and the watermark test ends the event. -/
theorem State.takeCommand_head {body : State → List Byte → State} (h : HeadCommand s code record rest)
    (hd : s.device = .ready) : s.takeCommand code body = (body (s.dequeued rest) record).poolTest := by
  obtain ⟨hhead, hcode, hroom⟩ := h
  unfold State.takeCommand State.takeWhen
  rw [hhead]
  dsimp only
  rw [if_pos (by simp [hcode, hroom])]
  exact if_pos hd

/-! ## A stream named by its tag (R14) -/

variable {i : StreamIndex} {c d : Context} {x : Instr}

theorem holds_of_lookup {tag : Nat} (hf : (s.lookup tag).2 = .found i c) : Holds s i c :=
  (State.lookup_found hf).2.2.1

/-- The body of a command that names a stream, where the lookup finds it. -/
theorem exec_onStream {f : State → List Byte → State} {body : State → StreamIndex → Context → State}
    (hx : exec x s = .next (s.takeCommand code f))
    (hbody : f (s.dequeued rest) record = (s.dequeued rest).onStream record body) (h : HeadCommand s code record rest)
    (hs : Serving s) (hf : (s.lookup (fieldAt record 4 4)).2 = .found i c) :
    exec x s = .next (body ((s.dequeued rest).setCtx i c) i c).poolTest := by
  have hf' : ((s.dequeued rest).lookup (commandTag record)).2 = .found i c := (s.lookup_dequeued rest _).trans hf
  have hsame : ((s.dequeued rest).lookup (commandTag record)).1 = s.dequeued rest := (State.lookup_found hf').1
  have hwrite : (s.dequeued rest).setCtx i c = s.dequeued rest :=
    State.setCtx_of_holds hs.2.1 (holds_of_lookup hf')
  rw [hx, State.takeCommand_head h hs.1, hbody, hwrite]
  unfold State.onStream
  dsimp only
  rw [hf', hsame]

/-! ## Answers that change the context alone -/

/-- A command answered that changes no more than the context it names. -/
theorem answered_setCtx {status : Status} {data : List Byte} (hs : Serving s)
    (hx : exec x s = .next (((s.dequeued rest).setCtx i d).respond record status data).poolTest) :
    ∃ t, exec x s = .next t ∧ Answered s t record rest status data ∧ OtherEntries s t i ∧ Holds t i d ∧
      t = { s with commands := t.commands, responses := t.responses, table := t.table } := by
  have hquiet : (((s.dequeued rest).setCtx i d).respond record status data).poolTest =
      ((s.dequeued rest).setCtx i d).respond record status data := hs.poolTest_quiet (by rfl) (by rfl) (by rfl)
  rw [hquiet] at hx
  exact ⟨_, hx, ⟨rfl, rfl⟩, otherEntries_setCtx (t := s.dequeued rest) hs.2.1 (by rfl) i d,
    holds_setCtx (s.dequeued rest) i d, rfl⟩

/-- A command answered that changes nothing. -/
theorem answered_unchanged {status : Status} {data : List Byte} (hs : Serving s) (hc : Holds s i c)
    (hx : exec x s = .next (((s.dequeued rest).setCtx i c).respond record status data).poolTest) :
    ∃ t, exec x s = .next t ∧ Answered s t record rest status data ∧
      t = { s with commands := t.commands, responses := t.responses } := by
  have hwrite : (s.dequeued rest).setCtx i c = s.dequeued rest := State.setCtx_of_holds hs.2.1 hc
  have hquiet : ((s.dequeued rest).respond record status data).poolTest =
      (s.dequeued rest).respond record status data := hs.poolTest_quiet (by rfl) (by rfl) (by rfl)
  rw [hwrite, hquiet] at hx
  exact ⟨_, hx, ⟨rfl, rfl⟩, rfl⟩

end

/-! ## EXTEND and FLUSH (R30, R31) -/

theorem receiving_iff (st : StreamState) : st.receiving = true ↔ st = .opened ∨ st = .hold := by
  cases st <;> simp [StreamState.receiving]

section
variable {s : State} {record : List Byte} {rest : List (List Byte)} {i : StreamIndex} {c : Context}

theorem exec_extend (h : HeadCommand s 6 record rest) (hs : Serving s)
    (hf : (s.lookup (fieldAt record 4 4)).2 = .found i c) :
    exec .extendCmd s = .next (let t := (s.dequeued rest).setCtx i c
      if c.state.receiving = false then t.respond record .wrongState []
      else if extendCap record < c.cap then t.respond record .badParam []
      else ((s.dequeued rest).setCtx i (c.extended (extendCap record) (extendReserve record))).respond record .done
        (le 8 (extendCap record) ++ le 8 (extendReserve record))).poolTest := by
  have hx := exec_onStream (x := .extendCmd) (by rfl) (by rfl) h hs hf
  rw [hx, State.setCtx_setCtx]

theorem exec_flush (h : HeadCommand s 7 record rest) (hs : Serving s)
    (hf : (s.lookup (fieldAt record 4 4)).2 = .found i c) :
    exec .flushCmd s = .next (let t := (s.dequeued rest).setCtx i c
      if c.state.receiving = true then ((t.setCtx i { c with flushPending := true }).settle i).respond record .done []
      else t.respond record .wrongState []).poolTest :=
  exec_onStream (x := .flushCmd) (by rfl) (by rfl) h hs hf

end

theorem Context.windowEnd_eq (c : Context) : c.windowEnd =
    min (min (c.committed + 65536 * c.w) (65536 * c.cap)) (c.final.getD (65536 * c.cap)) := by
  unfold Context.windowEnd Context.capacityEnd
  cases c.final <;> simp [Config.chunkSize]

/-- COMMIT is added to the notices when the window end rises (R30). -/
theorem Context.extended_eq (c : Context) (cap reserve : Nat) :
    let e : Nat → Nat := fun top => min (min (c.committed + 65536 * c.w) (65536 * top)) (c.final.getD (65536 * top))
    c.extended cap reserve = { c with
      cap := cap, reserve := reserve, earlyWarningIssued := false, capacityReached := false
      notices := { c.notices with commit := c.notices.commit || decide (e c.cap < e cap) } } := by
  intro e
  have hbefore : c.windowEnd = e c.cap := c.windowEnd_eq
  have hafter : ({ c with cap := cap, reserve := reserve, earlyWarningIssued := false, capacityReached := false } :
      Context).windowEnd = e cap := Context.windowEnd_eq _
  unfold Context.extended
  dsimp only
  rw [hbefore, hafter]
  by_cases hrise : e c.cap < e cap
  · simp [hrise, Context.notify, NoticeSet.addCommit]
  · simp [hrise]

/-- A chunk not VERIFIED at the frontier clears flush pending again at the same event (R114). -/
theorem Context.flushing_flagsTested (c : Context) : ({ c with flushPending := true } : Context).flagsTested = { c with
    flushPending := c.frontierVerified, streaming := c.streaming && (c.frontierVerified || c.inWritersHands) } := by
  unfold Context.flagsTested
  rw [Bool.true_and]
  rfl

/-- Settles O45: EXTEND and FLUSH in OPEN and HOLD, and the refusals. -/
theorem extendAndFlushWhileReceiving : Obligations.ExtendAndFlushWhileReceiving := by
  intro s record rest i c code h hs hf
  have hc := holds_of_lookup hf
  refine ⟨?_, ?_, ?_⟩
  · rintro rfl hrec hcap
    have hx := exec_extend h hs hf
    rw [if_neg (by simp [hrec]), if_neg (show ¬extendCap record < c.cap from Nat.not_lt.mpr hcap), c.extended_eq] at hx
    exact answered_setCtx hs hx
  · rintro rfl hrec
    have hx := exec_flush h hs hf
    have hlive : c.state ≠ .salvaging ∧ c.state ≠ .releasing := by
      rcases (receiving_iff c.state).mp hrec with h | h <;> simp [h]
    rw [if_pos hrec, State.setCtx_setCtx, State.settle_live _ i (by exact hlive.1) (by exact hlive.2),
      c.flushing_flagsTested] at hx
    exact answered_setCtx hs hx
  · rintro x status (⟨rfl, rfl, rfl, hrec, hcap⟩ | ⟨rfl, rfl, rfl, hrec⟩ | ⟨rfl, rfl, rfl, hrec⟩)
    · have hx := exec_extend h hs hf
      rw [if_neg (by simp [hrec]), if_pos (show extendCap record < c.cap from hcap)] at hx
      exact answered_unchanged hs hc hx
    · have hx := exec_extend h hs hf
      rw [if_pos hrec] at hx
      exact answered_unchanged hs hc hx
    · have hx := exec_flush h hs hf
      rw [if_neg (by simp [hrec])] at hx
      exact answered_unchanged hs hc hx

end Sys2Proof.Machine
end

section
/-! # RELEASE and SALVAGE (R28, R29, R152 to R156): O43, O44 -/

namespace Sys2Proof.Machine

/-! ## Entry to RELEASING (R154) -/

/-- The context of a stream that releases, the positions of its offers given. -/
def Context.releasingFrom (c : Context) (cause : Option Cause) (offers : List Nat) : Context :=
  ({ c with state := .releasing, cause := cause, notices := .none } : Context).changeChunks offers ChunkRecord.withdrawn

theorem Context.releasingFrom_getElem? (c : Context) (cause : Option Cause) (offers : List Nat) (p : Nat) :
    (c.releasingFrom cause offers).window[p]? = (c.window[p]?).map fun r => r.withdrawnBy (offers.count p) := by
  rw [Context.releasingFrom, Context.changeChunks_getElem?]
  congr 1
  funext r
  exact ChunkRecord.withdrawn_iterate _ _

theorem State.enterReleasing_setCtx (X : State) (i : StreamIndex) (c : Context) (cause : Option Cause) :
    (X.setCtx i c).enterReleasing i cause = (X.withoutOffers i).setCtx i (c.releasingFrom cause (X.offersOf i)) := by
  rw [State.enterReleasing, State.modifyCtx_setCtx, State.withdrawOffers_setCtx]
  rfl

section
variable {X : State} {i : StreamIndex} {c : Context}

/-- A stream that releases with a chunk in flight waits for it. -/
theorem State.settle_enterReleasing_inFlight (hf : X.inFlight i = true) :
    ((X.setCtx i c).enterReleasing i c.cause).settle i =
      (X.withoutOffers i).setCtx i (c.releasingFrom c.cause (X.offersOf i)).flagsTested := by
  have hstate : (c.releasingFrom c.cause (X.offersOf i)).flagsTested.state = .releasing := rfl
  rw [State.enterReleasing_setCtx]
  exact State.settle_setCtx _ i (Context.salvageDone_of_ne (by rw [hstate]; simp)) fun _ => hf

/-- A stream that releases with nothing in flight returns its entry at once. -/
theorem State.settle_enterReleasing_idle (hf : X.inFlight i = false) :
    ((X.setCtx i c).enterReleasing i c.cause).settle i = ((X.withoutOffers i).released i c none).freeEntry i := by
  have hindex : ∀ p : Nat, ((c.releasingFrom c.cause (X.offersOf i)).window[p]?).map (·.index) =
      (c.window[p]?).map (·.index) := fun p => by
    rw [Context.releasingFrom_getElem?, Option.map_map]
    congr 1
    funext r
    exact r.withdrawnBy_index _
  rw [State.enterReleasing_setCtx, State.settle_released (by rfl) (by exact hf)]
  exact congrArg (fun Y : State => Y.freeEntry i) (State.released_congr (by rfl) (by rfl) (by rfl) hindex none)

end

/-! ## The two commands -/

section
variable {s : State} {record : List Byte} {rest : List (List Byte)} {i : StreamIndex} {c : Context}

theorem exec_release (h : HeadCommand s 4 record rest) (hs : Serving s)
    (hf : (s.lookup (fieldAt record 4 4)).2 = .found i c) :
    exec .releaseCmd s = .next (let t := (s.dequeued rest).setCtx i c
      match c.state with
      | .aborted => ((t.enterReleasing i c.cause).settle i).respond record .done []
      | .salvaging => ((t.enterReleasing i c.cause).settle i).respond record .done []
      | .releasing => t.respond record .done []
      | .opened => t.respond record .wrongState []
      | .hold => t.respond record .wrongState []
      | .complete => t.respond record .wrongState []).poolTest :=
  exec_onStream (x := .releaseCmd) (by rfl) (by rfl) h hs hf

theorem exec_salvage (h : HeadCommand s 5 record rest) (hs : Serving s)
    (hf : (s.lookup (fieldAt record 4 4)).2 = .found i c) :
    exec .salvageCmd s = .next (if c.state = .aborted ∧ c.pattern = false then
        (((s.dequeued rest).setCtx i { c with state := .salvaging }).settle i).respond record .done []
      else ((s.dequeued rest).setCtx i c).respond record .wrongState []).poolTest := by
  have hx := exec_onStream (x := .salvageCmd) (by rfl) (by rfl) h hs hf
  rw [hx, State.setCtx_setCtx]

/-- RELEASE in the states it takes a stream out of. -/
theorem exec_release_leaving (h : HeadCommand s 4 record rest) (hs : Serving s)
    (hf : (s.lookup (fieldAt record 4 4)).2 = .found i c) (hstate : c.state = .aborted ∨ c.state = .salvaging) :
    exec .releaseCmd s = .next
      (((((s.dequeued rest).setCtx i c).enterReleasing i c.cause).settle i).respond record .done []).poolTest := by
  rw [exec_release h hs hf]
  rcases hstate with hstate | hstate <;> rw [hstate]

end

/-- The salvage of a stream has nothing to drain (R153). -/
theorem Context.salvageDone_salvaging (c : Context) :
    ({ c with state := .salvaging } : Context).flagsTested.salvageDone = true ↔
      c.readyRun = [] ∧ ∀ r ∈ c.window, r.state ≠ .verifying ∧ r.state ≠ .offered ∧ r.state ≠ .taken := by
  rw [← Context.salvageOver_iff]
  exact ⟨fun h => h.2, fun h => ⟨rfl, h⟩⟩

/-! ## A stream with work left (O44) -/

section
variable {s : State} {record : List Byte} {rest : List (List Byte)} {i : StreamIndex} {c : Context}

/-- SALVAGE of a stream with a ready run or a chunk on its way. -/
theorem salvage_withWork (h : HeadCommand s 5 record rest) (hs : Serving s)
    (hf : (s.lookup (fieldAt record 4 4)).2 = .found i c) (hstate : c.state = .aborted) (hpattern : c.pattern = false)
    (hwork : c.readyRun ≠ [] ∨ ∃ r ∈ c.window, r.state = .verifying ∨ r.state = .offered ∨ r.state = .taken) :
    exec .salvageCmd s = .next (((s.dequeued rest).setCtx i ({ c with state := .salvaging } : Context).flagsTested).respond
      record .done []).poolTest := by
  have hleft : ({ c with state := .salvaging } : Context).flagsTested.salvageDone = false := by
    rw [← Bool.not_eq_true, Context.salvageDone_salvaging]
    rintro ⟨hrun, hnone⟩
    rcases hwork with hwork | ⟨r, hr, hwork⟩
    · exact hwork hrun
    · have := hnone r hr
      tauto
  rw [exec_salvage h hs hf, if_pos ⟨hstate, hpattern⟩, State.settle_setCtx _ i hleft (by simp)]

/-- RELEASE of a stream with a chunk in flight. -/
theorem release_inFlight (h : HeadCommand s 4 record rest) (hs : Serving s)
    (hf : (s.lookup (fieldAt record 4 4)).2 = .found i c) (hstate : c.state = .aborted ∨ c.state = .salvaging)
    (hflight : s.inFlight i = true) :
    exec .releaseCmd s = .next ((((s.dequeued rest).withoutOffers i).setCtx i
      (c.releasingFrom c.cause (s.offersOf i)).flagsTested).respond record .done []) := by
  rw [exec_release_leaving h hs hf hstate, State.settle_enterReleasing_inFlight (by exact hflight)]
  exact congrArg Host.Outcome.next (hs.poolTest_quiet (by rfl) (by rfl) (by rfl))

end

/-- Settles O44: SALVAGE with work left, RELEASE with a chunk in flight, and the answers that change nothing. -/
theorem salvageAndReleaseMoveTheStream : Obligations.SalvageAndReleaseMoveTheStream := by
  intro s record rest i c code h hs hf
  have hc := holds_of_lookup hf
  refine ⟨?_, ?_, ?_⟩
  · rintro rfl hstate hpattern hwork
    obtain ⟨t, hx, hanswer, hothers, hholds, hrest⟩ :=
      answered_setCtx hs (salvage_withWork h hs hf hstate hpattern hwork)
    exact ⟨t, _, hx, hanswer, hothers, hholds, rfl, flagsTested_flagsTested (by rfl) (by rfl), hrest⟩
  · rintro rfl hstate hflight
    refine ⟨_, (c.releasingFrom c.cause (s.offersOf i)).flagsTested,
      release_inFlight h hs hf hstate ((s.inFlight_iff i).mpr hflight), ⟨rfl, rfl⟩,
      otherEntries_setCtx (t := (s.dequeued rest).withoutOffers i) hs.2.1 (by rfl) i _,
      holds_setCtx ((s.dequeued rest).withoutOffers i) i _, rfl, fun p => ?_,
      flagsTested_flagsTested (by rfl) (by rfl), rfl, rfl⟩
    rw [← s.count_offersOf]
    exact c.releasingFrom_getElem? _ _ p
  · rintro x status (⟨rfl, rfl, rfl, hstate⟩ | ⟨rfl, rfl, rfl, hstate⟩ | ⟨rfl, rfl, rfl, hstate⟩)
    · have hx := exec_salvage h hs hf
      rw [if_neg (by rintro ⟨h1, h2⟩; simp [h1, h2] at hstate)] at hx
      exact answered_unchanged hs hc hx
    · have hx := exec_release h hs hf
      rw [receiving_iff, or_assoc] at hstate
      rcases hstate with hstate | hstate | hstate <;> (rw [hstate] at hx; exact answered_unchanged hs hc hx)
    · have hx := exec_release h hs hf
      rw [hstate] at hx
      exact answered_unchanged hs hc hx

/-! ## The entry returned at once (O43) -/

theorem State.raise_eq (X : State) (e : Event) :
    X.raise e = { X with events := (X.raise e).events, live := (X.raise e).live, errors := (X.raise e).errors } := by
  unfold State.raise
  split_ifs <;> rfl

theorem State.released_eq (X : State) (i : StreamIndex) (c : Context) (forced : Option Nat) :
    X.released i c forced = { X with
      pool := (X.released i c forced).pool, events := (X.released i c forced).events
      live := (X.released i c forced).live, errors := (X.released i c forced).errors } := by
  unfold State.released
  rw [State.raise_eq, State.giveUpAll_eq]

section
variable {s : State} {record : List Byte} {rest : List (List Byte)} {i : StreamIndex} {c : Context}

/-- The device once the entry is returned and the command answered. -/
def State.answeredFree (s : State) (record : List Byte) (rest : List (List Byte)) (i : StreamIndex) (c : Context) : State :=
  ((((s.dequeued rest).withoutOffers i).released i c none).freeEntry i).respond record .done []

theorem release_idle (h : HeadCommand s 4 record rest) (hs : Serving s)
    (hf : (s.lookup (fieldAt record 4 4)).2 = .found i c) (hstate : c.state = .aborted ∨ c.state = .salvaging)
    (hflight : s.inFlight i = false) : exec .releaseCmd s = .next (s.answeredFree record rest i c).poolTest := by
  rw [exec_release_leaving h hs hf hstate, State.settle_enterReleasing_idle (by exact hflight)]
  rfl

theorem salvage_idle (h : HeadCommand s 5 record rest) (hs : Serving s)
    (hf : (s.lookup (fieldAt record 4 4)).2 = .found i c) (hstate : c.state = .aborted) (hpattern : c.pattern = false)
    (hrun : c.readyRun = []) (hnone : ∀ r ∈ c.window, r.state ≠ .verifying ∧ r.state ≠ .offered ∧ r.state ≠ .taken)
    (hflight : s.inFlight i = false) : exec .salvageCmd s = .next (s.answeredFree record rest i c).poolTest := by
  rw [exec_salvage h hs hf, if_pos ⟨hstate, hpattern⟩,
    State.settle_salvageOver (c.salvageDone_salvaging.mpr ⟨hrun, hnone⟩) (by exact hflight),
    State.released_congr (c := c) (by rfl) (by rfl) (by rfl) (fun _ => by rfl) none]
  rfl

theorem answeredFree_returned (hs : Serving s) (hcan : CanonicalForm s) :
    ReturnedToFree s (s.answeredFree record rest i c) i c := by
  have ht : (((s.dequeued rest).withoutOffers i).released i c none).table = s.table := by simp
  obtain ⟨-, -, -, huses, hmarks⟩ := hcan
  have hgave : GaveUp s ((s.dequeued rest).withoutOffers i) [] [] none :=
    (GaveUp.refl huses hmarks none).congr rfl rfl rfl rfl
  obtain ⟨l, hl, hgiven⟩ := hgave.released (i := i) c
  exact returnedToFree_of_listed (entry_freeEntry_self hs.2.1 ht i) (otherEntries_freeEntry hs.2.1 ht i) hl hgiven
    (State.released_raised _ _ _ _ (by rfl) (by rfl) (by rfl) (by rfl))

theorem answeredFree_counters : CountersKept s (s.answeredFree record rest i c) [.retiredSlots, .eventsLost] := by
  intro k hk
  simp only [List.mem_cons, List.not_mem_nil, or_false, not_or] at hk
  exact State.counter_released ((s.dequeued rest).withoutOffers i) i c none hk.2 hk.1

theorem answeredFree_offered :
    (s.answeredFree record rest i c).offered = s.offered.filter fun o => decide (o.stream ≠ i) :=
  State.released_offered ((s.dequeued rest).withoutOffers i) i c none

theorem answeredFree_rest {u : State} (hu : u = s.answeredFree record rest i c) :
    u = { s with commands := u.commands, responses := u.responses, table := u.table, offered := u.offered,
                 events := u.events, live := u.live, errors := u.errors,
                 pool := { s.pool with freeList := u.pool.freeList, uses := u.pool.uses, marks := u.pool.marks } } := by
  have hpool : u.pool = { s.pool with freeList := u.pool.freeList, uses := u.pool.uses, marks := u.pool.marks } := by
    rw [hu]
    exact State.released_pool_eq ((s.dequeued rest).withoutOffers i) i c none
  rw [← hpool, hu, State.answeredFree, State.released_eq]
  rfl

end

/-- Settles O43: RELEASE and SALVAGE come to the same return of the entry. -/
theorem releaseReturnsTheEntry : Obligations.ReleaseReturnsTheEntry := by
  intro s record rest i c code x h hs hcan hf hengine hdrain hcase
  have hflight := State.inFlight_eq_false hengine hdrain
  have hx : exec x s = .next (s.answeredFree record rest i c).poolTest := by
    rcases hcase with ⟨rfl, rfl, hstate⟩ | ⟨rfl, rfl, hstate, hpattern, hrun, hnone⟩
    · exact release_idle h hs hf hstate hflight
    · exact salvage_idle h hs hf hstate hpattern hrun hnone hflight
  have hcommands : (s.answeredFree record rest i c).commands = rest := by
    rw [State.answeredFree, State.released_eq]; rfl
  have hresponses : (s.answeredFree record rest i c).responses =
      s.responses ++ [⟨commandCode record, .done, commandId record, []⟩] := by
    rw [State.answeredFree, State.released_eq]; rfl
  exact ⟨_, hx, ⟨hcommands, hresponses⟩, answeredFree_returned hs hcan, answeredFree_offered, answeredFree_counters,
    answeredFree_rest rfl⟩

end Sys2Proof.Machine
end

section
/-! # CLOSE and ABORT (R26, R27, R150): O42 -/

namespace Sys2Proof.Machine

section
variable {s : State} {record : List Byte} {rest : List (List Byte)} {i : StreamIndex} {c : Context}

theorem exec_close (h : HeadCommand s 2 record rest) (hs : Serving s)
    (hf : (s.lookup (fieldAt record 4 4)).2 = .found i c) :
    exec .closeCmd s = .next (if c.state = .complete then ((s.dequeued rest).freeEntry i).respond record .done []
      else ((s.dequeued rest).setCtx i c).respond record .wrongState []).poolTest := by
  have hx := exec_onStream (x := .closeCmd) (by rfl) (by rfl) h hs hf
  rw [hx, State.freeEntry, State.setEntry_setCtx]
  rfl

theorem exec_abort (h : HeadCommand s 3 record rest) (hs : Serving s)
    (hf : (s.lookup (fieldAt record 4 4)).2 = .found i c) :
    exec .abortCmd s = .next (let t := (s.dequeued rest).setCtx i c
      match c.state with
      | .opened => ((t.enterAborted i .hostAbort none).settle i).respond record .done []
      | .hold => ((t.enterAborted i .hostAbort none).settle i).respond record .done []
      | .aborted => t.respond record .done []
      | .complete => t.respond record .wrongState []
      | .salvaging => t.respond record .wrongState []
      | .releasing => t.respond record .wrongState []).poolTest :=
  exec_onStream (x := .abortCmd) (by rfl) (by rfl) h hs hf

/-! ## CLOSE -/

theorem close_complete (h : HeadCommand s 2 record rest) (hs : Serving s)
    (hf : (s.lookup (fieldAt record 4 4)).2 = .found i c) (hstate : c.state = .complete) :
    exec .closeCmd s = .next (((s.dequeued rest).freeEntry i).respond record .done []) := by
  rw [exec_close h hs hf, if_pos hstate]
  exact congrArg Host.Outcome.next (hs.poolTest_quiet (by rfl) (by rfl) (by rfl))

theorem close_other (h : HeadCommand s 2 record rest) (hs : Serving s)
    (hf : (s.lookup (fieldAt record 4 4)).2 = .found i c) (hstate : c.state ≠ .complete) :
    ∃ t, exec .closeCmd s = .next t ∧ Answered s t record rest .wrongState [] ∧
      t = { s with commands := t.commands, responses := t.responses } := by
  have hx := exec_close h hs hf
  rw [if_neg hstate] at hx
  exact answered_unchanged hs (holds_of_lookup hf) hx

/-! ## ABORT in OPEN and HOLD -/

/-- The departure of one slotless head crosses no watermark below `RoomBelowHigh`. -/
theorem Serving.poolTest_leftReserve {t : State} (hs : Serving s) (hroom : RoomBelowHigh s) (c : Context)
    (hpool : t.pool = { s.pool with reserve := if c.headSlotless then s.pool.reserve - 1 else s.pool.reserve })
    (hsettings : t.settings = s.settings) : t.poolTest = t := by
  obtain ⟨-, -, hok, hlow⟩ := hs
  have hspare : t.pool.spare = s.pool.free - if c.headSlotless then s.pool.reserve - 1 else s.pool.reserve := by
    rw [hpool]; rfl
  have hstate : t.pool.state = s.pool.state := by rw [hpool]
  refine State.poolTest_quiet (fun h => ?_) fun h => ?_
  · have := hok (hstate ▸ h)
    rw [hsettings, hspare]
    unfold Pool.spare at this
    split_ifs <;> omega
  · have := hroom (hstate ▸ h)
    rw [hsettings, hspare]
    unfold Pool.spare at this
    split_ifs <;> omega

/-- The device once a stream has left the head reserve, without its offers and its verify queue entries. -/
def State.afterAbort (s : State) (i : StreamIndex) (c : Context) : State :=
  ((((s.leftReserve c).withoutOffers i).withoutQueue i).raise (.streamAborted i c.tag .hostAbort c.committed))

/-- The context of a stream the host aborts, its offers and its verify queue entries given. -/
def Context.hostAborted (c : Context) (offers queued : List Nat) : Context :=
  ((c.abortedFor .hostAbort).stopped offers queued).flagsTested

theorem abort_receiving (h : HeadCommand s 3 record rest) (hs : Serving s)
    (hf : (s.lookup (fieldAt record 4 4)).2 = .found i c) (hstate : c.state.receiving = true) (hroom : RoomBelowHigh s) :
    exec .abortCmd s = .next ((((s.dequeued rest).afterAbort i c).setCtx i
      (c.hostAborted (s.offersOf i) (s.queueOf i))).respond record .done []) := by
  have hpool : ((s.dequeued rest).leftReserve c).pool =
      { s.pool with reserve := if c.headSlotless then s.pool.reserve - 1 else s.pool.reserve } := State.leftReserve_pool _ c
  have hquiet : ((s.dequeued rest).leftReserve c).poolTest = (s.dequeued rest).leftReserve c :=
    hs.poolTest_leftReserve hroom c hpool (State.leftReserve_settings _ c)
  have hoffers : ((s.dequeued rest).leftReserve c).offersOf i = s.offersOf i := by
    unfold State.offersOf; rw [State.leftReserve_offered]; rfl
  have hqueue : ((s.dequeued rest).leftReserve c).queueOf i = s.queueOf i := by
    unfold State.queueOf; rw [State.leftReserve_verifyQueue]; rfl
  have habort : (((s.dequeued rest).setCtx i c).enterAborted i .hostAbort none).settle i =
      ((s.dequeued rest).afterAbort i c).setCtx i (c.hostAborted (s.offersOf i) (s.queueOf i)) := by
    rw [State.enterAborted_setCtx (retiring := none) (by rfl) hquiet, hoffers, hqueue]
    have hstate : ((c.abortedFor .hostAbort).stopped (s.offersOf i) (s.queueOf i)).state = .aborted := rfl
    exact State.settle_live _ i (by rw [hstate]; simp) (by rw [hstate]; simp)
  have hlast : ((((s.dequeued rest).afterAbort i c).setCtx i (c.hostAborted (s.offersOf i) (s.queueOf i))).respond
      record .done []).poolTest = (((s.dequeued rest).afterAbort i c).setCtx i
        (c.hostAborted (s.offersOf i) (s.queueOf i))).respond record .done [] := by
    refine hs.poolTest_leftReserve hroom c ?_ ?_
    · rw [State.respond_pool, State.setCtx_pool, State.afterAbort, State.raise_pool]; exact hpool
    · rw [State.respond_settings, State.setCtx_settings, State.afterAbort, State.raise_settings]
      exact State.leftReserve_settings _ c
  rw [exec_abort h hs hf, ← hlast, ← habort]
  rcases (receiving_iff c.state).mp hstate with hstate | hstate <;> rw [hstate]

end

/-! ## What ABORT leaves -/

theorem State.afterAbort_pool (s : State) (i : StreamIndex) (c : Context) : (s.afterAbort i c).pool =
    { s.pool with reserve := if c.headSlotless then s.pool.reserve - 1 else s.pool.reserve } := by
  rw [State.afterAbort, State.raise_pool]
  exact s.leftReserve_pool c

theorem State.afterAbort_offered (s : State) (i : StreamIndex) (c : Context) :
    (s.afterAbort i c).offered = s.offered.filter fun o => decide (o.stream ≠ i) := by simp [State.afterAbort]

theorem State.afterAbort_verifyQueue (s : State) (i : StreamIndex) (c : Context) :
    (s.afterAbort i c).verifyQueue = s.verifyQueue.filter fun q => decide (q.stream ≠ i) := by simp [State.afterAbort]

theorem State.afterAbort_raised (s : State) (i : StreamIndex) (c : Context) :
    Raised s (s.afterAbort i c) (.streamAborted i c.tag .hostAbort c.committed) :=
  ⟨State.raise_events_congr (by simp) (by simp) (by simp) _, State.raise_errors_congr (by simp) (by simp) (by simp) _⟩

theorem State.counter_afterAbort (s : State) (i : StreamIndex) (c : Context) {k : Counter} (hk : k ≠ .eventsLost) :
    (s.afterAbort i c).counter k = s.counter k := by simp [State.afterAbort, hk]

/-- The rest of the device stands. -/
theorem State.afterAbort_eq (s : State) (i : StreamIndex) (c : Context) : s.afterAbort i c = { s with
    pool := (s.afterAbort i c).pool, offered := (s.afterAbort i c).offered, verifyQueue := (s.afterAbort i c).verifyQueue
    events := (s.afterAbort i c).events, live := (s.afterAbort i c).live, errors := (s.afterAbort i c).errors } := by
  unfold State.afterAbort State.leftReserve
  split_ifs <;> rw [State.raise_eq] <;> rfl

theorem State.afterAbort_table (s : State) (i : StreamIndex) (c : Context) : (s.afterAbort i c).table = s.table := by
  rw [State.afterAbort_eq]

theorem Context.hostAborted_getElem? (c : Context) (offers queued : List Nat) (p : Nat) :
    (c.hostAborted offers queued).window[p]? =
      (c.window[p]?).map fun r => r.atAbort (offers.count p) (queued.count p) :=
  (c.abortedFor .hostAbort).stopped_getElem? offers queued p

section
variable {s : State} {record : List Byte} {rest : List (List Byte)} {i : StreamIndex} {c d : Context} {t : State}

theorem enteredAborted_hostAbort (hw : s.TableWF) (hd : d = c.hostAborted (s.offersOf i) (s.queueOf i))
    (ht : t = (((s.dequeued rest).afterAbort i c).setCtx i d).respond record .done []) :
    EnteredAborted s t i c d .hostAbort := by
  have htable : ((s.dequeued rest).afterAbort i c).table = s.table := State.afterAbort_table _ i c
  refine ⟨by rw [hd]; rfl, fun p => ?_, ?_, ?_, ?_, ?_, ?_, ?_⟩
  · rw [hd, c.hostAborted_getElem?, s.count_offersOf, s.count_queueOf]
  · rw [hd]; exact flagsTested_flagsTested (by rfl) (by rfl)
  · rw [ht]; exact holds_setCtx _ i d
  · rw [ht]; exact otherEntries_setCtx hw htable i d
  · rw [ht]; exact State.afterAbort_offered (s.dequeued rest) i c
  · rw [ht]; exact State.afterAbort_verifyQueue (s.dequeued rest) i c
  · have hraised := State.afterAbort_raised (s.dequeued rest) i c
    rw [ht]
    exact ⟨hraised.1.trans (State.raise_events_congr (by rfl) (by rfl) (by rfl) _),
      hraised.2.trans (State.raise_errors_congr (by rfl) (by rfl) (by rfl) _)⟩

theorem hostAbort_rest (ht : t = (((s.dequeued rest).afterAbort i c).setCtx i d).respond record .done []) :
    Answered s t record rest .done [] ∧
      t.pool = { s.pool with reserve := if c.headSlotless then s.pool.reserve - 1 else s.pool.reserve } ∧
      CountersKept s t [.eventsLost] ∧
      t = { s with commands := t.commands, responses := t.responses, table := t.table, pool := t.pool
                   offered := t.offered, verifyQueue := t.verifyQueue, events := t.events, live := t.live
                   errors := t.errors } := by
  have hpool := State.afterAbort_pool (s.dequeued rest) i c
  have hcounter : CountersKept s ((s.dequeued rest).afterAbort i c) [.eventsLost] := fun k hk =>
    State.counter_afterAbort (s.dequeued rest) i c (by simpa using hk)
  have hrest := State.afterAbort_eq (s.dequeued rest) i c
  generalize (s.dequeued rest).afterAbort i c = X at ht hpool hcounter hrest
  rw [ht]
  refine ⟨⟨?_, ?_⟩, hpool, hcounter, ?_⟩
  · rw [hrest]; rfl
  · rw [hrest]; rfl
  · rw [hrest]; rfl

end

/-- Settles O42: CLOSE in COMPLETE and elsewhere, ABORT in OPEN or HOLD, and the answers that change nothing. -/
theorem closeAndAbortEndTheStream : Obligations.CloseAndAbortEndTheStream := by
  intro s record rest i c code h hs hf
  have hc := holds_of_lookup hf
  refine ⟨?_, ?_, ?_⟩
  · rintro rfl
    by_cases hstate : c.state = .complete
    · exact ⟨_, close_complete h hs hf hstate, fun _ => ⟨⟨rfl, rfl⟩,
        entry_freeEntry_self (t := s.dequeued rest) hs.2.1 (by rfl) i,
        otherEntries_freeEntry (t := s.dequeued rest) hs.2.1 (by rfl) i, rfl⟩, fun hne => absurd hstate hne⟩
    · obtain ⟨t, hx, hanswer, hrest⟩ := close_other h hs hf hstate
      exact ⟨t, hx, fun heq => absurd heq hstate, fun _ => ⟨hanswer, hrest⟩⟩
  · rintro rfl hstate hroom
    obtain ⟨hanswer, hpool, hcounters, hrest⟩ := hostAbort_rest (d := c.hostAborted (s.offersOf i) (s.queueOf i))
      (s := s) (record := record) (rest := rest) (i := i) (c := c) rfl
    exact ⟨_, _, abort_receiving h hs hf hstate hroom, hanswer, enteredAborted_hostAbort hs.2.1 rfl rfl, hpool,
      hcounters, hrest⟩
  · rintro rfl status hcase
    have hx := exec_abort h hs hf
    rcases hcase with ⟨rfl, hstate⟩ | ⟨rfl, hstate | hstate | hstate⟩ <;>
      (rw [hstate] at hx; exact answered_unchanged hs hc hx)

end Sys2Proof.Machine
end

section
/-! # OPEN (R25): O38, O39 -/

namespace Sys2Proof.Machine

/-! ## The conditions in their order -/

theorem OpenParams.bad_iff (p : OpenParams) : p.bad = true ↔
    p.tag = 0 ∨ p.w = 0 ∨ p.cap = 0 ∨ p.start % 65536 ≠ 0 ∨ 65536 * min p.cap (2 ^ 32) ≤ p.start :=
  decide_eq_true_iff

theorem State.freeWay_eq_none (s : State) (tag : Nat) :
    s.freeWay tag = none ↔ s.ctx? (wayOf tag 0) ≠ none ∧ s.ctx? (wayOf tag 1) ≠ none := by
  unfold State.freeWay
  split_ifs with h0 h1
  · simp [h0]
  · simp [h1]
  · simp [h0, h1]

/-- Way 0 is taken first. -/
theorem State.freeWay_of_free {s : State} {tag way : Nat} (hway : way < 2) (hfree : s.ctx? (wayOf tag way) = none)
    (hfirst : way = 1 → s.ctx? (wayOf tag 0) ≠ none) : s.freeWay tag = some (wayOf tag way) := by
  unfold State.freeWay
  interval_cases way
  · exact if_pos hfree
  · rw [if_neg (hfirst rfl), if_pos hfree]

section
variable {s : State} {record : List Byte}

theorem State.openBody_bad (hbad : (parseOpen record).bad = true) :
    s.openBody record = s.respond record .badParam [] := if_pos hbad

theorem State.openBody_contextError (hbad : (parseOpen record).bad = false)
    (hl : (s.lookup (parseOpen record).tag).2 = .contextError) :
    s.openBody record = (s.lookup (parseOpen record).tag).1.respond record .contextError [] := by
  simp only [State.openBody, hbad, hl, Bool.false_eq_true, if_false]

theorem State.openBody_found {i : StreamIndex} {c : Context} (hbad : (parseOpen record).bad = false)
    (hl : (s.lookup (parseOpen record).tag).2 = .found i c) : s.openBody record = s.respond record .tagInUse [] := by
  have hsame : (s.lookup (parseOpen record).tag).1 = s := (State.lookup_found hl).1
  simp only [State.openBody, hbad, hl, hsame, Bool.false_eq_true, if_false]

theorem State.openBody_notFound (hbad : (parseOpen record).bad = false)
    (hl : (s.lookup (parseOpen record).tag).2 = .notFound) : s.openBody record =
      match s.freeWay (parseOpen record).tag with
      | none => s.respond record .rowFull []
      | some i => if s.pool.spare = 0 then s.respond record .noSpace []
          else s.openAt record i (parseOpen record).clamped := by
  have hsame : (s.lookup (parseOpen record).tag).1 = s := State.lookup_of_notFound hl
  cases hway : s.freeWay (parseOpen record).tag <;>
    simp only [State.openBody, hbad, hl, hsame, hway, Bool.false_eq_true, if_false]

end

/-! ## The take of OPEN -/

section
variable {s : State} {record : List Byte} {rest : List (List Byte)}

theorem exec_open (h : HeadCommand s 1 record rest) (hd : s.device = .ready) :
    exec .openCmd s = .next ((s.dequeued rest).openBody record).poolTest :=
  congrArg Host.Outcome.next (State.takeCommand_head h hd)

/-- A refusal changes the two queues alone. -/
theorem open_refused {status : Status} (h : HeadCommand s 1 record rest) (hs : Serving s)
    (hbody : (s.dequeued rest).openBody record = (s.dequeued rest).respond record status []) :
    exec .openCmd s = .next ((s.dequeued rest).respond record status []) := by
  rw [exec_open h hs.1, hbody]
  exact congrArg Host.Outcome.next (hs.poolTest_quiet (by rfl) (by rfl) (by rfl))

/-- A lookup changes neither queue of the Control Port. -/
theorem State.lookup_queues (X : State) (tag : Nat) :
    (X.lookup tag).1.commands = X.commands ∧ (X.lookup tag).1.responses = X.responses := by
  have hrest := (X.lookup_op tag).rest
  exact ⟨by rw [hrest], by rw [hrest]⟩

theorem answered_lookup {status : Status} (tag : Nat) :
    Answered s (((s.dequeued rest).lookup tag).1.respond record status []).poolTest record rest status [] := by
  obtain ⟨hcommands, hresponses⟩ := (s.dequeued rest).lookup_queues tag
  refine ⟨?_, ?_⟩
  · rw [State.poolTest_commands, State.respond_commands, hcommands, State.dequeued_commands]
  · rw [State.poolTest_responses, State.respond_responses, hresponses, State.dequeued_responses]

end

/-- Settles O39, by the first condition of R25's table that holds. -/
theorem openRefusesInOrder : Obligations.OpenRefusesInOrder := by
  intro s record rest status h hs p bad free hcase
  have hbad : p.bad = true ↔ bad := p.bad_iff
  have hgood : ¬bad → p.bad = false := fun hn => by rw [← hbad] at hn; simpa using hn
  have hlook : ((s.dequeued rest).lookup p.tag).2 = (s.lookup p.tag).2 := s.lookup_dequeued rest p.tag
  suffices hrefused : (s.dequeued rest).openBody record = (s.dequeued rest).respond record status [] ∧
      status ≠ .contextError ∨ status = .contextError ∧ ¬bad ∧ (s.lookup p.tag).2 = .contextError by
    rcases hrefused with ⟨hbody, hne⟩ | ⟨rfl, hb, hl⟩
    · exact ⟨_, open_refused h hs hbody, ⟨rfl, rfl⟩, fun _ => rfl, fun heq => absurd heq hne⟩
    · have hx := exec_open h hs.1
      rw [State.openBody_contextError (hgood hb) (hlook.trans hl)] at hx
      obtain ⟨h0, h1, hothers⟩ := State.lookup_contextError (s := s.dequeued rest) hs.2.1 (hlook.trans hl)
      have hentry : ∀ j, (((s.dequeued rest).lookup p.tag).1.respond record .contextError []).poolTest.entry j =
          ((s.dequeued rest).lookup p.tag).1.entry j := fun j => by
        rw [State.entry, State.poolTest_table]; rfl
      refine ⟨_, hx, answered_lookup _, fun hne => absurd rfl hne, fun _ => ⟨fun way hway => ?_, fun j hj0 hj1 => ?_⟩⟩
      · rw [hentry]
        interval_cases way
        · exact h0
        · exact h1
      · rw [hentry]
        exact hothers j hj0 hj1
  rcases hcase with ⟨rfl, hb⟩ | ⟨rfl, hb, hl⟩ | ⟨rfl, hb, i, c, hl⟩ | ⟨rfl, hb, hl, h0, h1⟩ |
    ⟨rfl, hb, hl, hfree, hspare⟩
  · exact .inl ⟨State.openBody_bad (hbad.mpr hb), by simp⟩
  · exact .inr ⟨rfl, hb, hl⟩
  · exact .inl ⟨State.openBody_found (hgood hb) (hlook.trans hl), by simp⟩
  · have hfull : (s.dequeued rest).freeWay p.tag = none := (State.freeWay_eq_none _ _).mpr ⟨h0, h1⟩
    refine .inl ⟨?_, by simp⟩
    rw [State.openBody_notFound (hgood hb) (hlook.trans hl), hfull]
  · obtain ⟨i, hway⟩ : ∃ i, (s.dequeued rest).freeWay p.tag = some i := by
      rw [← Option.ne_none_iff_exists', Ne, State.freeWay_eq_none]
      exact fun hnot => hfree.elim hnot.1 hnot.2
    refine .inl ⟨?_, by simp⟩
    rw [State.openBody_notFound (hgood hb) (hlook.trans hl), hway]
    exact if_pos hspare

/-! ## An accepted OPEN -/

/-- Position k mod W of the window describes chunk k, for every chunk of the window (R52). -/
theorem describedChunk_mod {head w k : Nat} (hlow : head ≤ k) (hhigh : k < head + w) :
    describedChunk head w (k % w) = k := by
  obtain ⟨j, rfl⟩ := Nat.exists_eq_add_of_le hlow
  have hj : j < w := by omega
  have hhead : head % w < w := Nat.mod_lt _ (by omega)
  have hmod : (head + j) % w = if head % w + j < w then head % w + j else head % w + j - w := by
    rw [Nat.add_mod, Nat.mod_eq_of_lt hj]
    split_ifs with hwrap
    · exact Nat.mod_eq_of_lt hwrap
    · rw [Nat.mod_eq_sub_mod (by omega), Nat.mod_eq_of_lt (by omega)]
  unfold describedChunk
  rw [hmod]
  split_ifs with hwrap
  · rw [show head % w + j + w - head % w = j + w by omega, Nat.add_mod_right, Nat.mod_eq_of_lt hj]
  · rw [show head % w + j - w + w - head % w = j by omega, Nat.mod_eq_of_lt hj]

/-- The window OPEN writes: an EMPTY record for every chunk of it. -/
theorem OpenParams.context_window (p : OpenParams) (time : Nat) (reply : Option LaneId) {k : Nat}
    (hlow : p.start / 65536 ≤ k) (hhigh : k < p.start / 65536 + p.w) :
    (p.context time reply).window[k % p.w]? = some ⟨k, none, .empty, [], 0, 0, none⟩ := by
  have hpos : k % p.w < p.w := Nat.mod_lt _ (by omega)
  have hk : describedChunk (p.start / Config.chunkSize) p.w (k % p.w) = k := describedChunk_mod hlow hhigh
  simp only [OpenParams.context, List.getElem?_map, List.getElem?_range hpos, Option.map_some, hk, ChunkRecord.fresh]

/-- The clamps as the statement of R25 has them. -/
theorem OpenParams.clamped_eq (p : OpenParams) (hw : p.w ≠ 0) :
    let cap := min p.cap (2 ^ 32)
    p.clamped = { p with w := min p.w 8, b := max 1 (min p.b (min p.w 8)), t := min p.t 8, cap := cap
                         reserve := if cap ≤ p.reserve then cap - 1 else p.reserve } := by
  have hb : (if p.b < 1 then 1 else min p.b (min p.w 8)) = max 1 (min p.b (min p.w 8)) := by split_ifs <;> omega
  unfold OpenParams.clamped
  dsimp only
  rw [hb]
  rfl

theorem exec_open_accepted {s : State} {record : List Byte} {rest : List (List Byte)} {way : Nat}
    (h : HeadCommand s 1 record rest) (hs : Serving s) (hbad : (parseOpen record).bad = false)
    (hl : (s.lookup (parseOpen record).tag).2 = .notFound)
    (hway : s.freeWay (parseOpen record).tag = some (wayOf (parseOpen record).tag way)) (hspare : 1 ≤ s.pool.spare) :
    exec .openCmd s = .next ((s.dequeued rest).openAt record (wayOf (parseOpen record).tag way)
      (parseOpen record).clamped).poolTest := by
  have hl' := (s.lookup_dequeued rest (parseOpen record).tag).trans hl
  have hway' : (s.dequeued rest).freeWay (parseOpen record).tag = some (wayOf (parseOpen record).tag way) := hway
  have hspare' : ¬(s.dequeued rest).pool.spare = 0 := Nat.one_le_iff_ne_zero.mp hspare
  rw [exec_open h hs.1, State.openBody_notFound hbad hl', hway']
  exact congrArg (fun Y : State => Host.Outcome.next Y.poolTest) (if_neg hspare')

/-- Settles O38: the first free way of the row, the clamped parameters, the context they make. -/
theorem openWritesTheContext : Obligations.OpenWritesTheContext := by
  intro s record rest way h hs p w b cap reserve i htag hw hcap hstart hbelow hl hway hfree hfirst hspare
  have hbad : p.bad = false := by
    rw [← Bool.not_eq_true, p.bad_iff]
    have : 65536 * min p.cap (2 ^ 32) = 65536 * cap := rfl
    omega
  have hclamped : p.clamped = { p with w := w, b := b, t := min p.t 8, cap := cap, reserve := reserve } := p.clamped_eq hw
  have hx := exec_open_accepted h hs hbad hl (State.freeWay_of_free hway hfree hfirst) hspare
  rw [show parseOpen record = p from rfl, hclamped] at hx
  generalize hq : ({ p with w := w, b := b, t := min p.t 8, cap := cap, reserve := reserve } : OpenParams) = q at hx
  have hraised : ((s.dequeued rest).raiseReserve 1).table = s.table := rfl
  refine ⟨_, q.context s.time s.lowestActive, hx, otherEntries_setCtx hs.2.1 hraised i _,
    holds_setCtx ((s.dequeued rest).raiseReserve 1) i _, ⟨rfl, by rw [← hq]; rfl⟩, by rw [← hq]; rfl, ?_,
    fun k hlow hhigh => ?_, rfl⟩
  · rw [← hq]; simp [OpenParams.context]
  · have hk := q.context_window s.time s.lowestActive (k := k) (by rw [← hq]; exact hlow) (by rw [← hq]; exact hhigh)
    rwa [← hq] at hk ⊢

end Sys2Proof.Machine
end

section
/-! # What the handling of an event leaves in order (R36, R116, R118, R141, R161, R164, R168)

One relation for every operation that an event's handling is made of. `StreamOp` says what the shared operations do to the
lanes, the events and the offers; here the placement of segments, which appends to the verify queue, is covered too, and
the counters keep within their 32 bits. Each operation has one lemma, in the order of the model's files. -/

namespace Sys2Proof.Machine

/-! ## Counters (R168) -/

theorem Count.add_saturating (c : Count) (n : Nat) (h : c.mark = true → c.value = Config.countMax) :
    (c.add n).value ≤ Config.countMax ∧ ((c.add n).mark = true → (c.add n).value = Config.countMax) := by
  unfold Count.add
  split_ifs with hmax
  · exact ⟨le_rfl, fun _ => rfl⟩
  · refine ⟨not_lt.mp hmax, fun hmark => ?_⟩
    have hvalue := h hmark
    dsimp only
    omega

theorem CounterSet.Saturating.set {v : CounterSet} (h : v.Saturating) (k : Fin 32) {x : Count}
    (hx : x.value ≤ Config.countMax ∧ (x.mark = true → x.value = Config.countMax)) :
    CounterSet.Saturating (v.set k x) := by
  intro j
  simp only [Fin.getElem_fin, Vector.getElem_set]
  split_ifs
  · exact hx
  · exact h j

theorem CounterSet.zero_saturating : CounterSet.zero.Saturating := by
  intro k
  simp [CounterSet.zero]

theorem State.count_saturating {s : State} (h : s.live.Saturating) (k : Counter) (n : Nat) :
    (s.count k n).live.Saturating :=
  h.set _ (Count.add_saturating _ n (h _).2)

/-! ## The relation -/

/-- What the handling of an event keeps, from `s` to `t`: offers and drain map records may become fewer, events more within
the queue's bound, and the device notice flags of ACTIVE lanes others. The table, the pool, the buffer and the Check Unit are
not spoken of. -/
structure Orderly (s t : State) : Prop where
  device : t.device = s.device
  settings : t.settings = s.settings
  snapshot : t.snapshot = s.snapshot
  commands : t.commands = s.commands
  responses : t.responses = s.responses
  lanes : ∀ l, t.lane l = { s.lane l with flag := (t.lane l).flag } ∧
    ((s.lane l).state ≠ .active → (t.lane l).flag = (s.lane l).flag)
  bound : s.events.length ≤ Config.eventDepth → t.events.length ≤ Config.eventDepth
  offered : t.offered.Sublist s.offered
  drainMap : t.drainMap.Sublist s.drainMap
  counts : s.live.Saturating → t.live.Saturating

theorem StreamOp.orderly {s t : State} (h : StreamOp s t) (hc : s.live.Saturating → t.live.Saturating) :
    Orderly s t where
  device := by rw [h.rest]
  settings := by rw [h.rest]
  snapshot := by rw [h.rest]
  commands := by rw [h.rest]
  responses := by rw [h.rest]
  lanes := h.lanes
  bound := h.bound
  offered := h.offered
  drainMap := by rw [h.rest]
  counts := hc

theorem Orderly.trans {s t u : State} (h : Orderly s t) (g : Orderly t u) : Orderly s u where
  device := g.device.trans h.device
  settings := g.settings.trans h.settings
  snapshot := g.snapshot.trans h.snapshot
  commands := g.commands.trans h.commands
  responses := g.responses.trans h.responses
  lanes l := by
    refine ⟨by rw [(g.lanes l).1, (h.lanes l).1], fun hs => ?_⟩
    have ht : (t.lane l).state = (s.lane l).state := by rw [(h.lanes l).1]
    rw [(g.lanes l).2 (ht ▸ hs), (h.lanes l).2 hs]
  bound b := g.bound (h.bound b)
  offered := g.offered.trans h.offered
  drainMap := g.drainMap.trans h.drainMap
  counts c := g.counts (h.counts c)

/-- A shared operation that counts nothing. -/
theorem StreamOp.uncounted {s t : State} (h : StreamOp s t) (hl : t.live = s.live) : Orderly s t :=
  h.orderly fun c => hl ▸ c

/-- The stores that the relation does not speak of are written. -/
theorem Orderly.of_stores {s t : State} (h : t = { s with
    table := t.table, pool := t.pool, buffer := t.buffer, words := t.words, verifyQueue := t.verifyQueue,
    engine := t.engine }) : Orderly s t := by
  rw [h]
  exact ⟨rfl, rfl, rfl, rfl, rfl, fun _ => ⟨rfl, fun _ => rfl⟩, id, .refl _, .refl _, id⟩

theorem Orderly.refl (s : State) : Orderly s s := .of_stores rfl

/-! ## Elementary updates -/

theorem State.setCtx_orderly (s : State) (i : StreamIndex) (c : Context) : Orderly s (s.setCtx i c) := .of_stores rfl

theorem State.freeEntry_orderly (s : State) (i : StreamIndex) : Orderly s (s.freeEntry i) := .of_stores rfl

theorem State.modifyCtx_orderly (s : State) (i : StreamIndex) (f : Context → Context) : Orderly s (s.modifyCtx i f) :=
  (s.modifyCtx_op i f).uncounted (by simp)

theorem State.modifyChunk_orderly (s : State) (i : StreamIndex) (pos : Nat) (f : ChunkRecord → ChunkRecord) :
    Orderly s (s.modifyChunk i pos f) := s.modifyCtx_orderly i _

theorem State.modifyChunks_orderly (i : StreamIndex) (f : ChunkRecord → ChunkRecord) (ps : List Nat) :
    ∀ s : State, Orderly s (ps.foldl (fun t p => t.modifyChunk i p f) s) := by
  induction ps with
  | nil => exact .refl
  | cons p rest ih => exact fun s => (s.modifyChunk_orderly _ _ _).trans (ih _)

theorem State.count_orderly (s : State) (k : Counter) (n : Nat) : Orderly s (s.count k n) :=
  (s.count_op k n).orderly fun h => State.count_saturating h k n

theorem State.countDrop_orderly (s : State) (r : DropReason) : Orderly s (s.countDrop r) := s.count_orderly _ _

theorem State.noteError_orderly (s : State) (k : ErrorKind) (i : Option StreamIndex) (slot : Option Slot)
    (c : Option Nat) : Orderly s (s.noteError k i slot c) := (s.noteError_op k i slot c).uncounted rfl

theorem State.raise_orderly (s : State) (e : Event) : Orderly s (s.raise e) := by
  refine (s.raise_op e).orderly fun h => ?_
  unfold State.raise
  split_ifs
  · exact h
  · exact State.count_saturating h _ _
  · exact h

theorem State.poolTest_orderly (s : State) : Orderly s s.poolTest := by
  refine s.poolTest_op.orderly fun h => ?_
  unfold State.poolTest
  dsimp only
  split_ifs
  · exact (State.raise_orderly _ _).counts h
  · exact h

theorem State.raiseReserve_orderly (s : State) (n : Nat) : Orderly s (s.raiseReserve n) := .of_stores rfl

theorem State.lowerReserve_orderly (s : State) : Orderly s s.lowerReserve := .of_stores rfl

theorem State.setPool_orderly (s : State) (p : Pool) : Orderly s { s with pool := p } := .of_stores rfl

theorem State.setQueue_orderly (s : State) (q : List ChunkName) : Orderly s { s with verifyQueue := q } := .of_stores rfl

/-! ## The Slot Pool -/

theorem State.retireSlot_orderly (s : State) (slot : Slot) : Orderly s (s.retireSlot slot) :=
  (s.setPool_orderly (s.pool.retire slot)).trans (State.count_orderly _ _ _)

theorem State.giveUp_orderly (s : State) (slot : Slot) (force : Bool) : Orderly s (s.giveUp slot force) := by
  unfold State.giveUp
  split_ifs
  · exact s.retireSlot_orderly slot
  · exact .of_stores rfl

theorem State.giveUpAt_orderly (s : State) (i : StreamIndex) (pos : Nat) (force : Bool) :
    Orderly s (s.giveUpAt i pos force) := by
  unfold State.giveUpAt
  split
  · exact s.giveUp_orderly _ _
  · exact .refl s

theorem State.giveUpAll_orderly (forced : Option Nat) (l : List (Slot × Nat)) :
    ∀ s : State, Orderly s (s.giveUpAll forced l) := by
  induction l with
  | nil => exact .refl
  | cons x rest ih => exact fun s => (s.giveUp_orderly _ _).trans (ih _)

theorem State.retireFromChunk_orderly (s : State) (i : StreamIndex) (pos : Nat) :
    Orderly s (s.retireFromChunk i pos) := by
  unfold State.retireFromChunk
  split
  · exact .refl s
  · rename_i slot _
    generalize (if s.isReceivingHead i pos = true then 1 else 0) = rise
    dsimp only
    split_ifs
    · exact ((s.retireSlot_orderly slot).trans (State.modifyCtx_orderly _ i _)).trans (State.raiseReserve_orderly _ _)
    · exact .refl s

theorem State.retireGiven_orderly (s : State) (i : StreamIndex) (r : Option Nat) : Orderly s (s.retireGiven i r) := by
  cases r
  · exact .refl s
  · exact s.retireFromChunk_orderly i _

/-! ## The chunk buffer -/

theorem State.reportRead_orderly (s : State) (slot : Slot) (ws : List Nat) (i : StreamIndex) (k : Nat) :
    Orderly s (s.reportRead slot ws i k) := by
  unfold State.reportRead
  dsimp only
  split_ifs
  · exact s.count_orderly _ _
  · exact ((s.count_orderly _ _).trans ((State.setPool_orderly _ _).trans ((State.count_orderly _ _ _).trans
      (State.noteError_orderly _ _ _ _ _)))).trans (State.raise_orderly _ _)

theorem State.setConditions_orderly (slot : Slot) (f : State → Nat → WordCondition) (ws : List Nat) :
    ∀ s : State, Orderly s (ws.foldl (fun t w => t.setCondition slot w (f t w)) s) := by
  induction ws with
  | nil => exact .refl
  | cons w rest ih => exact fun s => (Orderly.of_stores (t := s.setCondition slot w (f s w)) rfl).trans (ih _)

theorem State.writeByte_orderly (s : State) (slot : Slot) (y : Nat) (b : Byte) : Orderly s (s.writeByte slot y b) := by
  unfold State.writeByte
  split_ifs
  · exact .of_stores rfl
  · exact .refl s

theorem State.writeBytes_orderly (slot : Slot) (f : Nat → Byte) (ys : List Nat) :
    ∀ s : State, Orderly s (ys.foldl (fun t y => t.writeByte slot y (f y)) s) := by
  induction ys with
  | nil => exact .refl
  | cons y rest ih => exact fun s => (s.writeByte_orderly _ _ _).trans (ih _)

theorem State.writePiece_orderly (s : State) (slot : Slot) (piece : Range) (held : List Range) (bytes : List Byte)
    (i : StreamIndex) (k : Nat) : Orderly s (s.writePiece slot piece held bytes i k) :=
  ((s.reportRead_orderly _ _ _ _).trans
    (State.setConditions_orderly slot (fun t w => writtenCondition _ (t.condition slot w)) _ _)).trans
    (State.writeBytes_orderly slot _ _ _)

/-! ## Withdrawal, release, the tests at an event's end -/

theorem State.withdrawOffers_orderly (s : State) (i : StreamIndex) : Orderly s (s.withdrawOffers i) :=
  (State.modifyChunks_orderly i _ _ s).trans ((StreamOp.filter_offered _ _).uncounted rfl)

theorem State.clearQueue_orderly (s : State) (i : StreamIndex) : Orderly s (s.clearQueue i) :=
  (State.modifyChunks_orderly i _ _ s).trans (State.setQueue_orderly _ _)

theorem State.enterReleasing_orderly (s : State) (i : StreamIndex) (cause : Option Cause) :
    Orderly s (s.enterReleasing i cause) := (s.modifyCtx_orderly i _).trans (State.withdrawOffers_orderly _ i)

theorem State.toFree_orderly (s : State) (i : StreamIndex) (c : Context) (forced : Option Nat) :
    Orderly s (s.toFree i c forced) :=
  ((State.giveUpAll_orderly forced _ s).trans (State.raise_orderly _ _)).trans (State.freeEntry_orderly _ i)

theorem State.endInFlight_orderly (s : State) (i : StreamIndex) (pos : Nat) (force : Bool) :
    Orderly s (s.endInFlight i pos force) := by
  unfold State.endInFlight
  refine (s.modifyChunk_orderly i pos ChunkRecord.givenUp).trans ?_
  dsimp only
  split
  · exact .refl _
  · split
    · exact State.giveUpAt_orderly _ _ _ _
    · exact State.toFree_orderly _ _ _ _

theorem State.testFree_orderly (s : State) (i : StreamIndex) : Orderly s (s.testFree i) := by
  unfold State.testFree
  split
  · split_ifs
    · exact s.toFree_orderly _ _ _
    · exact .refl s
  · exact .refl s

theorem State.settle_orderly (s : State) (i : StreamIndex) : Orderly s (s.settle i) := by
  unfold State.settle
  refine (s.modifyCtx_orderly i Context.testDrainFlags).trans (Orderly.trans ?_ (State.testFree_orderly _ i))
  split
  · split_ifs
    · exact State.enterReleasing_orderly _ _ _
    · exact .refl _
  · exact .refl _

theorem State.settleAll_orderly (l : List StreamIndex) : ∀ s : State, Orderly s (s.settleAll l) := by
  induction l with
  | nil => exact .refl
  | cons i rest ih => exact fun s => (s.settle_orderly i).trans (ih _)

/-! ## Parity errors, lookups -/

theorem State.noteParity_orderly (s : State) (i : StreamIndex) : Orderly s (s.noteParity i) :=
  (s.noteError_orderly _ _ _ _).trans (State.count_orderly _ _ _)

theorem State.detach_orderly (s : State) (i : StreamIndex) (c : Context) : Orderly s (s.detach i c) := by
  have htold : Orderly s (s.toldDetach i c) := by
    unfold State.toldDetach
    dsimp only
    split_ifs
    · exact (s.noteParity_orderly i).trans (State.raise_orderly _ _)
    · exact ((s.noteParity_orderly i).trans (State.raise_orderly _ _)).trans (State.raise_orderly _ _)
  have hleft : Orderly s ((s.toldDetach i c).leftReceiving c) := by
    unfold State.leftReceiving
    split_ifs
    · exact htold.trans (State.lowerReserve_orderly _)
    · exact htold
  rw [State.detach_eq]
  refine hleft.trans (Orderly.trans (Orderly.trans ?_ (State.setQueue_orderly _ _)) (State.setCtx_orderly _ _ _))
  exact (StreamOp.filter_offered _ _).uncounted rfl

theorem State.handleParity_orderly (s : State) (i : StreamIndex) : Orderly s (s.handleParity i) := by
  unfold State.handleParity
  split_ifs
  · exact .refl s
  · split
    · exact (s.freeEntry_orderly i).trans (State.noteParity_orderly _ _)
    · exact s.detach_orderly _ _

theorem State.handleAll_orderly (l : List StreamIndex) : ∀ s : State, Orderly s (s.handleAll l) := by
  induction l with
  | nil => exact .refl
  | cons i rest ih => exact fun s => (s.handleParity_orderly i).trans (ih _)

theorem State.checkParity_orderly (s : State) (i : StreamIndex) : Orderly s (s.checkParity i) := by
  unfold State.checkParity
  split_ifs
  · exact .refl s
  · exact (s.handleParity_orderly i).trans (State.settle_orderly _ i)

theorem State.checkAll_orderly (l : List StreamIndex) : ∀ s : State, Orderly s (s.checkAll l) := by
  induction l with
  | nil => exact .refl
  | cons i rest ih => exact fun s => (s.checkParity_orderly i).trans (ih _)

theorem State.checkRead_orderly (s : State) (read : List StreamIndex) : Orderly s (s.checkRead read) := by
  unfold State.checkRead
  exact State.checkAll_orderly _ s

theorem State.turn_orderly (s : State) (order : List StreamIndex) (serves : StreamIndex → Bool) :
    Orderly s (s.turn order serves).1 := by
  unfold State.turn
  dsimp only
  exact s.checkRead_orderly _

theorem State.lookup_orderly (s : State) (tag : Nat) : Orderly s (s.lookup tag).1 := by
  unfold State.lookup
  dsimp only
  split_ifs
  · split <;> exact .refl s
  · exact (s.checkParity_orderly _).trans (State.checkParity_orderly _ _)

/-! ## Abort and ordered commit -/

theorem State.enterAborted_orderly (s : State) (i : StreamIndex) (cause : Cause) (retiring : Option Nat) :
    Orderly s (s.enterAborted i cause retiring) := by
  unfold State.enterAborted
  split
  · exact .refl s
  · rename_i c _
    dsimp only
    refine Orderly.trans (Orderly.trans ?_ (State.modifyCtx_orderly _ _ _)) (State.raise_orderly _ _)
    refine Orderly.trans (Orderly.trans ?_ (State.withdrawOffers_orderly _ _)) (State.clearQueue_orderly _ _)
    refine Orderly.trans (Orderly.trans ?_ (State.retireGiven_orderly _ i retiring)) (State.poolTest_orderly _)
    refine (s.modifyCtx_orderly i fun d => { d with state := .aborted, cause := some cause }).trans ?_
    split_ifs
    · exact State.lowerReserve_orderly _
    · exact .refl _

theorem State.commitStep_orderly (s : State) (i : StreamIndex) (c : Context) : Orderly s (s.commitStep i c) := by
  unfold State.commitStep
  dsimp only
  refine (s.setCtx_orderly i c.afterCommit).trans ?_
  refine Orderly.trans ?_ ((State.giveUpAt_orderly _ i _ false).trans (State.count_orderly _ _ _))
  split_ifs
  · exact State.raiseReserve_orderly _ _
  · exact .refl _

theorem State.commitSteps_orderly (i : StreamIndex) (n : Nat) : ∀ s : State, Orderly s (s.commitSteps i n) := by
  induction n with
  | zero => exact .refl
  | succ n ih =>
    intro s
    unfold State.commitSteps
    split
    · split_ifs
      · exact (s.commitStep_orderly i _).trans (ih _)
      · exact .refl s
    · exact .refl s

theorem State.completeStream_orderly (s : State) (i : StreamIndex) (c : Context) (f : Nat) :
    Orderly s (s.completeStream i c f) := (s.modifyCtx_orderly i _).trans (State.raise_orderly _ _)

theorem State.testComplete_orderly (s : State) (i : StreamIndex) : Orderly s (s.testComplete i) := by
  unfold State.testComplete
  split
  · split_ifs
    · exact s.completeStream_orderly _ _ _
    · exact .refl s
  · exact .refl s

theorem State.orderedCommit_orderly (s : State) (i : StreamIndex) : Orderly s (s.orderedCommit i) := by
  unfold State.orderedCommit
  split
  · split_ifs
    · exact ((State.commitSteps_orderly i _ s).trans (State.modifyCtx_orderly _ i _)).trans
        (State.testComplete_orderly _ i)
    · exact .refl s
  · exact .refl s

end Sys2Proof.Machine
end

section
/-! # What the handling of an event leaves in order: segments, lanes, the Check Unit, the drain -/

namespace Sys2Proof.Machine

/-! ## The bookkeeping of a segment (R74 to R76) -/

theorem State.bookkeep_orderly (s : State) (i : StreamIndex) (l : LaneId) (merged : Option Nat) :
    Orderly s (s.bookkeep i l merged) := by
  unfold State.bookkeep
  dsimp only
  generalize hbooked : s.modifyCtx i _ = t
  refine (hbooked ▸ s.modifyCtx_orderly i _ : Orderly s t).trans ?_
  split
  · split
    · exact (State.modifyCtx_orderly _ i _).trans (State.raise_orderly _ _)
    · exact .refl _
  · exact .refl _

theorem State.finishSegment_orderly (s : State) (i : StreamIndex) (l : LaneId) (accepted : Bool) (merged : Option Nat)
    (lost : List DropReason) : Orderly s (s.finishSegment i l accepted merged lost) := by
  unfold State.finishSegment
  dsimp only
  refine (s.modifyCtx_orderly i fun c => c.count fun n => lost.dedup.foldl StreamCounters.drop n).trans ?_
  split
  · exact State.bookkeep_orderly _ _ _ _
  · split
    · exact State.countDrop_orderly _ _
    · exact .refl _

/-! ## The final end (R61) -/

theorem State.queueFinalChunk_orderly (s : State) (i : StreamIndex) (f : Nat) : Orderly s (s.queueFinalChunk i f) := by
  unfold State.queueFinalChunk
  split
  · exact .refl s
  · dsimp only
    split
    · exact (s.modifyChunk_orderly i _ _).trans (State.setQueue_orderly _ _)
    · exact .refl s

theorem State.freeBeyond_orderly (i : StreamIndex) (l : List (Nat × ChunkRecord)) :
    ∀ s : State, Orderly s (s.freeBeyond i l) := by
  induction l with
  | nil => exact .refl
  | cons x rest ih =>
    intro s
    unfold State.freeBeyond
    refine (s.modifyCtx_orderly i fun c =>
      (c.modifyChunk x.1 fun r => { r with slot := none }).notify fun n => n.removeGap x.1).trans (Orderly.trans ?_ (ih _))
    split
    · exact State.giveUpAt_orderly _ _ _ _
    · exact .refl _

theorem State.acceptFinal_orderly (s : State) (i : StreamIndex) (c : Context) (f : Nat) :
    Orderly s (s.acceptFinal i c f) := by
  have hlower : ∀ t : State, Orderly t (if f = c.committed ∧ c.headSlotless then t.lowerReserve else t) := by
    intro t
    split
    · exact t.lowerReserve_orderly
    · exact .refl t
  have hfreed := (((s.modifyCtx_orderly i fun d => { d with final := some f }).trans (hlower _)).trans
    (State.queueFinalChunk_orderly _ i f)).trans (State.freeBeyond_orderly i
      (c.ring.filter fun x => decide ((f + 65535) / Config.chunkSize ≤ x.2.index)) _)
  unfold State.acceptFinal
  dsimp only
  split
  · exact hfreed.trans (State.completeStream_orderly _ _ _ _)
  · exact hfreed

/-! ## The pieces (R65 to R73) -/

theorem State.noteBeyond_orderly (s : State) (i : StreamIndex) (cls : DropReason) (x : Nat) :
    Orderly s (s.noteBeyond i cls x) := by
  unfold State.noteBeyond
  split
  · split
    · exact (s.modifyCtx_orderly i _).trans (State.raise_orderly _ _)
    · exact .refl s
  · exact .refl s

theorem State.mergeInto_orderly (s : State) (i : StreamIndex) (pos : Nat) (r : ChunkRecord) (slot : Slot) (piece : Range)
    (bytes : List Byte) (len : Nat) : Orderly s (s.mergeInto i pos r slot piece bytes len) := by
  unfold State.mergeInto
  dsimp only
  generalize isComplete (insertRange piece r.ranges) len = done
  have hwritten := s.writePiece_orderly slot piece r.ranges bytes i r.index
  split
  · exact (hwritten.trans (State.modifyCtx_orderly _ i _)).trans (State.setQueue_orderly _ _)
  · exact hwritten.trans (State.modifyCtx_orderly _ i _)

theorem State.mergePiece_orderly (s : State) (i : StreamIndex) (pos : Nat) (r : ChunkRecord) (slot : Slot)
    (piece : Range) (bytes : List Byte) (len : Nat) : Orderly s (s.mergePiece i pos r slot piece bytes len).1 := by
  unfold State.mergePiece
  split
  · split
    · exact .refl s
    · exact s.mergeInto_orderly _ _ _ _ _ _ _
  · exact s.modifyCtx_orderly i _

theorem State.placePiece_orderly (s : State) (i : StreamIndex) (x y : Nat) (bytes : List Byte) :
    Orderly s (s.placePiece i x y bytes).1 := by
  unfold State.placePiece
  split
  · exact .refl s
  · dsimp only
    split
    · exact .refl s
    · split
      · exact s.mergePiece_orderly _ _ _ _ _ _ _
      · split
        · exact .refl s
        · exact ((s.setPool_orderly _).trans (State.modifyChunk_orderly _ i _ _)).trans
            (State.mergePiece_orderly _ _ _ _ _ _ _ _)

theorem State.placePieces_orderly (i : StreamIndex) (o : Nat) (payload : List Byte) (l : List (Nat × Nat)) :
    ∀ s : State, Orderly s (s.placePieces i o payload l).state := by
  induction l with
  | nil => exact .refl
  | cons p rest ih =>
    intro s
    have h := (s.placePiece_orderly i p.1 p.2 (payload.drop (p.1 - o))).trans (ih _)
    unfold State.placePieces
    dsimp only
    split
    · exact h
    · exact h

/-! ## SEGMENT_TAKE (R45 to R64) -/

theorem State.addOld_orderly (s : State) (i : StreamIndex) (n : Nat) : Orderly s (s.addOld i n) :=
  s.modifyCtx_orderly i _

theorem State.placeBytes_orderly (s : State) (i : StreamIndex) (c : Context) (l : LaneId) (g : Segment)
    (lastAccepted : Bool) : Orderly s (s.placeBytes i c l g lastAccepted) := by
  unfold State.placeBytes
  dsimp only
  split
  · exact ((s.addOld_orderly i _).trans (State.modifyCtx_orderly _ i _)).trans (State.countDrop_orderly _ _)
  · split
    · exact (s.noteBeyond_orderly i _ _).trans (State.finishSegment_orderly _ _ _ _ _ _)
    · refine Orderly.trans (Orderly.trans ?_ (State.placePieces_orderly _ _ _ _ _)) (State.finishSegment_orderly _ _ _ _ _ _)
      refine (s.addOld_orderly i (max g.offset c.committed - g.offset)).trans ?_
      split
      · exact State.noteBeyond_orderly _ i _ _
      · exact .refl _

theorem State.placeRest_orderly (s : State) (i : StreamIndex) (l : LaneId) (g : Segment) (lastAccepted : Bool) :
    Orderly s (s.placeRest i l g lastAccepted) := by
  unfold State.placeRest
  split
  · exact .refl s
  · split
    · exact s.finishSegment_orderly _ _ _ _ _
    · exact s.placeBytes_orderly _ _ _ _ _

theorem State.placeSegment_orderly (s : State) (i : StreamIndex) (c : Context) (l : LaneId) (g : Segment) :
    Orderly s (s.placeSegment i c l g) := by
  have hrefused := s.finishSegment_orderly i l false none [.endConflict]
  have haccepted := s.acceptFinal_orderly i c (g.offset + g.length)
  unfold State.placeSegment
  dsimp only
  split
  · split
    · split
      · exact hrefused
      · split
        · exact (haccepted.trans (State.addOld_orderly _ i _)).trans (State.finishSegment_orderly _ _ _ _ _ _)
        · exact haccepted.trans (State.placeRest_orderly _ _ _ _ _)
    · split
      · exact s.placeRest_orderly _ _ _ _
      · exact hrefused
  · exact s.placeRest_orderly _ _ _ _

theorem State.dropStopped_orderly (s : State) (i : StreamIndex) : Orderly s (s.dropStopped i) :=
  (s.modifyCtx_orderly i _).trans (State.countDrop_orderly _ _)

theorem State.routeSegment_orderly (s : State) (l : LaneId) (g : Segment) : Orderly s (s.routeSegment l g) := by
  refine (s.lookup_orderly g.tag).trans ?_
  unfold State.routeSegment
  dsimp only
  split
  · exact State.countDrop_orderly _ _
  · exact State.countDrop_orderly _ _
  · split
    · exact (State.placeSegment_orderly _ _ _ _ _).trans (State.settle_orderly _ _)
    · exact State.dropStopped_orderly _ _

theorem State.handleSegment_orderly (s : State) (l : LaneId) (record : List Byte) :
    Orderly s (s.handleSegment l record) := by
  unfold State.handleSegment
  split
  · exact s.countDrop_orderly _
  · split
    · exact s.countDrop_orderly _
    · exact s.routeSegment_orderly _ _

/-! ## Reply lanes, lost notices, the idle test -/

theorem State.redirect_orderly (old new : Option LaneId) (l : List StreamIndex) :
    ∀ s : State, Orderly s (s.redirect old new l) := by
  induction l with
  | nil => exact .refl
  | cons i rest ih => exact fun s => ((s.checkParity_orderly i).trans (State.modifyCtx_orderly _ i _)).trans (ih _)

theorem State.putBackEach_orderly (l : List NoticeRecord) : ∀ s : State, Orderly s (s.putBackEach l) := by
  induction l with
  | nil => exact .refl
  | cons r rest ih =>
    refine fun s => Orderly.trans ?_ (ih _)
    unfold State.putBackOne
    split
    · exact s.modifyCtx_orderly _ _
    · exact .refl s

theorem State.putBackAll_orderly (s : State) (records : List NoticeRecord) : Orderly s (s.putBackAll records) :=
  (s.checkRead_orderly _).trans (State.putBackEach_orderly _ _)

theorem State.idleTest_orderly (s : State) (i : StreamIndex) : Orderly s (s.idleTest i) := by
  unfold State.idleTest
  split
  · exact .refl s
  · split_ifs
    · exact (s.setCtx_orderly i _).trans (State.raise_orderly _ _)
    · exact s.checkParity_orderly i
    · exact .refl s

theorem State.idleTests_orderly (l : List StreamIndex) : ∀ s : State, Orderly s (s.idleTests l) := by
  induction l with
  | nil => exact .refl
  | cons i rest ih => exact fun s => (s.idleTest_orderly i).trans (ih _)

/-! ## Outcomes of a verification (R101 to R110) -/

theorem State.countVerification_orderly (s : State) (v : Verification) : Orderly s (s.countVerification v) := by
  cases v with
  | pass check => exact s.count_orderly _ _
  | compared n => exact (s.count_orderly _ _).trans (State.count_orderly _ _ _)
  | fail reason => exact s.count_orderly _ _

theorem State.resume_orderly (s : State) (i : StreamIndex) (c : Context) : Orderly s (s.resume i c) := by
  unfold State.resume
  split_ifs
  · exact (s.modifyCtx_orderly i _).trans (State.raise_orderly _ _)
  · exact .refl s

theorem State.testThreshold_orderly (s : State) (i : StreamIndex) (pos : Nat) (c : Context) :
    Orderly s (s.testThreshold i pos c) := by
  unfold State.testThreshold
  split_ifs
  · exact (((s.modifyCtx_orderly i _).trans (State.clearQueue_orderly _ i)).trans (State.modifyCtx_orderly _ i _)).trans
      (State.raise_orderly _ _)
  · exact s.modifyCtx_orderly i _

theorem State.failInHold_orderly (s : State) (i : StreamIndex) (c : Context) (r : Option Nat) :
    Orderly s (s.failInHold i c r) := by
  unfold State.failInHold
  dsimp only
  refine (s.modifyCtx_orderly i fun d => { d with holdFailures := d.holdFailures + 1 }).trans ?_
  split_ifs
  · exact (State.modifyCtx_orderly _ i _).trans (State.retireGiven_orderly _ _ _)
  · exact State.enterAborted_orderly _ _ _ _

theorem State.failReceiving_orderly (s : State) (i : StreamIndex) (pos : Nat) (c : Context) (r : Option Nat) :
    Orderly s (s.failReceiving i pos c r) := by
  unfold State.failReceiving
  dsimp only
  generalize Context.count _ _ = d
  refine (s.setCtx_orderly i d).trans ?_
  split_ifs
  · exact State.enterAborted_orderly _ _ _ _
  · exact State.failInHold_orderly _ _ _ _
  · exact (State.testThreshold_orderly _ _ _ _).trans (State.retireGiven_orderly _ _ _)

theorem State.outcomeReceiving_orderly (s : State) (i : StreamIndex) (pos : Nat) (c : Context) (v : Verification) :
    Orderly s (s.outcomeReceiving i pos c v) := by
  cases v with
  | pass check => exact (s.modifyCtx_orderly i _).trans (State.resume_orderly _ _ _)
  | compared n =>
    exact ((s.modifyCtx_orderly i _).trans (State.resume_orderly _ _ _)).trans (State.orderedCommit_orderly _ _)
  | fail reason => exact s.failReceiving_orderly _ _ _ _

theorem State.outcomeStopped_orderly (s : State) (i : StreamIndex) (pos : Nat) (v : Verification) :
    Orderly s (s.outcomeStopped i pos v) := by
  cases v with
  | pass check => exact s.modifyChunk_orderly _ _ _
  | compared n => exact (s.modifyCtx_orderly i _).trans (State.orderedCommit_orderly _ _)
  | fail reason => exact (s.modifyChunk_orderly _ _ _).trans (State.retireGiven_orderly _ _ _)

theorem State.applyOutcome_orderly (s : State) (i : StreamIndex) (pos : Nat) (v : Verification) :
    Orderly s (s.applyOutcome i pos v) := by
  unfold State.applyOutcome
  split
  · exact .refl s
  · split
    · exact s.outcomeReceiving_orderly _ _ _ _
    · exact s.outcomeReceiving_orderly _ _ _ _
    · exact s.outcomeStopped_orderly _ _ _
    · exact s.outcomeStopped_orderly _ _ _
    · exact s.endInFlight_orderly _ _ _
    · exact .refl s

/-! ## Completions (R125 to R130) -/

theorem State.storeFailure_orderly (s : State) (i : StreamIndex) (pos : Nat) (c : Context) (r : ChunkRecord) :
    Orderly s (s.storeFailure i pos c r) := by
  have h := s.modifyChunk_orderly i pos fun x => { x with state := .verified }
  unfold State.storeFailure
  dsimp only
  split_ifs
  · exact h
  · cases c.state with
    | opened => exact h.trans (State.enterAborted_orderly _ _ _ _)
    | hold => exact h.trans (State.enterAborted_orderly _ _ _ _)
    | salvaging => exact h.trans (State.enterReleasing_orderly _ _ _)
    | complete => exact h
    | aborted => exact h
    | releasing => exact h

theorem State.targetFull_orderly (s : State) (i : StreamIndex) (pos : Nat) (c : Context) :
    Orderly s (s.targetFull i pos c) := by
  have h := s.modifyChunk_orderly i pos fun x => { x with state := .verified }
  unfold State.targetFull
  dsimp only
  cases c.state with
  | opened => exact h.trans (State.enterAborted_orderly _ _ _ _)
  | hold => exact h.trans (State.enterAborted_orderly _ _ _ _)
  | salvaging => exact h.trans (State.enterReleasing_orderly _ _ _)
  | complete => exact h
  | aborted => exact h
  | releasing => exact h

theorem State.poisonedCompletion_orderly (s : State) (i : StreamIndex) (pos : Nat) (c : Context) (r : ChunkRecord) :
    Orderly s (s.poisonedCompletion i pos c r) := by
  unfold State.poisonedCompletion State.poisonedFailure
  dsimp only
  refine (s.modifyChunk_orderly i pos ChunkRecord.poisoned).trans ?_
  split
  · split
    · exact (State.modifyCtx_orderly _ i _).trans (State.enterAborted_orderly _ _ _ _)
    · exact ((State.modifyCtx_orderly _ i _).trans (State.modifyCtx_orderly _ i _)).trans
        (State.retireFromChunk_orderly _ _ _)
  · exact State.retireFromChunk_orderly _ _ _

theorem State.applyCompletion_orderly (s : State) (i : StreamIndex) (pos : Nat) (st : CompletionStatus) (check : Word) :
    Orderly s (s.applyCompletion i pos st check) := by
  have hlive : ∀ c r, Orderly s (s.completeLive i pos c r st check) := by
    intro c r
    unfold State.completeLive
    split
    · split_ifs
      · exact (s.modifyChunk_orderly _ _ _).trans (State.orderedCommit_orderly _ _)
      · exact s.storeFailure_orderly _ _ _ _
    · exact s.storeFailure_orderly _ _ _ _
    · exact s.targetFull_orderly _ _ _
    · exact s.poisonedCompletion_orderly _ _ _ _
  unfold State.applyCompletion
  split
  · exact .refl s
  · split
    · exact s.endInFlight_orderly _ _ _
    · exact .refl s
    · exact hlive _ _
    · exact .refl s

/-! ## Withdrawals (R119, R121, R122) -/

theorem State.withdrawOne_orderly (s : State) (q : ChunkName) (rest : List ChunkName) :
    Orderly s (s.withdrawOne q rest) := by
  unfold State.withdrawOne
  split
  · exact .refl s
  · split_ifs
    · exact (s.modifyChunk_orderly _ _ _).trans (State.giveUpAll_orderly _ _ _)
    · exact s.modifyChunk_orderly _ _ _

theorem State.withdrawEach_orderly (l : List ChunkName) : ∀ s : State, Orderly s (s.withdrawEach l) := by
  induction l with
  | nil => exact .refl
  | cons q rest ih => exact fun s => (s.withdrawOne_orderly q rest).trans (ih _)

end Sys2Proof.Machine
end

section
/-! # The two invariants of a step (O57, O58) and the updates that keep them -/

namespace Sys2Proof.Machine

/-! ## The invariants -/

/-- The queues keep their bounds, the drain tags are distinct, the settings are in range, the counters saturate. -/
structure Books (s : State) : Prop where
  queues : QueueBounds s
  tags : s.tagsPresent.Nodup
  settings : s.settings.InRange
  live : s.live.Saturating
  snapshot : s.snapshot.Saturating

/-- Every lane keeps its credit account, and a device that is not READY is at rest. -/
structure Credits (s : State) : Prop where
  accounts : CreditAccounts s
  rests : RestsUnlessReady s

/-- What every step keeps. -/
structure Lawful (s t : State) : Prop where
  books : Books s → Books t
  credits : Credits s → Credits t

theorem Lawful.trans {s t u : State} (h : Lawful s t) (g : Lawful t u) : Lawful s u :=
  ⟨fun b => g.books (h.books b), fun c => g.credits (h.credits c)⟩

/-- The fields that the invariants speak of. -/
def State.ledger (s : State) :
    DeviceState × Settings × CounterSet × CounterSet × List (List Byte) × List Response × List EventRecord × Vector Lane 4 ×
      List Offer × List DrainRecord × List ChunkName × Option EngineOp :=
  (s.device, s.settings, s.live, s.snapshot, s.commands, s.responses, s.events, s.lanes, s.offered, s.drainMap,
    s.verifyQueue, s.engine)

theorem Lawful.of_ledger {s t : State} (h : t.ledger = s.ledger) : Lawful s t := by
  simp only [State.ledger, Prod.mk.injEq] at h
  obtain ⟨hdevice, hsettings, hlive, hsnapshot, hcommands, hresponses, hevents, hlanes, hoffered, hdrain, hqueue, hengine⟩ := h
  refine ⟨fun ⟨hq, ht, hr, hl, hs⟩ => ⟨?_, ?_, ?_, ?_, ?_⟩, fun ⟨ha, hr⟩ => ⟨?_, ?_⟩⟩
  · simpa only [QueueBounds, State.lane, State.drainLoad, hcommands, hresponses, hevents, hlanes, hoffered, hdrain] using hq
  · simpa only [State.tagsPresent, hoffered, hdrain] using ht
  · rwa [hsettings]
  · rwa [hlive]
  · rwa [hsnapshot]
  · simpa only [CreditAccounts, State.lane, hlanes] using ha
  · simpa only [RestsUnlessReady, State.lane, hdevice, hlanes, hoffered, hdrain, hqueue, hengine] using hr

theorem Lawful.refl (s : State) : Lawful s s := .of_ledger rfl

/-! ## An orderly handling -/

/-- A device that is not READY at rest: no lane is up. -/
theorem RestsUnlessReady.ready_of_lane {s : State} (h : RestsUnlessReady s) {l : LaneId} (hl : (s.lane l).state ≠ .down) :
    s.device = .ready :=
  by_contra fun hd => hl ((h hd).1 l)

/-- The notice flag of an ACTIVE lane is no part of its account (R41, R141). -/
theorem Lane.Account.of_flag {v w : Lane} (h : w = { v with flag := w.flag }) (hflag : v.state ≠ .active → w.flag = v.flag)
    (ha : v.Account) : w.Account := by
  by_cases hv : v.state = .active
  · rw [h]
    simpa only [Lane.Account, hv] using ha
  · rw [h, hflag hv]
    exact ha

theorem Orderly.accounts {s t : State} (h : Orderly s t) (ha : CreditAccounts s) : CreditAccounts t := fun l =>
  (ha l).of_flag (h.lanes l).1 (h.lanes l).2

theorem Orderly.books {s t : State} (h : Orderly s t) (b : Books s) : Books t := by
  obtain ⟨⟨hcommands, hresponses, hevents, hout, hload⟩, htags, hsettings, hlive, hsnapshot⟩ := b
  refine ⟨⟨?_, ?_, h.bound hevents, fun l => ?_, ?_⟩, ?_, ?_, h.counts hlive, ?_⟩
  · rwa [h.commands]
  · rwa [h.responses]
  · rw [(h.lanes l).1]; exact hout l
  · exact (Nat.add_le_add h.offered.length_le h.drainMap.length_le).trans hload
  · exact htags.sublist ((h.offered.map _).append (h.drainMap.map _))
  · rwa [h.settings]
  · rwa [h.snapshot]

theorem Orderly.lawful {s t : State} (h : Orderly s t) (hr : RestsUnlessReady s → RestsUnlessReady t) : Lawful s t :=
  ⟨h.books, fun c => ⟨h.accounts c.accounts, hr c.rests⟩⟩

/-- An orderly handling that begins only while the device is READY. -/
theorem Orderly.lawful_of_ready {s t : State} (h : Orderly s t) (hr : RestsUnlessReady s → s.device = .ready) :
    Lawful s t :=
  h.lawful fun r hd => absurd (h.device.trans (hr r)) hd

/-- A shared operation brings nothing to a device at rest. -/
theorem StreamOp.rests {s t : State} (h : StreamOp s t) (hr : RestsUnlessReady s) : RestsUnlessReady t := by
  intro hd
  have hdevice : t.device = s.device := by rw [h.rest]
  obtain ⟨hdown, hqueue, hengine, hoffered, hdrain⟩ := hr (hdevice ▸ hd)
  refine ⟨fun l => ?_, ?_, ?_, ?_, ?_⟩
  · rw [(h.lanes l).1]; exact hdown l
  · exact List.sublist_nil.mp (hqueue ▸ h.queue)
  · rw [h.rest]; exact hengine
  · exact List.sublist_nil.mp (hoffered ▸ h.offered)
  · rw [h.rest]; exact hdrain

theorem StreamOp.lawful {s t : State} (h : StreamOp s t) (g : Orderly s t) : Lawful s t := g.lawful h.rests

theorem State.raise_lawful (s : State) (e : Event) : Lawful s (s.raise e) := (s.raise_op e).lawful (s.raise_orderly e)

theorem State.poolTest_lawful (s : State) : Lawful s s.poolTest := s.poolTest_op.lawful s.poolTest_orderly

theorem State.count_lawful (s : State) (k : Counter) (n : Nat) : Lawful s (s.count k n) :=
  (s.count_op k n).lawful (s.count_orderly k n)

theorem State.redirect_lawful (s : State) (old new : Option LaneId) (l : List StreamIndex) :
    Lawful s (s.redirect old new l) :=
  (State.redirect_op old new l s).lawful (State.redirect_orderly old new l s)

/-! ## Lanes (R36 to R43, R50) -/

/-- A lane is written that keeps its account and its bound, and that is DOWN unless it was not or the device is READY. -/
theorem State.setLane_lawful {s : State} {l : LaneId} {v : Lane}
    (hout : (s.lane l).output.length ≤ Config.outputDepth → v.output.length ≤ Config.outputDepth)
    (hacc : (s.lane l).Account → v.Account)
    (hup : v.state = .down ∨ (s.lane l).state ≠ .down ∨ s.device = .ready) : Lawful s (s.setLane l v) := by
  refine ⟨fun ⟨⟨hc, hr, he, ho, hd⟩, ht, hs, hl, hn⟩ => ⟨⟨hc, hr, he, fun m => ?_, hd⟩, ht, hs, hl, hn⟩,
    fun ⟨ha, hr⟩ => ⟨fun m => ?_, fun hd => ?_⟩⟩
  · rw [State.lane_setLane]
    split_ifs
    · exact hout (ho l)
    · exact ho m
  · rw [State.lane_setLane]
    split_ifs
    · exact hacc (ha l)
    · exact ha m
  · obtain ⟨hdown, hrest⟩ := hr hd
    refine ⟨fun m => ?_, hrest⟩
    rw [State.lane_setLane]
    split_ifs
    · rcases hup with h | h | h
      · exact h
      · exact absurd (hdown l) h
      · exact absurd h hd
    · exact hdown m

theorem Lane.account_down {v : Lane} (h : v.state = .down) : v.Account ↔
    v.ingress = [] ∧ v.credit = 0 ∧ v.owed = 0 ∧ v.output = [] ∧ v.flag = none := by
  simp only [Lane.Account, h]

theorem Lane.account_active {v : Lane} (h : v.state = .active) : v.Account ↔
    v.credit + v.ingress.length + v.owed = 32 := by
  simp only [Lane.Account, h, Config.laneCredits]

theorem Lane.account_quiesced {v : Lane} (h : v.state = .quiesced) : v.Account ↔
    v.owed = 0 ∧ v.flag = none ∧ v.credit + v.ingress.length ≤ 32 := by
  simp only [Lane.Account, h, Config.laneCredits]

theorem Lane.up_account {v : Lane} (h : v.state = .down) (ha : v.Account) (pool : PoolState) : (v.up pool).Account := by
  obtain ⟨hingress, -⟩ := (Lane.account_down h).mp ha
  rw [Lane.account_active (v := v.up pool) rfl]
  simp [Lane.up, hingress, Config.laneCredits]

theorem Lane.resumed_account {v : Lane} (h : v.state = .quiesced) (ha : v.Account) (pool : PoolState) :
    (v.resumed pool).Account := by
  obtain ⟨-, -, hsum⟩ := (Lane.account_quiesced h).mp ha
  rw [Lane.account_active (v := v.resumed pool) rfl]
  simp only [Lane.resumed, Config.laneCredits]
  omega

theorem Lane.quieted_account {v : Lane} (h : v.state = .active) (ha : v.Account) : v.quieted.Account := by
  have hsum := (Lane.account_active h).mp ha
  rw [Lane.account_quiesced (v := v.quieted) rfl]
  simp only [Lane.quieted, true_and]
  omega

theorem Lane.lost_account (v : Lane) : v.lost.Account := by
  rw [Lane.account_down (v := v.lost) rfl]
  exact ⟨rfl, rfl, rfl, rfl, rfl⟩

/-- A pushed record takes a credit with it into the queue (R42). -/
theorem Lane.pushed_account {v : Lane} (hdown : v.state ≠ .down) (hcredit : 1 ≤ v.credit) (ha : v.Account)
    (record : List Byte) : Lane.Account { v with ingress := v.ingress ++ [record], credit := v.credit - 1 } := by
  cases h : v.state with
  | down => exact absurd h hdown
  | active =>
    have hsum := (Lane.account_active h).mp ha
    refine (Lane.account_active rfl).mpr ?_
    simp only [List.length_append, List.length_singleton]
    omega
  | quiesced =>
    obtain ⟨howed, hflag, hsum⟩ := (Lane.account_quiesced h).mp ha
    refine (Lane.account_quiesced rfl).mpr ⟨howed, hflag, ?_⟩
    simp only [List.length_append, List.length_singleton]
    omega

/-- A taken record earns a credit, owed or withheld (R43). -/
theorem Lane.afterTake_account {v : Lane} {record : List Byte} {rest : List (List Byte)}
    (hingress : v.ingress = record :: rest) (ha : v.Account) : (v.afterTake rest).Account := by
  have hlength : v.ingress.length = rest.length + 1 := by rw [hingress, List.length_cons]
  unfold Lane.afterTake
  cases h : v.state with
  | down => rw [hingress] at hlength; rw [Lane.account_down h] at ha; simp [hingress] at ha
  | active =>
    have hsum := (Lane.account_active h).mp ha
    refine (Lane.account_active rfl).mpr ?_
    simp only [if_true]
    omega
  | quiesced =>
    obtain ⟨howed, hflag, hsum⟩ := (Lane.account_quiesced h).mp ha
    refine (Lane.account_quiesced rfl).mpr ⟨by simpa using howed, hflag, ?_⟩
    dsimp only
    omega

/-- A record placed carries every owed credit to the partner (R44). -/
theorem Lane.place_account {v : Lane} (h : v.state = .active) (ha : v.Account) (n : Notice) (i : Option StreamIndex) :
    (v.place n i).Account := by
  have hsum := (Lane.account_active h).mp ha
  rw [Lane.account_active (v := v.place n i) h]
  simp only [Lane.place]
  omega

/-- The output queue is no part of the account of a lane that is up (R36). -/
theorem Lane.Account.of_output {v : Lane} {rest : List NoticeRecord} (h : v.state ≠ .down) (ha : v.Account) :
    Lane.Account { v with output := rest } := by
  cases hs : v.state with
  | down => exact absurd hs h
  | active => exact (Lane.account_active rfl).mpr ((Lane.account_active hs).mp ha)
  | quiesced => exact (Lane.account_quiesced rfl).mpr ((Lane.account_quiesced hs).mp ha)

theorem State.laneActive_lawful {s : State} {l : LaneId} {v : Lane} (h : Lawful s (s.setLane l v)) (cause : LaneCause) :
    Lawful s (s.laneActive l v cause) :=
  (h.trans (State.raise_lawful _ _)).trans (State.redirect_lawful _ _ _ _)

theorem State.laneQuiesced_lawful {s : State} {l : LaneId} (h : (s.lane l).state = .active) :
    Lawful s (s.laneQuiesced l) :=
  ((State.setLane_lawful (v := (s.lane l).quieted) (fun ho => ho) (Lane.quieted_account h) (.inr (.inl (by simp [h])))).trans
    (State.raise_lawful _ _)).trans (State.redirect_lawful _ _ _ _)

theorem State.linkLost_lawful (s : State) (l : LaneId) (cause : LaneCause) : Lawful s (s.linkLost l cause) := by
  unfold State.linkLost
  dsimp only
  split
  · exact State.setLane_lawful (fun ho => ho) (fun ha => ha) (.inl ‹_›)
  · have hlost : Lawful s ((s.count (.drop .laneLost) (s.lane l).ingress.length).setLane l (s.lane l).lost) :=
      (s.count_lawful _ _).trans (State.setLane_lawful (fun _ => Nat.zero_le _) (fun _ => Lane.lost_account _) (.inl rfl))
    refine Lawful.trans (Lawful.trans ?_ ((State.putBackAll_op _ _).lawful (State.putBackAll_orderly _ _)))
      (State.raise_lawful _ _)
    split
    · exact hlost.trans (State.redirect_lawful _ _ _ _)
    · exact hlost

/-- A record joins the output queue of an ACTIVE lane that has room (R44). -/
theorem State.place_lawful {s : State} {l : LaneId} (hactive : (s.lane l).state = .active)
    (hroom : (s.lane l).output.length < Config.outputDepth) (n : Notice) (i : Option StreamIndex) {v : Lane}
    (hv : v = { (s.lane l).place n i with turn := v.turn, flag := v.flag }) : Lawful s (s.setLane l v) := by
  have hstate : v.state = .active := by rw [hv]; exact hactive
  refine State.setLane_lawful (fun _ => ?_) (fun ha => ?_) (.inr (.inl (by simp [hactive])))
  · rw [hv]
    simp only [Lane.place, List.length_append, List.length_singleton]
    omega
  · have hplaced := (Lane.account_active (v := (s.lane l).place n i) hactive).mp (Lane.place_account hactive ha n i)
    rw [Lane.account_active hstate, hv]
    exact hplaced

/-! ## The drain port (R116 to R118) -/

theorem State.tagInUse_iff (s : State) (tag : Word) : s.tagInUse tag = true ↔ tag ∈ s.tagsPresent := by
  simp only [State.tagInUse, State.tagsPresent, Bool.or_eq_true, List.any_eq_true, decide_eq_true_eq, List.mem_append,
    List.mem_map]

/-- A counter that stops at a tag in use has passed over every tag on its way. -/
theorem State.tags_of_nextTag {s : State} (n : Nat) : ∀ t : Word, s.nextTag n t ∈ s.tagsPresent →
    ∀ j, j ≤ n → t + 1 + BitVec.ofNat 32 j ∈ s.tagsPresent := by
  induction n with
  | zero =>
    intro t h j hj
    obtain rfl : j = 0 := Nat.le_zero.mp hj
    simpa [State.nextTag] using h
  | succ n ih =>
    intro t h j hj
    by_cases huse : s.tagInUse (t + 1) = true
    · cases j with
      | zero => simpa using (s.tagInUse_iff _).mp huse
      | succ j =>
        rw [State.nextTag, if_pos huse] at h
        have hnext := ih (t + 1) h j (Nat.le_of_succ_le_succ hj)
        rwa [show t + 1 + BitVec.ofNat 32 (j + 1) = t + 1 + 1 + BitVec.ofNat 32 j by
          rw [BitVec.ofNat_add]; ac_rfl]
    · rw [State.nextTag, if_neg huse] at h
      exact absurd ((s.tagInUse_iff _).mpr h) huse

/-- While fewer records are present than the counter may pass over, it stops at a tag of none of them (R118). -/
theorem State.nextTag_fresh {s : State} (h : s.drainLoad ≤ Config.drainDepth) (t : Word) :
    s.nextTag Config.drainDepth t ∉ s.tagsPresent := by
  intro hmem
  have hall := State.tags_of_nextTag Config.drainDepth t hmem
  have hnodup : ((List.range (Config.drainDepth + 1)).map fun j => t + 1 + BitVec.ofNat 32 j).Nodup := by
    refine (List.nodup_map_iff_inj_on List.nodup_range).mpr fun a ha b hb hab => ?_
    have hofNat : BitVec.ofNat 32 a = BitVec.ofNat 32 b := by simpa using hab
    have htoNat := congrArg BitVec.toNat hofNat
    simp only [List.mem_range, Config.drainDepth] at ha hb
    simp only [BitVec.toNat_ofNat] at htoNat
    omega
  have hsub : ((List.range (Config.drainDepth + 1)).map fun j => t + 1 + BitVec.ofNat 32 j) ⊆ s.tagsPresent := by
    intro x hx
    obtain ⟨j, hj, rfl⟩ := List.mem_map.mp hx
    exact hall j (Nat.lt_succ_iff.mp (List.mem_range.mp hj))
  have hlength := (hnodup.subperm hsub).length_le
  rw [List.length_map, List.length_range] at hlength
  simp only [State.tagsPresent, List.length_append, List.length_map] at hlength
  unfold State.drainLoad at h
  omega

/-- An offer joins the offered list under a tag of its own. -/
theorem State.addOffer_lawful {s : State} (hready : s.device = .ready) (hroom : s.drainLoad < Config.drainDepth) {o : Offer}
    (hfresh : o.drainTag ∉ s.tagsPresent) (tag : Word) (arbiter : StreamIndex) :
    Lawful s { s with tagCounter := tag, arbiter := arbiter, offered := s.offered ++ [o] } := by
  refine ⟨fun ⟨⟨hc, hr, he, ho, hd⟩, ht, hs, hl, hn⟩ => ⟨⟨hc, hr, he, ho, ?_⟩, ?_, hs, hl, hn⟩,
    fun ⟨ha, hr⟩ => ⟨ha, fun hd => absurd hready hd⟩⟩
  · unfold State.drainLoad at hroom ⊢
    simp only [List.length_append, List.length_singleton]
    omega
  · have hperm : (((s.offered ++ [o]).map (·.drainTag)) ++ s.drainMap.map (·.drainTag)).Perm (o.drainTag :: s.tagsPresent) := by
      rw [List.map_append, List.append_assoc]
      exact List.perm_middle
    exact hperm.nodup_iff.mpr (List.nodup_cons.mpr ⟨hfresh, ht⟩)

/-- The head offer's record moves into the drain map (R123). -/
theorem State.moveOffer_lawful {s : State} {o : Offer} {rest : List Offer} (h : s.offered = o :: rest) {r : DrainRecord}
    (htag : r.drainTag = o.drainTag) : Lawful s { s with offered := rest, drainMap := s.drainMap ++ [r] } := by
  refine ⟨fun ⟨⟨hc, hr, he, ho, hd⟩, ht, hs, hl, hn⟩ => ⟨⟨hc, hr, he, ho, ?_⟩, ?_, hs, hl, hn⟩,
    fun ⟨ha, hr⟩ => ⟨ha, fun hd => ?_⟩⟩
  · unfold State.drainLoad at hd ⊢
    rw [h, List.length_cons] at hd
    simp only [List.length_append, List.length_singleton]
    omega
  · have hperm : (rest.map (·.drainTag) ++ (s.drainMap ++ [r]).map (·.drainTag)).Perm s.tagsPresent := by
      rw [State.tagsPresent, h, List.map_append, List.map_singleton, htag, List.map_cons, List.cons_append]
      exact (List.append_assoc _ _ _ ▸ List.perm_append_singleton _ _)
    exact hperm.nodup_iff.mpr ht
  · have hnone := (hr hd).2.2.2.1
    rw [h] at hnone
    exact absurd hnone (by simp)

/-- Records leave the drain map and the offered list. -/
theorem State.lessDrain_orderly (s : State) {m : List DrainRecord} {o : List Offer} (hm : m.Sublist s.drainMap)
    (ho : o.Sublist s.offered) : Orderly s { s with drainMap := m, offered := o } :=
  ⟨rfl, rfl, rfl, rfl, rfl, fun _ => ⟨rfl, fun _ => rfl⟩, id, ho, hm, id⟩

/-! ## The control port (R161, R162, R171) -/

theorem State.dequeued_lawful {s : State} {record : List Byte} {rest : List (List Byte)} (h : s.commands = record :: rest) :
    Lawful s (s.dequeued rest) := by
  refine ⟨fun ⟨⟨hc, hrest⟩, ht, hs, hl, hn⟩ => ⟨⟨?_, hrest⟩, ht, hs, hl, hn⟩, fun ⟨ha, hr⟩ => ⟨ha, hr⟩⟩
  rw [h, List.length_cons] at hc
  exact (Nat.le_succ _).trans hc

theorem State.respond_lawful {s : State} (h : s.responses.length < Config.commandDepth) (record : List Byte) (st : Status)
    (data : List Byte) : Lawful s (s.respond record st data) := by
  refine ⟨fun ⟨⟨hc, _, hrest⟩, ht, hs, hl, hn⟩ => ⟨⟨hc, ?_, hrest⟩, ht, hs, hl, hn⟩, fun ⟨ha, hr⟩ => ⟨ha, hr⟩⟩
  simpa using h

/-- Settings that are in range when those before are. -/
theorem Lawful.setSettings {s t : State} (h : Lawful s t) {g : Settings} (hg : s.settings.InRange → g.InRange) :
    Lawful s { t with settings := g } := by
  refine ⟨fun b => ?_, fun c => ?_⟩
  · obtain ⟨hq, ht, -, hl, hn⟩ := h.books b
    exact ⟨hq, ht, hg b.settings, hl, hn⟩
  · obtain ⟨ha, hr⟩ := h.credits c
    exact ⟨ha, hr⟩

/-- The interval's end copies the live counters and zeroes them (R169). -/
theorem State.endInterval_lawful (s : State) : Lawful s s.endInterval := by
  refine Lawful.trans ?_ (State.raise_lawful _ _)
  exact ⟨fun ⟨hq, ht, hs, hl, _⟩ => ⟨hq, ht, hs, CounterSet.zero_saturating, hl⟩, fun ⟨ha, hr⟩ => ⟨ha, hr⟩⟩

theorem fieldAt_two_lt (record : List Byte) (off : Nat) : fieldAt record off 2 < 65536 := by
  have hlt := leNat_lt ((record.drop off).take 2)
  have hpow : 256 ^ ((record.drop off).take 2).length ≤ 256 ^ 2 :=
    Nat.pow_le_pow_right (by omega) (List.length_take_le _ _)
  exact lt_of_lt_of_le hlt hpow

theorem configureField_lt {record : List Byte} {bit off v : Nat} (h : configureField record bit off = some v) : v < 65536 := by
  unfold configureField at h
  split_ifs at h
  rw [← Option.some.inj h]
  exact fieldAt_two_lt record off

/-- CONFIGURE's clamps keep the settings in range (R87, R171). -/
theorem Settings.configure_inRange {g : Settings} (h : g.InRange) (record : List Byte) :
    (g.configure (parseConfigure record)).InRange := by
  obtain ⟨hlow, hhigh, hmax, htimeout, htimeout', hidle, hinterval, hinterval'⟩ := h
  have hlow' : (g.configure (parseConfigure record)).low ≤ 1024 := by
    simp only [Settings.configure]
    cases (parseConfigure record).low with
    | none => exact hlow
    | some v => exact min_le_right _ _
  have hclamp : ∀ low high, low ≤ 1024 → low < clampHigh low high ∧ clampHigh low high ≤ 2047 := by
    intro low high hl
    unfold clampHigh
    split_ifs <;> omega
  refine ⟨hlow', ?_, ?_, ?_, ?_, ?_, ?_, ?_⟩
  · simp only [Settings.configure] at hlow' ⊢
    split_ifs with hgiven
    · exact (hclamp _ _ hlow').1
    · simp only [Bool.or_eq_true, not_or, Bool.not_eq_true, Option.isSome_eq_false_iff, Option.isNone_iff_eq_none] at hgiven
      simpa [hgiven.1] using hhigh
  · simp only [Settings.configure] at hlow' ⊢
    split_ifs
    · exact (hclamp _ _ hlow').2
    · exact hmax
  · simp only [Settings.configure]
    cases (parseConfigure record).drainTimeout with
    | none => exact htimeout
    | some v => simp only [Option.map_some, Option.getD_some]; split_ifs <;> omega
  · simp only [Settings.configure]
    cases htime : (parseConfigure record).drainTimeout with
    | none => exact htimeout'
    | some v =>
      have hv : v < 65536 := configureField_lt htime
      simp only [Option.map_some, Option.getD_some]
      split_ifs <;> omega
  · simp only [Settings.configure]
    cases (parseConfigure record).idleLimit with
    | none => exact hidle
    | some v => exact min_le_right _ _
  · simp only [Settings.configure]
    cases (parseConfigure record).intervalLength with
    | none => exact hinterval
    | some v => simp only [Option.map_some, Option.getD_some, clampInterval]; split_ifs <;> omega
  · simp only [Settings.configure]
    cases (parseConfigure record).intervalLength with
    | none => exact hinterval'
    | some v => simp only [Option.map_some, Option.getD_some, clampInterval]; split_ifs <;> omega

end Sys2Proof.Machine
end

section
/-! # The two invariants of a step: the commands (O57, O58) -/

namespace Sys2Proof.Machine

/-- A command's outcome: the state it leaves, if any, keeps the invariants of `s`. -/
def LawfulInto (s : State) (o : Host.Outcome State Fault Refusal) : Prop := ∀ t, o = .next t → Lawful s t

theorem Lawful.next {s t : State} (h : Lawful s t) : LawfulInto s (.next t) :=
  fun _ hu => Host.Outcome.next.inj hu ▸ h

/-- Nothing but the answers of the drain port has changed. -/
theorem State.answerTake_lawful (s : State) (bytes : List Byte) : Lawful s (s.answerTake bytes) := .of_ledger rfl

theorem State.answerRead_lawful (s : State) (bytes : List Byte) : Lawful s (s.answerRead bytes) := .of_ledger rfl

/-! ## Lanes and segments -/

theorem execPushSegment_lawful (s : State) (l : LaneId) (record : List Byte) :
    LawfulInto s (execPushSegment l record s) := by
  unfold execPushSegment
  dsimp only
  split
  · split
    · exact (s.count_lawful _ _).next
    · exact (Lawful.refl s).next
  · rename_i hdown
    split
    · rename_i hcredit
      refine Lawful.next (Lawful.trans ?_ (State.count_lawful _ _ _))
      exact State.setLane_lawful (fun ho => ho) (fun ha => Lane.pushed_account hdown hcredit ha record) (.inr (.inl hdown))
    · exact (s.count_lawful _ _).next

theorem execLinkUp_lawful (s : State) (l : LaneId) : LawfulInto s (execLinkUp l s) := by
  unfold execLinkUp
  dsimp only
  split
  · rename_i h
    refine Lawful.next (Lawful.trans (State.laneActive_lawful ?_ _) (State.poolTest_lawful _))
    exact State.setLane_lawful (fun ho => ho) (fun ha => Lane.up_account (v := { s.lane l with link := .up }) h.1 ha _)
      (.inr (.inr h.2))
  · refine Lawful.next (State.setLane_lawful (fun ho => ho) (fun ha => ha) ?_)
    by_cases hdown : (s.lane l).state = .down
    · exact .inl hdown
    · exact .inr (.inl hdown)

theorem execLinkLost_lawful (s : State) (l : LaneId) (cause : LaneCause) :
    LawfulInto s (.next (s.linkLost l cause).poolTest) :=
  ((s.linkLost_lawful l cause).trans (State.poolTest_lawful _)).next

theorem execNoticeTake_lawful (s : State) (l : LaneId) : LawfulInto s (execNoticeTake l s) := by
  unfold execNoticeTake
  split
  · exact Lawful.next (.of_ledger rfl)
  · rename_i r rest houtput
    refine Lawful.next (Lawful.trans (t := s.modifyLane l fun v => { v with output := rest }) ?_ (.of_ledger rfl))
    have hlength : (s.lane l).output.length = rest.length + 1 := by rw [houtput, List.length_cons]
    refine State.setLane_lawful (fun ho => ?_) (fun ha => ?_) ?_
    · dsimp only
      omega
    · refine Lane.Account.of_output ?_ ha
      intro hdown
      obtain ⟨-, -, -, hnone, -⟩ := (Lane.account_down hdown).mp ha
      rw [hnone] at houtput
      exact absurd houtput (by simp)
    · by_cases hdown : (s.lane l).state = .down
      · exact .inl hdown
      · exact .inr (.inl hdown)

theorem execSegmentTake_lawful (s : State) (l : LaneId) : LawfulInto s (execSegmentTake l s) := by
  unfold execSegmentTake
  dsimp only
  split
  · exact (Lawful.refl s).next
  · exact (Lawful.refl s).next
  · rename_i record rest hingress hdown
    have htaken : Lawful s (s.setLane l ((s.lane l).afterTake rest)) :=
      State.setLane_lawful (fun ho => ho) (Lane.afterTake_account hingress) (.inr (.inl hdown))
    refine Lawful.next (Lawful.trans (htaken.trans ?_) (State.poolTest_lawful _))
    refine (State.handleSegment_orderly _ _ _).lawful_of_ready fun hr => hr.ready_of_lane (l := l) ?_
    rw [State.lane_setLane, if_pos rfl]
    exact hdown

theorem State.serveStream_lawful {s : State} {l : LaneId} (hactive : (s.lane l).state = .active)
    (hroom : (s.lane l).output.length < Config.outputDepth) (i : StreamIndex) : Lawful s (s.serveStream l i) := by
  unfold State.serveStream
  split
  · exact .refl s
  · split
    · exact .refl s
    · have hset := fun d : Context => (s.setCtx_op i d).lawful (s.setCtx_orderly i d)
      have hplace := fun (d : Context) (n : Notice) =>
        State.place_lawful (s := s.setCtx i d) (v := { (s.lane l).place n (some i) with turn := i }) hactive hroom n
          (some i) rfl
      exact (hset _).trans (hplace _ _)

theorem execNoticePlacement_lawful (s : State) (l : LaneId) : LawfulInto s (execNoticePlacement l s) := by
  unfold execNoticePlacement
  dsimp only
  split
  · rename_i h
    obtain ⟨hactive, hroom⟩ := h
    split
    · exact (State.place_lawful hactive hroom _ _ rfl).next
    · split
      · refine Lawful.next (Lawful.trans ?_ (State.poolTest_lawful _))
        unfold State.placeStreamOrCredit
        dsimp only
        generalize hturn : s.turn (turnOrder (s.lane l).turn) (s.servable l) = r
        have hop : StreamOp s r.1 := hturn ▸ s.turn_op _ _
        have hlane := (hop.lanes l).1
        have hactive' : (r.1.lane l).state = .active := by rw [hlane]; exact hactive
        have hroom' : (r.1.lane l).output.length < Config.outputDepth := by rw [hlane]; exact hroom
        refine (hop.lawful (hturn ▸ s.turn_orderly _ _)).trans ?_
        split
        · exact State.serveStream_lawful hactive' hroom' _
        · split
          · exact State.place_lawful hactive' hroom' _ _ rfl
          · exact .refl _
      · exact (Lawful.refl s).next
  · exact (Lawful.refl s).next

/-! ## The drain port -/

theorem State.takeHead_lawful (s : State) : Lawful s s.takeHead := by
  unfold State.takeHead
  dsimp only
  generalize hread : s.checkRead _ = t
  refine (hread ▸ (s.checkRead_op _).lawful (s.checkRead_orderly _) : Lawful s t).trans ?_
  split
  · exact State.answerTake_lawful _ _
  · rename_i o rest hoffered
    unfold State.takeOffer
    dsimp only
    refine Lawful.trans ?_ (State.answerTake_lawful _ _)
    refine Lawful.trans ?_ ((State.settle_op _ _).lawful (State.settle_orderly _ _))
    refine Lawful.trans ?_ ((State.modifyChunk_op _ _ _ _).lawful (State.modifyChunk_orderly _ _ _ _))
    exact State.moveOffer_lawful hoffered rfl

theorem execTake_lawful (s : State) : LawfulInto s (execTake s) := by
  unfold execTake
  split
  · exact (s.answerTake_lawful _).next
  · exact (s.takeHead_lawful.trans (State.poolTest_lawful _)).next

theorem State.readRecord_lawful (s : State) (q : ReadRequest) (d : DrainRecord) : Lawful s (s.readRecord q d) := by
  unfold State.readRecord State.readChunk
  split
  · split
    · split
      · exact s.answerRead_lawful _
      · exact ((s.reportRead_op _ _ _ _).lawful (s.reportRead_orderly _ _ _ _)).trans (State.answerRead_lawful _ _)
    · exact s.answerRead_lawful _
  · exact s.answerRead_lawful _

theorem execRead_lawful (s : State) (record : List Byte) : LawfulInto s (execRead record s) := by
  unfold execRead
  dsimp only
  split
  · exact (s.answerRead_lawful _).next
  · exact ((((s.checkParity_op _).lawful (s.checkParity_orderly _)).trans (State.readRecord_lawful _ _ _)).trans
      (State.poolTest_lawful _)).next

/-- A drain map that holds a record is that of a READY device. -/
theorem RestsUnlessReady.ready_of_drainRecord {s : State} {tag : Word} {d : DrainRecord} (hd : s.drainRecord tag = some d)
    (h : RestsUnlessReady s) : s.device = .ready := by
  by_contra hdevice
  obtain ⟨-, -, -, -, hnone⟩ := h hdevice
  rw [State.drainRecord, hnone] at hd
  exact absurd hd (by simp)

theorem State.endRecord_orderly (s : State) (d : DrainRecord) (status : CompletionStatus) (check : Word) :
    Orderly s (s.endRecord d status check) := by
  unfold State.endRecord
  dsimp only
  refine Orderly.trans ?_ (State.poolTest_orderly _)
  refine Orderly.trans ?_ (State.settle_orderly _ _)
  refine Orderly.trans ?_ (State.applyCompletion_orderly _ _ _ _ _)
  exact (s.checkParity_orderly _).trans (State.lessDrain_orderly _ List.filter_sublist (.refl _))

theorem execComplete_lawful (s : State) (record : List Byte) : LawfulInto s (execComplete record s) := by
  unfold execComplete
  dsimp only
  split
  · split
    · exact (s.count_lawful _ _).next
    · exact (Lawful.refl s).next
  · exact ((s.endRecord_orderly _ _ _).lawful_of_ready (RestsUnlessReady.ready_of_drainRecord ‹_›)).next

theorem execDrainTimeout_lawful (s : State) (tag : Word) : LawfulInto s (execDrainTimeout tag s) := by
  unfold execDrainTimeout
  split
  · exact (Lawful.refl s).next
  · split
    · exact (((s.count_orderly _ _).trans (State.endRecord_orderly _ _ _ _)).lawful_of_ready
        (RestsUnlessReady.ready_of_drainRecord ‹_›)).next
    · exact (Lawful.refl s).next

/-- Withdrawals, and the tests each stream's event ends with, around the removal of records. -/
theorem State.withdrawMap_lawful (s : State) : Lawful s s.withdrawMap := by
  have hless : ∀ t : State, Lawful t { t with drainMap := [] } := fun t =>
    (t.lessDrain_orderly (List.nil_sublist _) (.refl _)).lawful fun hr hd =>
      ⟨(hr hd).1, (hr hd).2.1, (hr hd).2.2.1, (hr hd).2.2.2.1, rfl⟩
  unfold State.withdrawMap
  dsimp only
  refine Lawful.trans (Lawful.trans ?_ (hless _)) ((State.settleAll_op _ _).lawful (State.settleAll_orderly _ _))
  exact ((State.handleAll_op _ s).trans (State.withdrawEach_op _ _)).lawful
    ((State.handleAll_orderly _ s).trans (State.withdrawEach_orderly _ _))

theorem State.withdrawAll_lawful (s : State) : Lawful s s.withdrawAll := by
  have hless : ∀ t : State, Lawful t { t with drainMap := [], offered := [] } := fun t =>
    (t.lessDrain_orderly (List.nil_sublist _) (List.nil_sublist _)).lawful fun hr hd =>
      ⟨(hr hd).1, (hr hd).2.1, (hr hd).2.2.1, rfl, rfl⟩
  unfold State.withdrawAll
  dsimp only
  refine Lawful.trans (Lawful.trans ?_ (hless _)) ((State.settleAll_op _ _).lawful (State.settleAll_orderly _ _))
  exact ((State.handleAll_op _ s).trans (State.withdrawEach_op _ _)).lawful
    ((State.handleAll_orderly _ s).trans (State.withdrawEach_orderly _ _))

theorem execWriterSignal_lawful (s : State) (signal : WriterSignal) : LawfulInto s (execWriterSignal signal s) := by
  have hset : Lawful s { s with signal := signal } := .of_ledger rfl
  unfold execWriterSignal
  dsimp only
  split
  · exact (Lawful.refl s).next
  · split
    · cases signal with
      | ready => exact (hset.trans (State.raise_lawful _ _)).next
      | offline =>
        exact (((hset.trans (State.raise_lawful _ _)).trans (State.withdrawMap_lawful _)).trans
          (State.poolTest_lawful _)).next
    · exact hset.next

theorem execPortReset_lawful (s : State) : LawfulInto s (execPortReset s) := by
  have hset : Lawful s { s with signal := .offline } := .of_ledger rfl
  unfold execPortReset
  dsimp only
  refine Lawful.next (Lawful.trans (Lawful.trans ?_ (State.withdrawAll_lawful _)) (State.poolTest_lawful _))
  split
  · exact hset.trans (State.raise_lawful _ _)
  · exact hset

theorem State.makeOffer_lawful {s : State} (hready : s.device = .ready) (hroom : s.drainLoad < Config.drainDepth)
    (i : StreamIndex) : Lawful s (s.makeOffer i) := by
  unfold State.makeOffer
  split
  · exact .refl s
  · split
    · exact .refl s
    · rename_i c _ _ x _
      have hoffer := State.addOffer_lawful hready hroom (o := c.offerOf i x.1 x.2 (s.nextTag Config.drainDepth s.tagCounter))
        (State.nextTag_fresh hroom.le s.tagCounter) (s.nextTag Config.drainDepth s.tagCounter) i
      have hset := fun d : Context => hoffer.trans ((State.setCtx_op _ i d).lawful (State.setCtx_orderly _ i d))
      refine Lawful.trans ?_ ((State.settle_op _ i).lawful (State.settle_orderly _ i))
      split
      · exact (hset _).trans (State.count_lawful _ _ _)
      · exact hset _

theorem execArbiterTurn_lawful (s : State) : LawfulInto s (execArbiterTurn s) := by
  unfold execArbiterTurn
  split
  · rename_i h
    obtain ⟨hready, hroom, -⟩ := h
    refine Lawful.next (Lawful.trans ?_ (State.poolTest_lawful _))
    unfold State.serveFirst
    dsimp only
    generalize hturn : s.turn (turnOrder s.arbiter) s.offerableAt = r
    have horderly : Orderly s r.1 := hturn ▸ s.turn_orderly _ _
    have hroom' : r.1.drainLoad < Config.drainDepth :=
      lt_of_le_of_lt (Nat.add_le_add horderly.offered.length_le horderly.drainMap.length_le) hroom
    refine (horderly.lawful_of_ready fun _ => hready).trans ?_
    split
    · exact State.makeOffer_lawful (horderly.device.trans hready) hroom' _
    · exact .refl _
  · exact (Lawful.refl s).next

/-! ## The Check Unit -/

theorem State.startVerify_orderly (s : State) (q : ChunkName) : Orderly s (s.startVerify q) := by
  have hengine : ∀ (t : State) (o : EngineOp), Orderly t { t with engine := some o } := fun _ _ => .of_stores rfl
  unfold State.startVerify
  split
  · exact .refl s
  · split
    · exact .refl s
    · split
      · exact .refl s
      · exact ((s.modifyChunk_orderly _ _ _).trans (hengine _ _)).trans (State.settle_orderly _ _)

theorem execEngineTake_lawful (s : State) : LawfulInto s (execEngineTake s) := by
  unfold execEngineTake
  split
  · exact (Lawful.refl s).next
  · split
    · rename_i h
      split
      · exact ((((s.setQueue_orderly _).trans (State.startVerify_orderly _ _)).trans
          (State.poolTest_orderly _)).lawful_of_ready fun _ => h.1).next
      · exact ((((s.checkParity_orderly _).trans (State.setQueue_orderly _ _)).trans
          (State.poolTest_orderly _)).lawful_of_ready fun _ => h.1).next
    · exact (Lawful.refl s).next

theorem execVerifyCompletion_lawful (s : State) : LawfulInto s (execVerifyCompletion s) := by
  have hidle : ∀ t : State, Orderly t { t with engine := none } := fun _ => .of_stores rfl
  unfold execVerifyCompletion
  split
  · exact (Lawful.refl s).next
  · rename_i o hengine
    have hbusy : RestsUnlessReady s → s.device = .ready := by
      refine fun hr => by_contra fun hd => ?_
      obtain ⟨-, -, hnone, -⟩ := hr hd
      rw [hnone] at hengine
      exact absurd hengine (by simp)
    refine (Orderly.lawful_of_ready ?_ hbusy).next
    refine Orderly.trans ?_ (State.poolTest_orderly _)
    refine Orderly.trans ?_ (State.settle_orderly _ _)
    refine Orderly.trans ?_ (State.applyOutcome_orderly _ _ _ _)
    refine Orderly.trans ?_ (State.countVerification_orderly _ _)
    refine Orderly.trans ?_ (hidle _)
    exact (s.reportRead_orderly _ _ _ _).trans (State.checkParity_orderly _ _)

/-! ## The queues of the control port -/

theorem execCommandWrite_lawful (s : State) (record : List Byte) : LawfulInto s (execCommandWrite record s) := by
  unfold execCommandWrite
  dsimp only
  split
  · rename_i hroom
    refine Lawful.next ⟨fun ⟨⟨_, hrest⟩, ht, hs, hl, hn⟩ => ⟨⟨?_, hrest⟩, ht, hs, hl, hn⟩, fun ⟨ha, hr⟩ => ⟨ha, hr⟩⟩
    simpa using hroom
  · have hnoted := (s.noteError_op .commandOverrun none none none).lawful (s.noteError_orderly _ none none none)
    split
    · exact hnoted.next
    · exact (hnoted.trans (State.raise_lawful _ _)).next

theorem execResponseQueueRead_lawful (s : State) : LawfulInto s (execResponseQueueRead s) := by
  unfold execResponseQueueRead
  split
  · exact Lawful.next (.of_ledger rfl)
  · rename_i r rest hresponses
    refine Lawful.next ⟨fun ⟨⟨hc, hlength, hrest⟩, ht, hs, hl, hn⟩ => ⟨⟨hc, ?_, hrest⟩, ht, hs, hl, hn⟩,
      fun ⟨ha, hr⟩ => ⟨ha, hr⟩⟩
    rw [hresponses, List.length_cons] at hlength
    exact (Nat.le_succ _).trans hlength

theorem execEventQueueRead_lawful (s : State) : LawfulInto s (execEventQueueRead s) := by
  unfold execEventQueueRead
  split
  · exact Lawful.next (.of_ledger rfl)
  · rename_i r rest hevents
    refine Lawful.next ⟨fun ⟨⟨hc, hr, hlength, hrest⟩, ht, hs, hl, hn⟩ => ⟨⟨hc, hr, ?_, hrest⟩, ht, hs, hl, hn⟩,
      fun ⟨ha, hr⟩ => ⟨ha, hr⟩⟩
    rw [hevents, List.length_cons] at hlength
    exact (Nat.le_succ _).trans hlength

theorem State.takeWhen_lawful {body : State → List Byte → State}
    (h : ∀ t record, t.responses.length < Config.commandDepth → Lawful t (body t record)) (s : State)
    (accepts : Nat → Bool) : Lawful s (s.takeWhen accepts body) := by
  unfold State.takeWhen
  split
  · exact .refl s
  · rename_i record rest hcommands
    split
    · rename_i htaken
      rw [Bool.and_eq_true, decide_eq_true_eq] at htaken
      exact (State.dequeued_lawful hcommands).trans (h (s.dequeued rest) record htaken.2)
    · exact .refl s

theorem State.takeCommand_lawful {body : State → List Byte → State}
    (h : ∀ t record, t.device = .ready → t.responses.length < Config.commandDepth → Lawful t (body t record)) (s : State)
    (code : Nat) : Lawful s (s.takeCommand code body) := by
  refine State.takeWhen_lawful (fun t record hroom => ?_) s _
  split
  · exact (h t record ‹_› hroom).trans (State.poolTest_lawful _)
  · exact State.respond_lawful hroom _ _ _

/-! ## Commands that end with their response -/

/-- An orderly handling that ends with a response to the record. -/
def Responds (s t : State) : Prop := ∃ u record status data, Orderly s u ∧ t = u.respond record status data

theorem Orderly.responds {s u : State} (h : Orderly s u) (record : List Byte) (status : Status) (data : List Byte) :
    Responds s (u.respond record status data) := ⟨u, record, status, data, h, rfl⟩

theorem Orderly.then_responds {s t u : State} (h : Orderly s t) (g : Responds t u) : Responds s u := by
  obtain ⟨v, record, status, data, hv, rfl⟩ := g
  exact (h.trans hv).responds record status data

theorem Responds.lawful {s t : State} (h : Responds s t) (hready : s.device = .ready)
    (hroom : s.responses.length < Config.commandDepth) : Lawful s t := by
  obtain ⟨u, record, status, data, hu, rfl⟩ := h
  exact (hu.lawful_of_ready fun _ => hready).trans (State.respond_lawful (by rwa [hu.responses]) _ _ _)

/-- A response that changes nothing else. -/
theorem State.respond_responds (s : State) (record : List Byte) (status : Status) (data : List Byte) :
    Responds s (s.respond record status data) := (Orderly.refl s).responds record status data

theorem execResponds_lawful {body : State → List Byte → State} (h : ∀ t record, Responds t (body t record)) (s : State)
    (code : Nat) : LawfulInto s (.next (s.takeCommand code body)) :=
  (State.takeCommand_lawful (fun t record hready hroom => (h t record).lawful hready hroom) s code).next

theorem State.onStream_responds {body : State → StreamIndex → Context → State} (h : ∀ t i c, Responds t (body t i c))
    (s : State) (record : List Byte) : Responds s (s.onStream record body) := by
  refine (s.lookup_orderly (commandTag record)).then_responds ?_
  unfold State.onStream
  dsimp only
  split
  · exact State.respond_responds _ _ _ _
  · exact State.respond_responds _ _ _ _
  · exact h _ _ _

theorem State.openBody_responds (s : State) (record : List Byte) : Responds s (s.openBody record) := by
  unfold State.openBody
  dsimp only
  split
  · exact s.respond_responds _ _ _
  · refine (s.lookup_orderly (parseOpen record).tag).then_responds ?_
    split
    · exact State.respond_responds _ _ _ _
    · exact State.respond_responds _ _ _ _
    · split
      · exact State.respond_responds _ _ _ _
      · split
        · exact State.respond_responds _ _ _ _
        · exact ((State.setCtx_orderly _ _ _).trans (State.raiseReserve_orderly _ _)).responds _ _ _

theorem State.closeBody_responds (s : State) (record : List Byte) : Responds s (s.closeBody record) := by
  refine State.onStream_responds (fun t i c => ?_) s record
  split
  · exact (t.freeEntry_orderly i).responds _ _ _
  · exact t.respond_responds _ _ _

theorem State.abortBody_responds (s : State) (record : List Byte) : Responds s (s.abortBody record) := by
  refine State.onStream_responds (fun t i c => ?_) s record
  have habort := ((t.enterAborted_orderly i .hostAbort none).trans (State.settle_orderly _ i)).responds record .done []
  cases c.state with
  | opened => exact habort
  | hold => exact habort
  | aborted => exact t.respond_responds _ _ _
  | complete => exact t.respond_responds _ _ _
  | salvaging => exact t.respond_responds _ _ _
  | releasing => exact t.respond_responds _ _ _

theorem State.releaseBody_responds (s : State) (record : List Byte) : Responds s (s.releaseBody record) := by
  refine State.onStream_responds (fun t i c => ?_) s record
  have hrelease := ((t.enterReleasing_orderly i c.cause).trans (State.settle_orderly _ i)).responds record .done []
  cases c.state with
  | aborted => exact hrelease
  | salvaging => exact hrelease
  | opened => exact t.respond_responds _ _ _
  | hold => exact t.respond_responds _ _ _
  | complete => exact t.respond_responds _ _ _
  | releasing => exact t.respond_responds _ _ _

theorem State.salvageBody_responds (s : State) (record : List Byte) : Responds s (s.salvageBody record) := by
  refine State.onStream_responds (fun t i c => ?_) s record
  split
  · exact ((t.setCtx_orderly i _).trans (State.settle_orderly _ i)).responds _ _ _
  · exact t.respond_responds _ _ _

theorem State.extendBody_responds (s : State) (record : List Byte) : Responds s (s.extendBody record) := by
  refine State.onStream_responds (fun t i c => ?_) s record
  split
  · exact t.respond_responds _ _ _
  · split
    · exact t.respond_responds _ _ _
    · exact (t.setCtx_orderly i _).responds _ _ _

theorem State.flushBody_responds (s : State) (record : List Byte) : Responds s (s.flushBody record) := by
  refine State.onStream_responds (fun t i c => ?_) s record
  split
  · exact ((t.setCtx_orderly i _).trans (State.settle_orderly _ i)).responds _ _ _
  · exact t.respond_responds _ _ _

theorem State.queryBody_responds (s : State) (record : List Byte) : Responds s (s.queryBody record) :=
  State.onStream_responds (fun t _ _ => t.respond_responds _ _ _) s record

/-! ## LANE, CONFIGURE, CLEAR_ERRORS -/

theorem State.laneCommand_lawful {s : State} (hready : s.device = .ready) (hroom : s.responses.length < Config.commandDepth)
    (record : List Byte) (l : LaneId) (wanted : LaneState) : Lawful s (s.laneCommand record l wanted) := by
  have hanswer := fun st => State.respond_lawful hroom record st []
  unfold State.laneCommand
  dsimp only
  split
  · exact hanswer _
  · rename_i hactive
    refine (State.laneQuiesced_lawful hactive).trans (State.respond_lawful ?_ _ _ _)
    rw [State.laneQuiesced, (State.redirect_orderly _ _ _ _).responses, State.raise_responses]
    exact hroom
  · rename_i hquiesced
    split
    · refine (State.laneActive_lawful ?_ _).trans (State.respond_lawful ?_ _ _ _)
      · exact State.setLane_lawful (fun ho => ho) (fun ha => Lane.resumed_account hquiesced ha _) (.inr (.inr hready))
      · rw [State.laneActive, (State.redirect_orderly _ _ _ _).responses, State.raise_responses]
        exact hroom
    · exact hanswer _
  · exact hanswer _
  · exact hanswer _

theorem execLane_lawful (s : State) : LawfulInto s (execLane s) := by
  refine (State.takeCommand_lawful (fun t record hready hroom => ?_) s 9).next
  split
  · exact State.respond_lawful hroom _ _ _
  · split
    · exact State.laneCommand_lawful hready hroom _ _ _
    · exact State.respond_lawful hroom _ _ _

theorem State.configureBody_lawful {s : State} (hready : s.device = .ready)
    (hroom : s.responses.length < Config.commandDepth) (record : List Byte) : Lawful s (s.configureBody record) := by
  have hrange : s.settings.InRange → (s.settings.configure (parseConfigure record)).InRange := fun h =>
    Settings.configure_inRange h record
  unfold State.configureBody
  dsimp only
  refine Lawful.setSettings ?_ hrange
  generalize hset : ({ s with settings := { s.settings.configure (parseConfigure record) with
    enables := s.settings.enables } } : State) = u
  have hstart : Lawful s u := hset ▸ (Lawful.refl s).setSettings hrange
  have htested : ∀ v, Orderly u v → Lawful s (v.poolTest.respond record .done
      (s.settings.configure (parseConfigure record)).bytes) := fun v hv =>
    hstart.trans ((hv.trans (State.poolTest_orderly _)).responds record _ _ |>.lawful (by rw [← hset]; exact hready)
      (by rw [← hset]; exact hroom))
  have hidle : Orderly u (if idleBroughtForward s.settings.idleLimit
      (s.settings.configure (parseConfigure record)).idleLimit = true then u.idleTests streamIndices else u) := by
    split
    · exact State.idleTests_orderly _ u
    · exact .refl u
  generalize (if idleBroughtForward s.settings.idleLimit (s.settings.configure (parseConfigure record)).idleLimit = true
    then u.idleTests streamIndices else u) = v at hidle ⊢
  split
  · exact (htested _ hidle).trans (State.endInterval_lawful _)
  · exact htested _ hidle

theorem execConfigure_lawful (s : State) : LawfulInto s (execConfigure s) :=
  (State.takeCommand_lawful (fun _ record hready hroom => State.configureBody_lawful hready hroom record) s 10).next

theorem execClearErrors_lawful (s : State) : LawfulInto s (execClearErrors s) :=
  (State.takeCommand_lawful (fun t record _ hroom =>
    (State.respond_lawful hroom record .done t.errors.bytes).trans (.of_ledger (by rfl))) s 12).next

/-! ## Resets, the self-test, timers -/

/-- A reset leaves every block as after power-on (R175). -/
theorem State.restarted_lawful (s : State) (sample : ResetSample) (pool : Pool) (counter : Word) :
    Lawful s (s.restarted sample pool counter) := by
  have hlane : ∀ l, (s.restarted sample pool counter).lane l = Lane.reset sample.links[l] := fun l => by
    simp [State.restarted, State.lane]
  have hsettings : Settings.default.InRange := by simp [Settings.default, Settings.InRange]
  refine ⟨fun _ => ⟨⟨Nat.zero_le _, Nat.zero_le _, Nat.zero_le _, fun l => ?_, Nat.zero_le _⟩, List.nodup_nil, hsettings,
    CounterSet.zero_saturating, CounterSet.zero_saturating⟩, fun _ => ⟨fun l => ?_, fun _ => ⟨fun l => ?_, rfl, rfl, rfl, rfl⟩⟩⟩
  · rw [hlane]; exact Nat.zero_le _
  · rw [hlane]; exact (Lane.account_down rfl).mpr ⟨rfl, rfl, rfl, rfl, rfl⟩
  · rw [hlane]; rfl

theorem execReset_lawful (s : State) (sample : ResetSample) : LawfulInto s (execReset sample s) :=
  (State.takeWhen_lawful (fun t _ _ => (t.restarted_lawful sample _ _).trans
    (State.respond_lawful (by decide : ([] : List Response).length < Config.commandDepth) _ _ _)) s _).next

/-- A device that does not serve goes on to another state in which it does not serve. -/
theorem State.setDevice_lawful {s : State} (hs : s.device ≠ .ready) (d : DeviceState) :
    Lawful s { s with device := d } :=
  ⟨fun ⟨hq, ht, hg, hl, hn⟩ => ⟨hq, ht, hg, hl, hn⟩, fun ⟨ha, hr⟩ => ⟨ha, fun _ => hr hs⟩⟩

theorem execBufferWalk_lawful (s : State) (bad : List Nat) : LawfulInto s (execBufferWalk bad s) := by
  unfold execBufferWalk
  split
  · rename_i h
    exact ((Lawful.of_ledger (by rfl) : Lawful s s.walked).trans
      (State.setDevice_lawful (by rw [show s.walked.device = s.device from rfl, h]; simp) _)).next
  · exact (Lawful.refl s).next

theorem execStreamTableTest_lawful (s : State) (bad : List Nat) : LawfulInto s (execStreamTableTest bad s) := by
  unfold execStreamTableTest
  split
  · rename_i h
    exact ((Lawful.of_ledger (by rfl) : Lawful s { s with table := [] }).trans
      (State.setDevice_lawful (by simp [h]) _)).next
  · exact (Lawful.refl s).next

theorem State.laneAtReady_lawful {s : State} (h : s.device = .ready) (l : LaneId) :
    Lawful s (s.laneAtReady l) ∧ (s.laneAtReady l).device = .ready := by
  unfold State.laneAtReady
  dsimp only
  split
  · rename_i hlink
    refine ⟨State.laneActive_lawful ?_ _, ?_⟩
    · exact State.setLane_lawful (fun ho => ho) (fun ha => Lane.up_account hlink.2 ha _) (.inr (.inr h))
    · rw [State.laneActive, (State.redirect_orderly _ _ _ _).device, State.raise_device]
      exact h
  · exact ⟨.refl s, h⟩

theorem State.enterReady_lawful {s : State} (h : s.device ≠ .ready) : Lawful s s.enterReady := by
  have hlanes : ∀ (l : List LaneId) (t : State), t.device = .ready → Lawful t (l.foldl State.laneAtReady t) := by
    intro l
    induction l with
    | nil => exact fun t _ => .refl t
    | cons l rest ih =>
      intro t ht
      obtain ⟨hfirst, hready⟩ := State.laneAtReady_lawful ht l
      exact hfirst.trans (ih _ hready)
  have hready : Lawful s { s with device := .ready, intervalStart := s.time } :=
    (State.setDevice_lawful h .ready).trans (.of_ledger rfl)
  have hup := hready.trans (hlanes laneIds _ rfl)
  unfold State.enterReady
  dsimp only
  split
  · exact hup.trans (State.raise_lawful _ _)
  · exact hup

theorem execKnownAnswer_lawful (s : State) (flips : Word) : LawfulInto s (execKnownAnswer flips s) := by
  unfold execKnownAnswer
  split
  · rename_i h
    have hnot : s.device ≠ .ready := by rw [h]; simp
    split
    · exact ((State.enterReady_lawful hnot).trans (State.poolTest_lawful _)).next
    · exact (State.setDevice_lawful hnot _).next
  · exact (Lawful.refl s).next

theorem execScrub_lawful (s : State) : LawfulInto s (execScrub s) := by
  unfold execScrub
  split
  · have hmove : ∀ (t : State) (i : StreamIndex), Lawful t { t with scrubPosition := i } := fun _ _ => .of_ledger rfl
    exact ((((s.checkParity_op _).lawful (s.checkParity_orderly _)).trans (hmove _ _)).trans
      (State.poolTest_lawful _)).next
  · exact (Lawful.refl s).next

theorem execIdleExpiry_lawful (s : State) (i : StreamIndex) : LawfulInto s (execIdleExpiry i s) := by
  unfold execIdleExpiry
  split
  · exact (((s.idleTest_op i).lawful (s.idleTest_orderly i)).trans (State.poolTest_lawful _)).next
  · exact (Lawful.refl s).next

theorem execIntervalExpiry_lawful (s : State) : LawfulInto s (execIntervalExpiry s) := by
  unfold execIntervalExpiry
  split
  · exact s.endInterval_lawful.next
  · exact (Lawful.refl s).next

/-! ## The step (O57, O58) -/

theorem exec_lawful (x : Instr) (s : State) : LawfulInto s (exec x s) := by
  cases x with
  | pushSegment l record => exact execPushSegment_lawful s l record
  | linkUp l => exact execLinkUp_lawful s l
  | linkDown l => exact execLinkLost_lawful s l _
  | laneReset l => exact execLinkLost_lawful s l _
  | noticeTake l => exact execNoticeTake_lawful s l
  | segmentTake l => exact execSegmentTake_lawful s l
  | noticePlacement l => exact execNoticePlacement_lawful s l
  | take => exact execTake_lawful s
  | read record => exact execRead_lawful s record
  | complete record => exact execComplete_lawful s record
  | writerSignal signal => exact execWriterSignal_lawful s signal
  | portReset => exact execPortReset_lawful s
  | arbiterTurn => exact execArbiterTurn_lawful s
  | drainTimeout tag => exact execDrainTimeout_lawful s tag
  | engineTake => exact execEngineTake_lawful s
  | verifyCompletion => exact execVerifyCompletion_lawful s
  | commandWrite record => exact execCommandWrite_lawful s record
  | openCmd => exact execResponds_lawful State.openBody_responds s 1
  | closeCmd => exact execResponds_lawful State.closeBody_responds s 2
  | abortCmd => exact execResponds_lawful State.abortBody_responds s 3
  | releaseCmd => exact execResponds_lawful State.releaseBody_responds s 4
  | salvageCmd => exact execResponds_lawful State.salvageBody_responds s 5
  | extendCmd => exact execResponds_lawful State.extendBody_responds s 6
  | flushCmd => exact execResponds_lawful State.flushBody_responds s 7
  | queryCmd => exact execResponds_lawful State.queryBody_responds s 8
  | laneCmd => exact execLane_lawful s
  | configureCmd => exact execConfigure_lawful s
  | countersCmd => exact execResponds_lawful (fun t _ => t.respond_responds _ _ _) s 11
  | clearErrorsCmd => exact execClearErrors_lawful s
  | statusCmd => exact (State.takeWhen_lawful (fun _ _ hroom => State.respond_lawful hroom _ _ _) s _).next
  | resetCmd sample => exact execReset_lawful s sample
  | unknownCommand => exact (State.takeWhen_lawful (fun _ _ hroom => State.respond_lawful hroom _ _ _) s _).next
  | responseQueueRead => exact execResponseQueueRead_lawful s
  | eventQueueRead => exact execEventQueueRead_lawful s
  | powerOnReset sample => exact (s.restarted_lawful sample _ _).next
  | bufferWalk bad => exact execBufferWalk_lawful s bad
  | streamTableTest bad => exact execStreamTableTest_lawful s bad
  | knownAnswer flips => exact execKnownAnswer_lawful s flips
  | scrub => exact execScrub_lawful s
  | idleExpiry i => exact execIdleExpiry_lawful s i
  | intervalExpiry => exact execIntervalExpiry_lawful s

/-- An upset or the tick of the clock touches none of the fields. -/
theorem State.idle_lawful (s : State) : Lawful s s.idle := by
  unfold State.idle
  split
  · rename_i d rest _
    cases d <;> exact .of_ledger rfl
  · unfold State.tick
    split <;> exact .of_ledger rfl

theorem step_lawful {s t : State} (h : step s = .next t) : Lawful s t := by
  unfold step at h
  split at h
  · rename_i x rest _
    exact (Lawful.of_ledger rfl : Lawful s { s with pending := rest }).trans (exec_lawful x _ t h)
  · exact Host.Outcome.next.inj h ▸ s.idle_lawful

/-- Settles O57: every command, an upset and a tick keep the accounts and a device at rest. -/
theorem stepKeepsCreditAccounts : Obligations.StepKeepsCreditAccounts := by
  intro s t haccounts hrests h
  obtain ⟨haccounts', hrests'⟩ := (step_lawful h).credits ⟨haccounts, hrests⟩
  exact ⟨haccounts', hrests'⟩

/-- Settles O58: every command, an upset and a tick keep the bounds, the tags, the settings and the counters. -/
theorem stepKeepsBoundsAndTags : Obligations.StepKeepsBoundsAndTags := by
  intro s t hqueues htags hsettings hlive hsnapshot h
  obtain ⟨hqueues', htags', hsettings', hlive', hsnapshot'⟩ :=
    (step_lawful h).books ⟨hqueues, htags, hsettings, hlive, hsnapshot⟩
  exact ⟨hqueues', htags', hsettings', hlive', hsnapshot'⟩

end Sys2Proof.Machine
end

section
/-! # A lane written, a record pushed, the queues of the control port (O8, O37) -/

namespace Sys2Proof.Machine

/-! ## One lane written -/

section
variable (s : State) (l : LaneId) (v : Lane)

@[simp] theorem State.lane_setLane_self : (s.setLane l v).lane l = v := by rw [State.lane_setLane, if_pos rfl]

theorem otherLanes_setLane : OtherLanes s (s.setLane l v) l := fun m hm => by rw [State.lane_setLane, if_neg hm]

@[simp] theorem State.counter_setLane (k : Counter) : (s.setLane l v).counter k = s.counter k := rfl

end

/-- Lanes that no operation since has touched. -/
theorem OtherLanes.of_lanes {s t u : State} {l : LaneId} (h : OtherLanes s t l) (hu : u.lanes = t.lanes) :
    OtherLanes s u l := fun m hm => by rw [← h m hm, State.lane, State.lane, hu]

/-- A counter that counts one thing moves alone. -/
theorem counted_countDrop {s t : State} (h : t.live = s.live) (r : DropReason) : Counted s (t.countDrop r) (.drop r) 1 := by
  intro k
  rw [State.countDrop, State.counter_count, State.counter, State.counter, h]

/-! ## PUSH_SEGMENT (R42) -/

/-- Settles O8: a lane that is up, with a credit or without, and a DOWN one. -/
theorem pushSegmentTakesOrRefuses : Obligations.PushSegmentTakesOrRefuses := by
  intro l record s
  by_cases hdown : (s.lane l).state = .down
  · by_cases hready : s.device = .ready
    · refine ⟨s.countDrop .laneDown, ?_, fun h => absurd hdown h, fun h => absurd hdown h,
        fun _ _ => ⟨counted_countDrop rfl _, rfl⟩, fun _ h => absurd hready h⟩
      exact (if_pos hdown).trans (by rw [if_pos hready])
    · refine ⟨s, ?_, fun h => absurd hdown h, fun h => absurd hdown h, fun _ h => absurd h hready, fun _ _ => rfl⟩
      exact (if_pos hdown).trans (by rw [if_neg hready])
  · by_cases hcredit : 1 ≤ (s.lane l).credit
    · refine ⟨(s.setLane l { s.lane l with
        ingress := (s.lane l).ingress ++ [record], credit := (s.lane l).credit - 1 }).count (.received l) 1, ?_,
        fun _ _ => ⟨State.lane_setLane_self _ _ _, otherLanes_setLane _ _ _, State.counted_count _ _ _, rfl⟩,
        fun _ h => absurd h (by omega), fun h => absurd h hdown, fun h => absurd h hdown⟩
      exact (if_neg hdown).trans (if_pos hcredit)
    · refine ⟨s.countDrop .noCredit, (if_neg hdown).trans (if_neg hcredit), fun _ h => absurd h hcredit,
        fun _ _ => ⟨counted_countDrop rfl _, rfl⟩, fun h => absurd h hdown, fun h => absurd h hdown⟩

/-! ## The queues (R44, R161, R163, R164, R166) -/

/-- A raised event leaves a flag of its own kind and a first-error record as they are, once the record is filled. -/
theorem State.raise_commandOverrun (s : State) (e : Event) (h : s.errors.first.isSome = true) :
    (s.raise e).errors.commandOverrun = s.errors.commandOverrun ∧ (s.raise e).errors.first = s.errors.first := by
  refine ⟨?_, (s.raise_errors_kept e h).1⟩
  unfold State.raise
  split_ifs <;> rfl

theorem countersKept_raise (s : State) (e : Event) : CountersKept s (s.raise e) [.eventsLost] := fun _ hk =>
  State.counter_raise s e (by simpa using hk)

theorem State.raise_rest (s : State) (e : Event) :
    s.raise e = { s with errors := (s.raise e).errors, events := (s.raise e).events, live := (s.raise e).live } := by
  unfold State.raise
  split_ifs <;> rfl

/-- The error summary after a command record that found the queue full. -/
def State.overrun (s : State) : State := s.noteError .commandOverrun none none none

/-- A command record that finds the queue full (R161, R166). -/
theorem commandWrite_full {s : State} (record : List Byte) (h : 16 ≤ s.commands.length) :
    ∃ t, exec (.commandWrite record) s = .next t ∧ t.errors.commandOverrun = true ∧
      t.errors.first = s.errors.first.or (some ⟨.commandOverrun, none, none, none⟩) ∧
      (s.errors.commandOverrun = true → t.events = s.events ∧ t.live = s.live) ∧
      (s.errors.commandOverrun = false →
        t.events = (s.raise (.deviceError .commandOverrun none none none none)).events) ∧
      CountersKept s t [.eventsLost] ∧ t = { s with errors := t.errors, events := t.events, live := t.live } := by
  have hfull : ¬s.commands.length < Config.commandDepth := not_lt.mpr h
  have hfirst : s.overrun.errors.first.isSome = true := by
    show (s.errors.first.or _).isSome = true
    cases s.errors.first <;> rfl
  by_cases hset : s.errors.commandOverrun = true
  · refine ⟨s.overrun, ?_, rfl, rfl, fun _ => ⟨rfl, rfl⟩, fun hclear => ?_, fun _ _ => rfl, rfl⟩
    · exact (if_neg hfull).trans (by rw [if_pos hset]; rfl)
    · rw [hset] at hclear; exact Bool.noConfusion hclear
  · obtain ⟨hflag, hkept⟩ := s.overrun.raise_commandOverrun (.deviceError .commandOverrun none none none none) hfirst
    refine ⟨s.overrun.raise (.deviceError .commandOverrun none none none none), ?_, hflag, hkept, fun h => absurd h hset,
      fun _ => State.raise_events_congr (s := s.overrun) (t := s) rfl rfl rfl _, countersKept_raise s.overrun _,
      s.overrun.raise_rest _⟩
    exact (if_neg hfull).trans (by rw [if_neg hset]; rfl)

/-- The partner's take of the oldest notice (R44). -/
theorem noticeTake_head {s : State} {l : LaneId} {r : NoticeRecord} {rest : List NoticeRecord}
    (h : (s.lane l).output = r :: rest) :
    ∃ t, exec (.noticeTake l) s = .next t ∧ t.lane l = { s.lane l with output := rest } ∧ OtherLanes s t l ∧
      t = { s with lanes := t.lanes, ports := { s.ports with notice := s.ports.notice.set l (some r.bytes) } } := by
  refine ⟨{ s.setLane l { s.lane l with output := rest } with
    ports := { s.ports with notice := s.ports.notice.set l (some r.bytes) } }, ?_, State.lane_setLane_self s l _,
    otherLanes_setLane s l _, rfl⟩
  show execNoticeTake l s = _
  unfold execNoticeTake
  rw [h]
  rfl

/-- Settles O37: each queue with room or full, holding a record or none. -/
theorem queuesTakeAndGiveTheirOldest : Obligations.QueuesTakeAndGiveTheirOldest := by
  intro s
  refine ⟨fun record h => if_pos h, fun record h => commandWrite_full record h, fun h => ?_, fun r rest h => ?_, fun h => ?_,
    fun r rest h => ?_, ?_, fun l => ⟨fun h => ?_, fun r rest h => noticeTake_head h⟩⟩
  · simp only [exec, execResponseQueueRead, h]
  · simp only [exec, execResponseQueueRead, h]
  · simp only [exec, execEventQueueRead, h]
  · simp only [exec, execEventQueueRead, h]
  · rw [State.interruptLine, Bool.or_eq_true, Bool.not_eq_true', Bool.not_eq_true', List.isEmpty_eq_false_iff,
      List.isEmpty_eq_false_iff]
  · simp only [exec, execNoticeTake, h]

end Sys2Proof.Machine
end

section
/-! # A lane that changes its state, where every entry has good parity (O9, O12)

Reply lanes move and lost notices are put back by edits of contexts, one entry at a time. Where every entry has good parity
such a run of edits is one map over the streams, and nothing of the device but the table changes. -/

namespace Sys2Proof.Machine

/-! ## Edits of the streams -/

/-- From `s` to `t` every stream's context has been edited by `f`, every parity is good, and nothing else has changed. -/
structure Edits (s t : State) (f : StreamIndex → Context → Context) : Prop where
  rest : t = { s with table := t.table }
  wf : t.TableWF
  good : AllParityGood t
  ctx : ∀ i, t.ctx? i = (s.ctx? i).map (f i)

theorem Edits.refl {s : State} (hw : s.TableWF) (hg : AllParityGood s) : Edits s s fun _ => id :=
  ⟨rfl, hw, hg, fun _ => by rw [Option.map_id, id]⟩

theorem Edits.trans {s t u : State} {f g : StreamIndex → Context → Context} (h : Edits s t f) (k : Edits t u g) :
    Edits s u fun i c => g i (f i c) where
  rest := by rw [k.rest, h.rest]
  wf := k.wf
  good := k.good
  ctx i := by rw [k.ctx, h.ctx, Option.map_map]; rfl

theorem Edits.congr {s t : State} {f g : StreamIndex → Context → Context} (h : Edits s t f) (hfg : ∀ i c, f i c = g i c) :
    Edits s t g where
  rest := h.rest
  wf := h.wf
  good := h.good
  ctx i := by rw [h.ctx, show f i = g i from funext (hfg i)]

theorem State.modifyCtx_edits {s : State} (hw : s.TableWF) (hg : AllParityGood s) (i : StreamIndex)
    (f : Context → Context) : Edits s (s.modifyCtx i f) fun j => if j = i then f else id where
  rest := by unfold State.modifyCtx; split <;> rfl
  wf := State.modifyCtx_tableWF hw i f
  good j := by
    unfold State.modifyCtx
    split
    · rw [State.entry_setCtx hw]
      split_ifs
      · rfl
      · exact hg j
    · exact hg j
  ctx j := by
    rw [State.ctx?_modifyCtx hw]
    split_ifs with hj
    · rw [hj]
    · rw [Option.map_id, id]

/-! ## Reply lanes (R146) -/

/-- A stream whose reply lane is `old` takes `new`. -/
def Context.replyMoved (c : Context) (old new : Option LaneId) : Context :=
  { c with replyLane := if c.replyLane = old then new else c.replyLane }

theorem State.redirect_edits (old new : Option LaneId) (l : List StreamIndex) : ∀ s : State, s.TableWF →
    AllParityGood s → l.Nodup → Edits s (s.redirect old new l) fun i c => if i ∈ l then c.replyMoved old new else c := by
  induction l with
  | nil => exact fun s hw hg _ => (Edits.refl hw hg).congr fun _ _ => by simp
  | cons i rest ih =>
    intro s hw hg hl
    obtain ⟨hi, hrest⟩ := List.nodup_cons.mp hl
    have hfirst := State.modifyCtx_edits hw hg i fun c => if c.replyLane = old then { c with replyLane := new } else c
    rw [State.redirect, State.checkParity_good (hg i)]
    refine (hfirst.trans (ih _ hfirst.wf hfirst.good hrest)).congr fun j c => ?_
    have hmoved : (if c.replyLane = old then { c with replyLane := new } else c) = c.replyMoved old new := by
      unfold Context.replyMoved
      split_ifs <;> rfl
    by_cases hj : j = i
    · subst hj
      rw [if_neg hi, if_pos rfl, if_pos List.mem_cons_self, hmoved]
    · simp only [hj, if_false, id, List.mem_cons, false_or]

/-- Every stream is asked. -/
theorem State.redirectAll_edits {s : State} (hw : s.TableWF) (hg : AllParityGood s) (old new : Option LaneId) :
    Edits s (s.redirect old new streamIndices) fun _ c => c.replyMoved old new :=
  (State.redirect_edits old new streamIndices s hw hg (List.nodup_finRange _)).congr fun i _ =>
    if_pos (List.mem_finRange i)

/-- The lowest lane still ACTIVE, once lane `l` is not (R146). -/
theorem State.lowestActive_setLane {s : State} {l : LaneId} {v : Lane} (h : v.state ≠ .active) :
    (s.setLane l v).lowestActive = laneIds.find? fun m => decide (m ≠ l ∧ (s.lane m).state = .active) := by
  unfold State.lowestActive
  congr 1
  funext m
  rw [State.lane_setLane]
  by_cases hm : m = l
  · rw [if_pos hm]
    exact decide_eq_decide.mpr ⟨fun hv => absurd hv h, fun hv => absurd hm hv.1⟩
  · rw [if_neg hm]
    exact decide_eq_decide.mpr ⟨fun hv => ⟨hm, hv⟩, fun hv => hv.2⟩

/-! ## A lane that changes its state -/

/-- From `s` to `t` lane `l` has become `v`, the streams have been edited by `f`, and the event has been raised. -/
structure LaneMoved (s t : State) (l : LaneId) (v : Lane) (e : Event) (f : StreamIndex → Context → Context) : Prop where
  lane : t.lane l = v
  others : OtherLanes s t l
  good : AllParityGood t
  ctx : ∀ i, t.ctx? i = (s.ctx? i).map (f i)
  raised : Raised s t e
  counters : CountersKept s t [.eventsLost]
  rest : t = { s with lanes := t.lanes, table := t.table, events := t.events, live := t.live, errors := t.errors }

section
variable {s t : State} {l : LaneId} {v : Lane} {e : Event} {f : StreamIndex → Context → Context}

theorem SaysAs.raised {s t : State} (h : SaysAs s t) (e : Event) : Raised s (t.raise e) e :=
  ⟨(h.raise e).events, (h.raise e).errors⟩

theorem State.setLane_says (s : State) (l : LaneId) (v : Lane) : SaysAs s (s.setLane l v) := ⟨rfl, rfl, rfl, rfl⟩

/-- The event comes first, the edits after it. -/
theorem LaneMoved.of_edits (h : Edits ((s.setLane l v).raise e) t f) : LaneMoved s t l v e f := by
  obtain ⟨hrest, -, hgood, hctx⟩ := h
  have hlanes : t.lanes = (s.setLane l v).lanes := by rw [hrest]; simp
  have hraised := (s.setLane_says l v).raised e
  have hcounter := countersKept_raise (s.setLane l v) e
  refine ⟨?_, (otherLanes_setLane s l v).of_lanes hlanes, hgood, fun i => ?_, ?_, ?_, ?_⟩
  · rw [State.lane, hlanes]; exact State.lane_setLane_self s l v
  · rw [hctx, State.ctx?, State.entry, State.raise_table]; rfl
  · rw [hrest]; exact hraised
  · rw [hrest]; exact hcounter
  · rw [hrest, State.raise_rest (s.setLane l v) e]
    rfl

theorem State.laneActive_moved (hw : s.TableWF) (hg : AllParityGood s) (l : LaneId) (v : Lane) (cause : LaneCause) :
    LaneMoved s (s.laneActive l v cause) l v (.laneChanged l .active cause) fun _ c => c.replyMoved none (some l) :=
  .of_edits (State.redirectAll_edits (s := (s.setLane l v).raise (.laneChanged l .active cause))
    (by rw [State.TableWF, State.raise_table]; exact hw)
    (fun i => by rw [State.entry, State.raise_table]; exact hg i) none (some l))

theorem State.laneQuiesced_moved (hw : s.TableWF) (hg : AllParityGood s) (l : LaneId) :
    LaneMoved s (s.laneQuiesced l) l (s.lane l).quieted (.laneChanged l .quiesced .host) fun _ c =>
      c.replyMoved (some l) (laneIds.find? fun m => decide (m ≠ l ∧ (s.lane m).state = .active)) := by
  have hlowest : ((s.setLane l (s.lane l).quieted).raise (.laneChanged l .quiesced .host)).lowestActive =
      laneIds.find? fun m => decide (m ≠ l ∧ (s.lane m).state = .active) := by
    rw [← State.lowestActive_setLane (v := (s.lane l).quieted) (by simp [Lane.quieted])]
    unfold State.lowestActive State.lane
    rw [State.raise_lanes]
  unfold State.laneQuiesced
  dsimp only
  rw [hlowest]
  exact .of_edits (State.redirectAll_edits (s := (s.setLane l (s.lane l).quieted).raise (.laneChanged l .quiesced .host))
    (by rw [State.TableWF, State.raise_table]; exact hw)
    (fun i => by rw [State.entry, State.raise_table]; exact hg i) _ _)

/-- The watermark test finds the pool as it was. -/
theorem LaneMoved.poolTest (h : LaneMoved s t l v e f) (hs : Serving s) : t.poolTest = t :=
  hs.poolTest_quiet (by rw [h.rest]) (by rw [h.rest]) (by rw [h.rest])

end

/-! ## LINK_UP (R37, R41) -/

/-- Settles O9: a DOWN lane of a READY device, or any other link up. -/
theorem linkUpBringsTheLaneUp : Obligations.LinkUpBringsTheLaneUp := by
  intro l s
  refine ⟨fun hdown hs hg => ?_, fun hnot => ?_⟩
  · have hmoved := State.laneActive_moved hs.2.1 hg l (({ s.lane l with link := .up } : Lane).up s.pool.state) .linkUp
    refine ⟨_, ?_, hmoved.lane, hmoved.others, hmoved.good, hmoved.ctx, hmoved.raised, hmoved.counters, hmoved.rest⟩
    exact (if_pos ⟨hdown, hs.1⟩).trans (by rw [hmoved.poolTest hs])
  · refine ⟨s.setLane l { s.lane l with link := .up }, if_neg fun h => ?_, State.lane_setLane_self _ _ _,
      otherLanes_setLane _ _ _, rfl⟩
    rcases hnot with hup | hready
    · exact hup h.1
    · exact hready h.2

/-! ## LANE (R39) -/

theorem laneCommand_down {s : State} {l : LaneId} (h : (s.lane l).state = .down) (record : List Byte) (wanted : LaneState) :
    s.laneCommand record l wanted = s.respond record .wrongState [] := by
  unfold State.laneCommand
  dsimp only
  rw [h]

theorem laneCommand_quiesce {s : State} {l : LaneId} (h : (s.lane l).state = .active) (record : List Byte) :
    s.laneCommand record l .quiesced = (s.laneQuiesced l).respond record .done [] := by
  unfold State.laneCommand
  dsimp only
  rw [h]

theorem laneCommand_same {s : State} {l : LaneId} {wanted : LaneState} (hup : wanted ≠ .down)
    (h : (s.lane l).state = wanted) (record : List Byte) :
    s.laneCommand record l wanted = s.respond record .done [] := by
  unfold State.laneCommand
  dsimp only
  rw [h]
  cases wanted with
  | down => exact absurd rfl hup
  | active => rfl
  | quiesced => rfl

theorem laneCommand_resume {s : State} {l : LaneId} (h : (s.lane l).state = .quiesced) (record : List Byte) :
    s.laneCommand record l .active = if (s.lane l).link = .up
      then (s.laneActive l ((s.lane l).resumed s.pool.state) .host).respond record .done []
      else s.respond record .wrongState [] := by
  unfold State.laneCommand
  dsimp only
  rw [h]
section
variable {s : State} {record : List Byte} {rest : List (List Byte)} {l : LaneId}

theorem serving_dequeued (hs : Serving s) (rest : List (List Byte)) : Serving (s.dequeued rest) := hs

/-- A LANE record answered without more. -/
theorem lane_answered (hs : Serving s) {status : Status}
    (hx : exec .laneCmd s = .next ((s.dequeued rest).respond record status []).poolTest) :
    ∃ t, exec .laneCmd s = .next t ∧ Answered s t record rest status [] ∧
      t = { s with commands := t.commands, responses := t.responses } := by
  have hquiet : ((s.dequeued rest).respond record status []).poolTest = (s.dequeued rest).respond record status [] :=
    hs.poolTest_quiet rfl rfl rfl
  exact ⟨_, hquiet ▸ hx, ⟨rfl, rfl⟩, rfl⟩

/-- What a lane's change of state leaves of the device when it is answered DONE. -/
theorem LaneMoved.answered {u : State} {v : Lane} {e : Event} {f : StreamIndex → Context → Context}
    (h : LaneMoved (s.dequeued rest) u l v e f) :
    let t := u.respond record .done []
    Answered s t record rest .done [] ∧ OtherLanes s t l ∧ t.lane l = v ∧ AllParityGood t ∧
      (∀ i, t.ctx? i = (s.ctx? i).map (f i)) ∧ Raised s t e ∧ CountersKept s t [.eventsLost] ∧
      t = { s with commands := t.commands, responses := t.responses, lanes := t.lanes, table := t.table,
                   events := t.events, live := t.live, errors := t.errors } := by
  intro t
  obtain ⟨hlane, hothers, hgood, hctx, ⟨hevents, herrors⟩, hcounters, hrest⟩ := h
  have hsays : SaysAs s (s.dequeued rest) := ⟨rfl, rfl, rfl, rfl⟩
  have hcommands : u.commands = rest := by rw [hrest]; rfl
  have hresponses : u.responses = s.responses := by rw [hrest]; rfl
  refine ⟨⟨hcommands, ?_⟩, hothers, hlane, hgood, hctx, ⟨?_, ?_⟩, hcounters, ?_⟩
  · rw [← hresponses]; rfl
  · exact hevents.trans (hsays.raise e).events
  · exact herrors.trans (hsays.raise e).errors
  · refine (congrArg (fun w : State => w.respond record .done []) hrest).trans ?_
    simp only [t, State.respond, hcommands, hresponses]
    rfl

/-- The watermark test after a LANE that moved a lane. -/
theorem LaneMoved.answered_poolTest {u : State} {v : Lane} {e : Event} {f : StreamIndex → Context → Context}
    (h : LaneMoved (s.dequeued rest) u l v e f) (hs : Serving s) :
    (u.respond record .done []).poolTest = u.respond record .done [] := by
  have hpool : u.pool = s.pool ∧ u.settings = s.settings := by rw [h.rest]; exact ⟨rfl, rfl⟩
  exact hs.poolTest_quiet (by rw [State.respond_pool, hpool.1]) (by rw [State.respond_pool, hpool.1])
    (by rw [State.respond_settings, hpool.2])

/-- The state that a LANE record asks for. -/
theorem requestedLaneState_eq (record : List Byte) : requestedLaneState record =
    if fieldAt record 5 1 = 1 then some .active else if fieldAt record 5 1 = 2 then some .quiesced else none := rfl

theorem requestedLaneState_active (h : fieldAt record 5 1 = 1) : requestedLaneState record = some .active := by
  rw [requestedLaneState_eq, if_pos h]

theorem requestedLaneState_quiesced (h : fieldAt record 5 1 = 2) : requestedLaneState record = some .quiesced := by
  rw [requestedLaneState_eq, if_neg (by omega), if_pos h]

theorem exec_lane (h : HeadCommand s 9 record rest) (hs : Serving s) {wanted : LaneState}
    (hwanted : requestedLaneState record = some wanted) (hl : fieldAt record 4 1 = l.val) :
    exec .laneCmd s = .next ((s.dequeued rest).laneCommand record l wanted).poolTest := by
  have hlt : fieldAt record 4 1 < 4 := hl ▸ l.isLt
  have hlane : (⟨fieldAt record 4 1, hlt⟩ : LaneId) = l := Fin.ext hl
  show Host.Outcome.next _ = _
  rw [State.takeCommand_head h hs.1, hwanted]
  dsimp only
  rw [dif_pos hlt, hlane]

theorem exec_lane_bad (h : HeadCommand s 9 record rest) (hs : Serving s)
    (hbad : 4 ≤ fieldAt record 4 1 ∨ (fieldAt record 5 1 ≠ 1 ∧ fieldAt record 5 1 ≠ 2)) :
    exec .laneCmd s = .next ((s.dequeued rest).respond record .badParam []).poolTest := by
  show Host.Outcome.next _ = _
  rw [State.takeCommand_head h hs.1]
  split
  · rfl
  · rename_i wanted hwanted
    rw [dif_neg]
    rcases hbad with hlane | ⟨hone, htwo⟩
    · exact not_lt.mpr hlane
    · rw [requestedLaneState_eq, if_neg hone, if_neg htwo] at hwanted
      exact absurd hwanted (by simp)

/-- LANE by the state asked for and the lane's own (R39, R43). -/
theorem exec_lane_quiesce (h : HeadCommand s 9 record rest) (hs : Serving s) (hg : AllParityGood s)
    (hl : fieldAt record 4 1 = l.val) (hstate : fieldAt record 5 1 = 2) (hactive : (s.lane l).state = .active) :
    exec .laneCmd s = .next (((s.dequeued rest).laneQuiesced l).respond record .done []) := by
  have hmoved := State.laneQuiesced_moved (s := s.dequeued rest) hs.2.1 hg l
  rw [exec_lane h hs (requestedLaneState_quiesced hstate) hl, laneCommand_quiesce (s := s.dequeued rest) hactive,
    hmoved.answered_poolTest hs]

theorem exec_lane_resume (h : HeadCommand s 9 record rest) (hs : Serving s) (hg : AllParityGood s)
    (hl : fieldAt record 4 1 = l.val) (hstate : fieldAt record 5 1 = 1) (hquiesced : (s.lane l).state = .quiesced)
    (hlink : (s.lane l).link = .up) : exec .laneCmd s = .next
      (((s.dequeued rest).laneActive l ((s.lane l).resumed s.pool.state) .host).respond record .done []) := by
  have hmoved := State.laneActive_moved (s := s.dequeued rest) hs.2.1 hg l ((s.lane l).resumed s.pool.state) .host
  have hlink' : ((s.dequeued rest).lane l).link = .up := hlink
  rw [exec_lane h hs (requestedLaneState_active hstate) hl, laneCommand_resume (s := s.dequeued rest) hquiesced,
    if_pos hlink']
  exact congrArg Host.Outcome.next (hmoved.answered_poolTest hs)

/-- The lane is as the record asks. -/
theorem exec_lane_same (h : HeadCommand s 9 record rest) (hs : Serving s) (hl : fieldAt record 4 1 = l.val)
    (hsame : (fieldAt record 5 1 = 1 ∧ (s.lane l).state = .active) ∨ (fieldAt record 5 1 = 2 ∧ (s.lane l).state = .quiesced)) :
    exec .laneCmd s = .next ((s.dequeued rest).respond record .done []).poolTest := by
  rcases hsame with ⟨hstate, hlane⟩ | ⟨hstate, hlane⟩
  · rw [exec_lane h hs (requestedLaneState_active hstate) hl, laneCommand_same (s := s.dequeued rest) (by simp) hlane]
  · rw [exec_lane h hs (requestedLaneState_quiesced hstate) hl, laneCommand_same (s := s.dequeued rest) (by simp) hlane]

/-- The lane is DOWN, or asked up while its link is down. -/
theorem exec_lane_wrong (h : HeadCommand s 9 record rest) (hs : Serving s) (hl : fieldAt record 4 1 = l.val)
    (hwrong : ((fieldAt record 5 1 = 1 ∨ fieldAt record 5 1 = 2) ∧ (s.lane l).state = .down) ∨
      (fieldAt record 5 1 = 1 ∧ (s.lane l).state = .quiesced ∧ (s.lane l).link = .down)) :
    exec .laneCmd s = .next ((s.dequeued rest).respond record .wrongState []).poolTest := by
  rcases hwrong with ⟨hstate | hstate, hlane⟩ | ⟨hstate, hlane, hlink⟩
  · rw [exec_lane h hs (requestedLaneState_active hstate) hl, laneCommand_down (s := s.dequeued rest) hlane]
  · rw [exec_lane h hs (requestedLaneState_quiesced hstate) hl, laneCommand_down (s := s.dequeued rest) hlane]
  · have hlink' : ((s.dequeued rest).lane l).link ≠ .up := by
      rw [show ((s.dequeued rest).lane l).link = .down from hlink]; simp
    rw [exec_lane h hs (requestedLaneState_active hstate) hl, laneCommand_resume (s := s.dequeued rest) hlane, if_neg hlink']

end

/-- What holds of the state some outcome names holds of the state it leaves. -/
theorem of_outcome {x : Instr} {s t : State} {P : State → Prop} (h : exec x s = .next t)
    (hP : ∃ u, exec x s = .next u ∧ P u) : P t := by
  obtain ⟨u, hu, hPu⟩ := hP
  exact Host.Outcome.next.inj (hu.symm.trans h) ▸ hPu

/-- Settles O12: a bad parameter, a quiesce, a return to ACTIVE, a lane already there, a lane that cannot. -/
theorem laneCommandMovesTheLane : Obligations.LaneCommandMovesTheLane := by
  intro s record rest h hs hg
  refine ⟨_, rfl, fun hbad => of_outcome rfl (lane_answered hs (exec_lane_bad h hs hbad)), fun l hl =>
    ⟨fun hstate hactive => ?_, fun hstate hquiesced hlink => ?_,
      fun hsame => of_outcome rfl (lane_answered hs (exec_lane_same h hs hl hsame)),
      fun hwrong => of_outcome rfl (lane_answered hs (exec_lane_wrong h hs hl hwrong))⟩⟩
  · have hmoved := State.laneQuiesced_moved (s := s.dequeued rest) hs.2.1 hg l
    have hx := exec_lane_quiesce h hs hg hl hstate hactive
    rw [Host.Outcome.next.inj hx]
    exact hmoved.answered
  · have hmoved := State.laneActive_moved (s := s.dequeued rest) hs.2.1 hg l ((s.lane l).resumed s.pool.state) .host
    have hx := exec_lane_resume h hs hg hl hstate hquiesced hlink
    rw [Host.Outcome.next.inj hx]
    exact hmoved.answered

end Sys2Proof.Machine
end

section
/-! # The loss of a lane (R50, R147, R149; O10) -/

namespace Sys2Proof.Machine

/-! ## The window positions of the GAP items -/

theorem mem_insertPos (p q : Nat) (l : List Nat) : p ∈ insertPos q l ↔ p ∈ l ∨ p = q := by
  induction l with
  | nil => simp [insertPos]
  | cons a rest ih =>
    unfold insertPos
    split_ifs with hlt heq
    · simp only [List.mem_cons]; tauto
    · subst heq; simp only [List.mem_cons]; tauto
    · simp only [List.mem_cons, ih]; tauto

theorem insertPos_pairwise (q : Nat) {l : List Nat} (h : l.Pairwise (· < ·)) : (insertPos q l).Pairwise (· < ·) := by
  induction l with
  | nil => simp [insertPos]
  | cons a rest ih =>
    obtain ⟨ha, hrest⟩ := List.pairwise_cons.mp h
    unfold insertPos
    split_ifs with hlt heq
    · refine List.pairwise_cons.mpr ⟨fun b hb => ?_, h⟩
      rcases List.mem_cons.mp hb with rfl | hb
      · exact hlt
      · exact hlt.trans (ha b hb)
    · exact h
    · refine List.pairwise_cons.mpr ⟨fun b hb => ?_, ih hrest⟩
      rcases (mem_insertPos b q rest).mp hb with hb | rfl
      · exact ha b hb
      · omega

/-! ## One lost record (R147) -/

/-- What a lost record of an output queue makes of the context at stream index `i`. -/
def Context.takeBack (i : StreamIndex) (c : Context) (r : NoticeRecord) : Context :=
  if r.stream = some i ∧ r.notice.tag? = some c.tag ∧ c.state ≠ .releasing then c.putBack r.notice else c

/-- Nothing but the pending notice set changes. -/
theorem Context.putBack_frame (c : Context) (n : Notice) : c.putBack n = { c with notices := (c.putBack n).notices } := by
  cases n with
  | commit | pool | credit => rfl
  | gap | resync | ended | stop => simp only [Context.putBack]; split_ifs <;> rfl

theorem Context.takeBack_frame (i : StreamIndex) (c : Context) (r : NoticeRecord) :
    c.takeBack i r = { c with notices := (c.takeBack i r).notices } := by
  unfold Context.takeBack
  split_ifs
  · exact c.putBack_frame _
  · rfl

/-- The kinds of notices that put an item back, for a stream of this tag (R147). -/
def Notice.isCommit (tag : Nat) : Notice → Bool
  | .commit t _ _ => decide (t = tag)
  | _ => false

def Notice.isResync (tag : Nat) : Notice → Bool
  | .resync t _ => decide (t = tag)
  | _ => false

def Notice.isEnd (tag : Nat) : Notice → Bool
  | .ended t _ => decide (t = tag)
  | _ => false

def Notice.isStop (tag : Nat) : Notice → Bool
  | .stop t _ _ => decide (t = tag)
  | _ => false

def Notice.isGap (tag k : Nat) : Notice → Bool
  | .gap t start _ => decide (t = tag ∧ start / 65536 = k)
  | _ => false

/-- A lost record of a kind was placed for the stream at `i`. -/
def NoticeRecord.Names (r : NoticeRecord) (i : StreamIndex) (kind : Notice → Bool) : Prop :=
  r.stream = some i ∧ kind r.notice = true

/-- A chunk at window position `p` whose GAP may be put back (R147). -/
def Context.GapAt (c : Context) (p : Nat) (x : ChunkRecord) : Prop :=
  c.window[p]? = some x ∧ c.head ≤ x.index ∧ c.posOf x.index = p ∧ x.takesBytes = true

section
variable (i : StreamIndex) (c : Context) (r : NoticeRecord)

theorem Context.takeBack_commit : (c.takeBack i r).notices.commit = true ↔
    c.notices.commit = true ∨ (c.state ≠ .releasing ∧ r.Names i (Notice.isCommit c.tag)) := by
  unfold Context.takeBack NoticeRecord.Names
  cases r.notice <;> simp only [Context.putBack, Notice.tag?, Notice.isCommit] <;>
    grind [Context.notify, NoticeSet.addCommit, NoticeSet.addGap, NoticeSet.addResync, NoticeSet.addEnd, NoticeSet.addStop]

theorem Context.takeBack_resync : (c.takeBack i r).notices.resync = true ↔
    c.notices.resync = true ∨ (c.state.receiving = true ∧ r.Names i (Notice.isResync c.tag)) := by
  have hlive : c.state.receiving = true → c.state ≠ .releasing := by
    rw [receiving_iff]
    rintro (h | h) <;> simp [h]
  unfold Context.takeBack NoticeRecord.Names
  cases r.notice <;> simp only [Context.putBack, Notice.tag?, Notice.isResync] <;>
    grind [Context.notify, NoticeSet.addCommit, NoticeSet.addGap, NoticeSet.addResync, NoticeSet.addEnd, NoticeSet.addStop]

theorem Context.takeBack_ended : (c.takeBack i r).notices.ended = true ↔
    c.notices.ended = true ∨ (c.state = .complete ∧ r.Names i (Notice.isEnd c.tag)) := by
  unfold Context.takeBack NoticeRecord.Names
  cases r.notice <;> simp only [Context.putBack, Notice.tag?, Notice.isEnd] <;>
    grind [Context.notify, NoticeSet.addCommit, NoticeSet.addGap, NoticeSet.addResync, NoticeSet.addEnd, NoticeSet.addStop]

theorem Context.takeBack_stop : (c.takeBack i r).notices.stop = true ↔
    c.notices.stop = true ∨ ((c.state = .aborted ∨ c.state = .salvaging) ∧ r.Names i (Notice.isStop c.tag)) := by
  unfold Context.takeBack NoticeRecord.Names
  cases r.notice <;> simp only [Context.putBack, Notice.tag?, Notice.isStop] <;>
    grind [Context.notify, NoticeSet.addCommit, NoticeSet.addGap, NoticeSet.addResync, NoticeSet.addEnd, NoticeSet.addStop]

/-- A notice other than GAP leaves the GAP items; a GAP adds its chunk's position where R147 lets it. -/
theorem Context.putBack_gaps (n : Notice) : (c.putBack n).notices.gaps = c.notices.gaps ∨
    ∃ q, (c.putBack n).notices.gaps = insertPos q c.notices.gaps := by
  cases n with
  | gap tag start length =>
    simp only [Context.putBack]
    split_ifs
    · exact .inr ⟨_, rfl⟩
    · exact .inl rfl
  | commit | pool | credit => exact .inl rfl
  | resync | ended | stop => simp only [Context.putBack]; split_ifs <;> exact .inl rfl

theorem Context.mem_putBack_gap (p tag start length : Nat) :
    p ∈ (c.putBack (.gap tag start length)).notices.gaps ↔
      p ∈ c.notices.gaps ∨ (c.state ≠ .complete ∧ ∃ x, c.GapAt p x ∧ start / 65536 = x.index) := by
  have hfits : (c.state ≠ .complete ∧ c.head ≤ start / 65536 ∧ (c.window[c.posOf (start / 65536)]?).any (fun r =>
      decide (r.index = start / 65536 ∧ (r.state = .empty ∨ r.state = .filling))) = true) ↔
      c.state ≠ .complete ∧ ∃ x, c.GapAt (c.posOf (start / 65536)) x ∧ start / 65536 = x.index := by
    refine and_congr_right fun _ => ⟨fun ⟨hhead, hany⟩ => ?_, fun ⟨x, ⟨hx, hhead, _, htakes⟩, hindex⟩ => ?_⟩
    · obtain ⟨x, hx, hopen⟩ := (Option.any_eq_true _ _).mp hany
      obtain ⟨hindex, htakes⟩ := of_decide_eq_true hopen
      exact ⟨x, ⟨hx, hindex ▸ hhead, by rw [hindex], decide_eq_true htakes⟩, hindex.symm⟩
    · exact ⟨hindex ▸ hhead, (Option.any_eq_true _ _).mpr
        ⟨x, hx, decide_eq_true ⟨hindex.symm, of_decide_eq_true htakes⟩⟩⟩
  have hpos : ∀ x, c.GapAt p x → start / 65536 = x.index → p = c.posOf (start / 65536) := fun x hx hindex => by
    rw [hindex, hx.2.2.1]
  unfold Context.putBack
  dsimp only
  split_ifs with h
  · have hgap := hfits.mp h
    refine (mem_insertPos p _ _).trans (or_congr_right ⟨fun hp => ?_, fun ⟨_, x, hx, hindex⟩ => hpos x hx hindex⟩)
    subst hp
    exact hgap
  · refine (or_iff_left ?_).symm
    rintro ⟨hstate, x, hx, hindex⟩
    exact h (hfits.mpr ⟨hstate, x, hpos x hx hindex ▸ hx, hindex⟩)

theorem Context.mem_takeBack_gaps (p : Nat) : p ∈ (c.takeBack i r).notices.gaps ↔ p ∈ c.notices.gaps ∨
    (c.state ≠ .releasing ∧ c.state ≠ .complete ∧ ∃ x, c.GapAt p x ∧ r.Names i (Notice.isGap c.tag x.index)) := by
  unfold Context.takeBack NoticeRecord.Names
  cases r.notice with
  | gap tag start length =>
    split_ifs with h
    · obtain ⟨hstream, htag, hstate⟩ := h
      rw [Context.mem_putBack_gap]
      simp only [Notice.tag?, Option.some.injEq] at htag
      simp only [hstate, hstream, htag, Notice.isGap, decide_eq_true_eq, true_and, ne_eq, not_false_eq_true]
    · refine (or_iff_left ?_).symm
      rintro ⟨hstate, -, x, -, hstream, hkind⟩
      exact h ⟨hstream, by rw [Notice.tag?, (of_decide_eq_true hkind).1], hstate⟩
  | commit | resync | ended | stop | pool | credit =>
    simp only [Notice.isGap, Bool.false_eq_true, and_false, exists_false, or_false, Context.putBack]
    split_ifs <;> rfl

theorem Context.takeBack_pairwise (h : c.notices.gaps.Pairwise (· < ·)) :
    (c.takeBack i r).notices.gaps.Pairwise (· < ·) := by
  unfold Context.takeBack
  split_ifs
  · rcases c.putBack_gaps r.notice with hsame | ⟨q, hq⟩
    · rwa [hsame]
    · rw [hq]; exact insertPos_pairwise q h
  · exact h

end

/-! ## All of them -/

/-- What the lost records make of the context at `i`. -/
def Context.takeAllBack (i : StreamIndex) (c : Context) (records : List NoticeRecord) : Context :=
  records.foldl (Context.takeBack i) c

theorem Context.takeAllBack_frame (i : StreamIndex) (records : List NoticeRecord) : ∀ c : Context,
    c.takeAllBack i records = { c with notices := (c.takeAllBack i records).notices } := by
  induction records with
  | nil => exact fun _ => rfl
  | cons r rest ih =>
    intro c
    have h := ih (c.takeBack i r)
    rw [c.takeBack_frame i r] at h
    rw [show c.takeAllBack i (r :: rest) = (c.takeBack i r).takeAllBack i rest from rfl, c.takeBack_frame i r]
    exact h

/-- What each record puts back where `Q` lets it, all of them put back where `Q` lets one. -/
theorem Context.takeAllBack_iff {i : StreamIndex} {P : NoticeSet → Prop} {Q : Context → NoticeRecord → Prop}
    (hstep : ∀ c r, P (Context.takeBack i c r).notices ↔ P c.notices ∨ Q c r)
    (hframe : ∀ c n r, Q { c with notices := n } r ↔ Q c r) (records : List NoticeRecord) : ∀ c : Context,
    P (c.takeAllBack i records).notices ↔ P c.notices ∨ ∃ r ∈ records, Q c r := by
  induction records with
  | nil => exact fun c => by simp [Context.takeAllBack]
  | cons r rest ih =>
    intro c
    have hQ : ∀ x, Q (c.takeBack i r) x ↔ Q c x := fun x => by rw [c.takeBack_frame i r]; exact hframe c _ x
    rw [show c.takeAllBack i (r :: rest) = (c.takeBack i r).takeAllBack i rest from rfl, ih, hstep]
    simp only [hQ, List.mem_cons, exists_eq_or_imp, or_assoc]

theorem Context.takeAllBack_pairwise {i : StreamIndex} (records : List NoticeRecord) : ∀ c : Context,
    c.notices.gaps.Pairwise (· < ·) → (c.takeAllBack i records).notices.gaps.Pairwise (· < ·) := by
  induction records with
  | nil => exact fun _ h => h
  | cons r rest ih => exact fun c h => ih _ (c.takeBack_pairwise i r h)

/-! ## The records of the device -/

theorem State.putBackEach_edits (records : List NoticeRecord) : ∀ s : State, s.TableWF → AllParityGood s →
    Edits s (s.putBackEach records) fun i c => c.takeAllBack i records := by
  induction records with
  | nil => exact fun s hw hg => .refl hw hg
  | cons r rest ih =>
    intro s hw hg
    have hone : Edits s (s.putBackOne r) fun i c => c.takeBack i r := by
      unfold State.putBackOne
      split
      · rename_i j tag hstream htag
        refine (State.modifyCtx_edits hw hg j _).congr fun i c => ?_
        unfold Context.takeBack
        by_cases hi : i = j
        · subst hi
          simp only [hstream, htag, if_true, Option.some.injEq, true_and, eq_comm (a := tag)]
        · simp only [hi, if_false, id, hstream, Option.some.injEq, eq_comm (a := j), false_and]
      · rename_i hnone
        refine (Edits.refl hw hg).congr fun i c => ?_
        unfold Context.takeBack
        rw [if_neg fun h => hnone i c.tag h.1 h.2.1]
        rfl
    exact hone.trans (ih _ hone.wf hone.good)

theorem State.putBackAll_edits {s : State} (hw : s.TableWF) (hg : AllParityGood s) (records : List NoticeRecord) :
    Edits s (s.putBackAll records) fun i c => c.takeAllBack i records := by
  unfold State.putBackAll
  rw [State.checkRead_good fun i _ => hg i]
  exact State.putBackEach_edits records s hw hg

/-! ## The lane -/

/-- The reply lane of a stream after the loss of lane `l` (R146). -/
def Context.rerouted (c : Context) (s : State) (l : LaneId) : Context :=
  { c with replyLane := if c.replyLane = some l ∧ (s.lane l).state = .active
      then laneIds.find? fun m => decide (m ≠ l ∧ (s.lane m).state = .active) else c.replyLane }

/-- The edits come first, the event after them. -/
theorem LaneMoved.of_raise {s u : State} {l : LaneId} {v : Lane} {f : StreamIndex → Context → Context}
    (h : Edits (s.setLane l v) u f) (e : Event) : LaneMoved s (u.raise e) l v e f := by
  obtain ⟨hrest, -, hgood, hctx⟩ := h
  have hlanes : (u.raise e).lanes = (s.setLane l v).lanes := by rw [State.raise_lanes, hrest]
  have hsays : SaysAs s u := by rw [hrest]; exact ⟨rfl, rfl, rfl, rfl⟩
  refine ⟨?_, (otherLanes_setLane s l v).of_lanes hlanes, fun i => ?_, fun i => ?_, hsays.raised e, fun k hk => ?_, ?_⟩
  · rw [State.lane, hlanes]; exact State.lane_setLane_self s l v
  · rw [State.entry, State.raise_table]; exact hgood i
  · rw [State.ctx?, State.entry, State.raise_table]; exact hctx i
  · rw [State.counter_raise u e (by simpa using hk), hrest]; rfl
  · refine (u.raise_rest e).trans ?_
    rw [hrest]
    simp

theorem State.linkLost_moved {s : State} (hw : s.TableWF) (hg : AllParityGood s) {l : LaneId}
    (hup : (s.lane l).state ≠ .down) (cause : LaneCause) :
    LaneMoved (s.count (.drop .laneLost) (s.lane l).ingress.length) (s.linkLost l cause) l (s.lane l).lost
      (.laneChanged l .down cause) fun i c => (c.rerouted s l).takeAllBack i (s.lane l).output := by
  generalize hcounted : s.count (.drop .laneLost) (s.lane l).ingress.length = u
  have hlane : ∀ m, u.lane m = s.lane m := fun m => by rw [← hcounted]; rfl
  have hw' : (u.setLane l (s.lane l).lost).TableWF := by rw [← hcounted]; exact hw
  have hg' : AllParityGood (u.setLane l (s.lane l).lost) := by rw [← hcounted]; exact hg
  have hlowest := State.lowestActive_setLane (s := u) (l := l) (v := (s.lane l).lost) (by simp [Lane.lost])
  simp only [hlane] at hlowest
  have hmoved : Edits (u.setLane l (s.lane l).lost)
      (if (s.lane l).state = .active then (u.setLane l (s.lane l).lost).redirect (some l)
        (u.setLane l (s.lane l).lost).lowestActive streamIndices else u.setLane l (s.lane l).lost)
      fun _ c => c.rerouted s l := by
    split_ifs with hactive
    · refine (State.redirectAll_edits hw' hg' _ _).congr fun _ c => ?_
      simp only [Context.replyMoved, Context.rerouted, hactive, and_true, hlowest]
    · refine (Edits.refl hw' hg').congr fun _ c => ?_
      simp only [Context.rerouted, hactive, and_false, if_false, id]
  unfold State.linkLost
  dsimp only
  rw [if_neg hup, hcounted]
  exact .of_raise (hmoved.trans (State.putBackAll_edits hmoved.wf hmoved.good _)) _

/-! ## LINK_DOWN, LANE_RESET -/

/-- An entry of good parity is told by its context. -/
theorem entry_eq_of_ctx? {s t : State} {i : StreamIndex} (hs : AllParityGood s) (ht : AllParityGood t)
    (h : t.ctx? i = s.ctx? i) : t.entry i = s.entry i := by
  have hs' := hs i
  have ht' := ht i
  unfold State.ctx? at h
  rcases he : s.entry i with ⟨a, x⟩
  rcases hf : t.entry i with ⟨b, y⟩
  simp_all

theorem exec_linkLost {x : Instr × LaneCause} {l : LaneId}
    (hx : x ∈ [((.linkDown l, .linkDown) : Instr × LaneCause), (.laneReset l, .laneReset)]) (s : State) :
    exec x.1 s = .next (s.linkLost l x.2).poolTest := by
  simp only [List.mem_cons, List.not_mem_nil, or_false] at hx
  rcases hx with rfl | rfl <;> rfl

/-- What a stream is after the loss of lane `l`: rerouted, and with the items of its lost records in its set. -/
theorem givenBack (s : State) (l : LaneId) (i : StreamIndex) (c : Context) :
    let d := (c.rerouted s l).takeAllBack i (s.lane l).output
    d = { c with replyLane := d.replyLane, notices := d.notices } ∧
    d.replyLane = (if c.replyLane = some l ∧ (s.lane l).state = .active
      then laneIds.find? fun m => decide (m ≠ l ∧ (s.lane m).state = .active) else c.replyLane) ∧
    (d.notices.commit = true ↔ c.notices.commit = true ∨ (c.state ≠ .releasing ∧ Lost s l i (Notice.isCommit c.tag))) ∧
    (d.notices.resync = true ↔
      c.notices.resync = true ∨ (c.state.receiving = true ∧ Lost s l i (Notice.isResync c.tag))) ∧
    (d.notices.ended = true ↔ c.notices.ended = true ∨ (c.state = .complete ∧ Lost s l i (Notice.isEnd c.tag))) ∧
    (d.notices.stop = true ↔
      c.notices.stop = true ∨ ((c.state = .aborted ∨ c.state = .salvaging) ∧ Lost s l i (Notice.isStop c.tag))) ∧
    (∀ p, p ∈ d.notices.gaps ↔ p ∈ c.notices.gaps ∨ (c.state ≠ .releasing ∧ c.state ≠ .complete ∧
      ∃ r, c.window[p]? = some r ∧ c.head ≤ r.index ∧ c.posOf r.index = p ∧ r.takesBytes = true ∧
        Lost s l i (Notice.isGap c.tag r.index))) ∧
    (c.notices.gaps.Pairwise (· < ·) → d.notices.gaps.Pairwise (· < ·)) := by
  intro d
  have hframe := Context.takeAllBack_frame i (s.lane l).output (c.rerouted s l)
  have hguarded : ∀ {G : Prop} {kind : Notice → Bool},
      (∃ r ∈ (s.lane l).output, G ∧ r.Names i kind) ↔ G ∧ Lost s l i kind := fun {G kind} =>
    ⟨fun ⟨r, hr, hG, hn⟩ => ⟨hG, r, hr, hn⟩, fun ⟨hG, r, hr, hn⟩ => ⟨r, hr, hG, hn⟩⟩
  have hreply : d.replyLane = (c.rerouted s l).replyLane := (congrArg Context.replyLane hframe :)
  refine ⟨by rw [hreply]; exact hframe, hreply, ?_, ?_, ?_, ?_, fun p => ?_,
    Context.takeAllBack_pairwise _ (c.rerouted s l)⟩
  · exact (Context.takeAllBack_iff (P := fun n => n.commit = true) (Context.takeBack_commit i) (fun _ _ _ => Iff.rfl) _
      (c.rerouted s l)).trans (or_congr_right hguarded)
  · exact (Context.takeAllBack_iff (P := fun n => n.resync = true) (Context.takeBack_resync i) (fun _ _ _ => Iff.rfl) _
      (c.rerouted s l)).trans (or_congr_right hguarded)
  · exact (Context.takeAllBack_iff (P := fun n => n.ended = true) (Context.takeBack_ended i) (fun _ _ _ => Iff.rfl) _
      (c.rerouted s l)).trans (or_congr_right hguarded)
  · exact (Context.takeAllBack_iff (P := fun n => n.stop = true) (Context.takeBack_stop i) (fun _ _ _ => Iff.rfl) _
      (c.rerouted s l)).trans (or_congr_right hguarded)
  · refine (Context.takeAllBack_iff (P := fun n => p ∈ n.gaps) (fun c r => Context.mem_takeBack_gaps i c r p)
      (fun _ _ _ => Iff.rfl) _ (c.rerouted s l)).trans (or_congr_right ?_)
    constructor
    · rintro ⟨r, hr, hreleasing, hcomplete, x, ⟨hx, hhead, hpos, htakes⟩, hn⟩
      exact ⟨hreleasing, hcomplete, x, hx, hhead, hpos, htakes, r, hr, hn⟩
    · rintro ⟨hreleasing, hcomplete, x, hx, hhead, hpos, htakes, r, hr, hn⟩
      exact ⟨r, hr, hreleasing, hcomplete, x, ⟨hx, hhead, hpos, htakes⟩, hn⟩

/-- Settles O10: of a DOWN lane only the link changes; another is lost, its streams rerouted and given their items back. -/
theorem linkLossEmptiesTheLane : Obligations.LinkLossEmptiesTheLane := by
  intro l s x hx hs hg
  rw [exec_linkLost hx]
  by_cases hdown : (s.lane l).state = .down
  · have hlost : s.linkLost l x.2 = s.setLane l { s.lane l with link := .down } := if_pos hdown
    have hquiet : (s.setLane l { s.lane l with link := .down }).poolTest = s.setLane l { s.lane l with link := .down } :=
      hs.poolTest_quiet rfl rfl rfl
    rw [hlost, hquiet]
    exact ⟨_, rfl, otherLanes_setLane _ _ _, fun _ => ⟨State.lane_setLane_self _ _ _, rfl⟩, fun h => absurd hdown h⟩
  · have hmoved := State.linkLost_moved hs.2.1 hg hdown x.2
    rw [hmoved.poolTest hs]
    obtain ⟨hlane, hothers, hgood, hctx, hraised, hcounters, hrest⟩ := hmoved
    have hsays : SaysAs s (s.count (.drop .laneLost) (s.lane l).ingress.length) := ⟨rfl, rfl, rfl, rfl⟩
    refine ⟨_, rfl, hothers, fun h => absurd h hdown, fun _ => ⟨hlane, ?_, fun k hk => ?_,
      ⟨hraised.1.trans (hsays.raise _).events, hraised.2.trans (hsays.raise _).errors⟩, hgood,
      fun i hi => entry_eq_of_ctx? hg hgood ?_, fun i c hc => ?_, ?_⟩⟩
    · rw [hcounters _ (by simp), State.counter_count, if_pos rfl]
    · simp only [List.mem_cons, List.not_mem_nil, or_false, not_or] at hk
      rw [hcounters k (by simpa using hk.2), State.counter_count, if_neg hk.1]
    · rw [hctx, hi]
      exact congrArg _ hi
    · exact ⟨_, (hctx i).trans (congrArg _ hc), givenBack s l i c⟩
    · rw [hrest]
      rfl

end Sys2Proof.Machine
end

section
/-! # SEGMENT_TAKE: the records and segments that are dropped whole (R43 to R48, R59 to R64, R76; O13, O14) -/

namespace Sys2Proof.Machine

/-! ## The take (R43, R45) -/

/-- The device with the head of a lane's ingress queue taken and its credit earned. -/
def State.taken (s : State) (l : LaneId) (rest : List (List Byte)) : State := s.setLane l ((s.lane l).afterTake rest)

/-- What a lookup finds is told by the table. -/
theorem State.lookup_congr {s t : State} (h : t.table = s.table) (tag : Nat) : (t.lookup tag).2 = (s.lookup tag).2 := by
  have hentry : ∀ i, t.entry i = s.entry i := fun i => by rw [State.entry, h]; rfl
  have hmatch : t.matchAt tag = s.matchAt tag := by
    funext i
    rw [State.matchAt, State.matchAt, State.ctx?, State.ctx?, hentry]
  by_cases hbad : (s.lookup tag).2 = .contextError
  · rw [hbad]
    rwa [State.lookup_contextError_iff, ← hentry, ← hentry, ← State.lookup_contextError_iff] at hbad
  · obtain ⟨h0, h1⟩ := State.parityGood_of_lookup hbad
    rw [State.lookup_good h0 h1, State.lookup_good (by rwa [hentry]) (by rwa [hentry]), hmatch]

theorem State.lookup_taken (s : State) (l : LaneId) (rest : List (List Byte)) (tag : Nat) :
    ((s.taken l rest).lookup tag).2 = (s.lookup tag).2 :=
  State.lookup_congr (s := s) (t := s.taken l rest) rfl tag

section
variable {s : State} {l : LaneId} {record : List Byte} {rest : List (List Byte)} {g : Segment} {i : StreamIndex}
  {c d : Context} {reason : DropReason}

theorem exec_segmentTake (h : HeadSegment s l record rest) :
    exec (.segmentTake l) s = .next ((s.taken l rest).handleSegment l record).poolTest := by
  obtain ⟨hup, hhead⟩ := h
  show execSegmentTake l s = _
  unfold execSegmentTake
  dsimp only
  rw [hhead]
  cases hst : (s.lane l).state with
  | down => exact absurd hst hup
  | active | quiesced => rfl

theorem laneTook_taken {t : State} (h : t.lanes = (s.taken l rest).lanes) : LaneTook s t l rest :=
  ⟨by rw [State.lane, h]; exact State.lane_setLane_self s l _, (otherLanes_setLane s l _).of_lanes h⟩

/-- A record dropped at the lane under a reason. -/
theorem segmentTake_drops (h : HeadSegment s l record rest) (hs : Serving s)
    (hdrop : (s.taken l rest).handleSegment l record = (s.taken l rest).countDrop reason) :
    ∃ t, exec (.segmentTake l) s = .next t ∧ LaneTook s t l rest ∧ Counted s t (.drop reason) 1 ∧
      t = { s with lanes := t.lanes, live := t.live } := by
  have hquiet : ((s.taken l rest).countDrop reason).poolTest = (s.taken l rest).countDrop reason :=
    hs.poolTest_quiet rfl rfl rfl
  exact ⟨(s.taken l rest).countDrop reason, by rw [exec_segmentTake h, hdrop, hquiet], laneTook_taken rfl,
    counted_countDrop rfl reason, rfl⟩

/-- A segment dropped for a stream, whose context it changes. -/
theorem segmentTake_dropsFor (h : HeadSegment s l record rest) (hs : Serving s)
    (hdrop : (s.taken l rest).handleSegment l record = ((s.taken l rest).countDrop reason).setCtx i d) :
    ∃ t, exec (.segmentTake l) s = .next t ∧ LaneTook s t l rest ∧ OtherEntries s t i ∧ Holds t i d ∧
      Counted s t (.drop reason) 1 ∧ t = { s with lanes := t.lanes, table := t.table, live := t.live } := by
  have hquiet : (((s.taken l rest).countDrop reason).setCtx i d).poolTest =
      ((s.taken l rest).countDrop reason).setCtx i d := hs.poolTest_quiet rfl rfl rfl
  exact ⟨((s.taken l rest).countDrop reason).setCtx i d, by rw [exec_segmentTake h, hdrop, hquiet], laneTook_taken rfl,
    otherEntries_setCtx hs.2.1 rfl i d, holds_setCtx _ i d,
    counted_countDrop (s := s) (t := s.taken l rest) rfl reason, rfl⟩

/-! ## The form of a record (R46) -/

theorem parseSegment_of_length (h : 16 ≤ record.length) : parseSegment record = some {
    tag := fieldAt record 0 4, offset := fieldAt record 4 6, length := fieldAt record 10 2
    last := decide (fieldAt record 12 1 % 2 = 1), payload := record.drop 16 } := if_neg (not_lt.mpr h)

theorem State.handleSegment_short (u : State) (h : record.length < 16) :
    u.handleSegment l record = u.countDrop .badLength := by
  have hparse : parseSegment record = none := if_pos h
  rw [State.handleSegment, hparse]

theorem State.handleSegment_faulty (u : State) (hparse : parseSegment record = some g) (hfault : g.formFault = some reason) :
    u.handleSegment l record = u.countDrop reason := by
  rw [State.handleSegment, hparse]
  dsimp only
  rw [hfault]

theorem Segment.formFault_badLength (h : 9216 < g.length ∨ g.payload.length ≠ g.length) :
    g.formFault = some .badLength := if_pos h

theorem Segment.formFault_emptyNotLast (hpayload : g.payload.length = 0) (hlength : g.length = 0) (hlast : g.last = false) :
    g.formFault = some .emptyNotLast := by
  rw [Segment.formFault, if_neg (by rw [hpayload, hlength]; decide), if_pos ⟨hlength, hlast⟩]

theorem Segment.lengthSound (hpayload : g.payload.length = g.length) (hlimit : g.length ≤ 9216) :
    ¬(Config.payloadLimit < g.length ∨ g.payload.length ≠ g.length) := by
  rintro (h | h)
  · exact absurd hlimit (not_le.mpr h)
  · exact h hpayload

theorem Segment.formFault_offsetRange (hpayload : g.payload.length = g.length) (hlimit : g.length ≤ 9216)
    (hempty : ¬(g.length = 0 ∧ g.last = false)) (hrange : 2 ^ 48 < g.offset + g.length) :
    g.formFault = some .offsetRange := by
  rw [Segment.formFault, if_neg (Segment.lengthSound hpayload hlimit), if_neg hempty]
  exact if_pos hrange

theorem Segment.Sound.formFault (h : g.Sound) : g.formFault = none := by
  obtain ⟨hpayload, hlimit, hlast, hrange⟩ := h
  have hempty : ¬(g.length = 0 ∧ g.last = false) := fun ⟨h, hnot⟩ => by
    rw [hlast h] at hnot; exact Bool.noConfusion hnot
  rw [Segment.formFault, if_neg (Segment.lengthSound hpayload hlimit), if_neg hempty]
  exact if_neg (not_lt.mpr hrange)

/-- A record that fails a form check is dropped under the first that it fails. -/
theorem State.handleSegment_illFormed (u : State) (hfault :
      (reason = .badLength ∧ (record.length < 16 ∨ 9216 < fieldAt record 10 2 ∨
        record.length ≠ 16 + fieldAt record 10 2)) ∨
      (reason = .emptyNotLast ∧ record.length = 16 ∧ fieldAt record 10 2 = 0 ∧ fieldAt record 12 1 % 2 = 0) ∨
      (reason = .offsetRange ∧ record.length = 16 + fieldAt record 10 2 ∧ fieldAt record 10 2 ≤ 9216 ∧
        ¬(fieldAt record 10 2 = 0 ∧ fieldAt record 12 1 % 2 = 0) ∧
        2 ^ 48 < fieldAt record 4 6 + fieldAt record 10 2)) :
    u.handleSegment l record = u.countDrop reason := by
  rcases hfault with ⟨rfl, hlength⟩ | ⟨rfl, hlength, hempty, hlast⟩ | ⟨rfl, hlength, hlimit, hempty, hrange⟩
  · by_cases hshort : record.length < 16
    · exact u.handleSegment_short hshort
    · refine u.handleSegment_faulty (parseSegment_of_length (not_lt.mp hshort)) (Segment.formFault_badLength ?_)
      simp only [List.length_drop]
      omega
  · refine u.handleSegment_faulty (parseSegment_of_length (by omega)) (Segment.formFault_emptyNotLast ?_ hempty ?_)
    · simp only [List.length_drop]
      omega
    · simp only [decide_eq_false_iff_not]
      omega
  · refine u.handleSegment_faulty (parseSegment_of_length (by omega))
      (Segment.formFault_offsetRange ?_ hlimit ?_ hrange)
    · simp only [List.length_drop]
      omega
    · simp only [decide_eq_false_iff_not]
      omega

/-! ## The route of a well-formed record (R47) -/

theorem State.handleSegment_sound (u : State) (hparse : parseSegment record = some g) (hg : g.Sound) :
    u.handleSegment l record = u.routeSegment l g := by
  rw [State.handleSegment, hparse]
  dsimp only
  rw [hg.formFault]

theorem State.routeSegment_notFound {u : State} (h : (u.lookup g.tag).2 = .notFound) :
    u.routeSegment l g = u.countDrop .unknownTag := by
  unfold State.routeSegment
  dsimp only
  rw [h, State.lookup_of_notFound h]

theorem State.routeSegment_contextError {u : State} (h : (u.lookup g.tag).2 = .contextError) :
    u.routeSegment l g = (u.lookup g.tag).1.countDrop .contextError := by
  unfold State.routeSegment
  dsimp only
  rw [h]

/-- A segment of a known stream goes to the Placement Unit while the stream is in OPEN or HOLD (R48, R58). -/
theorem State.routeSegment_found {u : State} (hw : u.TableWF) (h : (u.lookup g.tag).2 = .found i c) :
    u.routeSegment l g = if c.state.receiving = true then ((u.setCtx i c).placeSegment i c l g).settle i
      else (u.setCtx i c).dropStopped i := by
  obtain ⟨hsame, -, hholds, -⟩ := State.lookup_found h
  rw [State.setCtx_of_holds hw hholds]
  unfold State.routeSegment
  dsimp only
  rw [h, hsame]

end

/-! ## The counters after a parity error (R33 to R35, R156) -/

/-- The handling of a damaged entry counts the error, the slots it retires and the events that are lost. -/
theorem State.checkParity_counters {s : State} (hw : s.TableWF) (i : StreamIndex) :
    CountersKept s (s.checkParity i) [.tableParityErrors, .eventsLost, .retiredSlots] := by
  intro k hk
  simp only [List.mem_cons, List.not_mem_nil, or_false, not_or] at hk
  obtain ⟨hparity, hlost, hretired⟩ := hk
  rcases he : s.entry i with ⟨good, ctx⟩
  cases good with
  | true => rw [State.checkParity_good (by rw [he])]
  | false =>
    cases ctx with
    | none =>
      rw [State.checkParity_free hw he]
      exact (s.counter_noteParity i k).trans (if_neg hparity)
    | some c =>
      have hdetach : (s.afterDetach i c).counter k = s.counter k := (s.counter_afterDetach i c hlost).trans (if_neg hparity)
      by_cases hf : s.inFlight i = true
      · rw [State.checkParity_inFlight he hf]
        exact hdetach
      · rw [State.checkParity_idle he (by simpa using hf)]
        exact (State.counter_released _ i _ none hlost hretired).trans hdetach

/-- The watermark test counts the event it loses. -/
theorem State.poolTest_counters (s : State) : CountersKept s s.poolTest [.eventsLost] := by
  intro k hk
  unfold State.poolTest
  dsimp only
  split_ifs
  · exact countersKept_raise _ _ k hk
  · rfl

theorem State.lookup_counters {s : State} (hw : s.TableWF) (tag : Nat) :
    CountersKept s (s.lookup tag).1 [.tableParityErrors, .eventsLost, .retiredSlots] := by
  intro k hk
  have hw' := (s.checkParity_evolves (wayOf tag 0)).table hw
  by_cases hbad : (s.lookup tag).2 = .contextError
  · rw [State.lookup_bad ((s.lookup_contextError_iff tag).mp hbad)]
    exact (State.checkParity_counters hw' _ k hk).trans (State.checkParity_counters hw _ k hk)
  · obtain ⟨h0, h1⟩ := State.parityGood_of_lookup hbad
    rw [State.lookup_good h0 h1]

/-- An operation on a stream leaves a lane's ingress queue and credits owed as they are. -/
theorem StreamOp.ingress {s t : State} (h : StreamOp s t) (l : LaneId) :
    (t.lane l).ingress = (s.lane l).ingress ∧ (t.lane l).owed = (s.lane l).owed := by
  have hlane := (h.lanes l).1
  exact ⟨(congrArg Lane.ingress hlane :), (congrArg Lane.owed hlane :)⟩

/-! ## The records dropped at the lane (R46, R47) -/

section
variable {s : State} {l : LaneId} {record : List Byte} {rest : List (List Byte)} {g : Segment}

theorem segmentTake_contextError (h : HeadSegment s l record rest) (hs : Serving s)
    (hparse : parseSegment record = some g) (hg : g.Sound) (herror : (s.lookup g.tag).2 = .contextError) :
    ∃ t, exec (.segmentTake l) s = .next t ∧ (t.lane l).ingress = rest ∧
      (t.lane l).owed = (if (s.lane l).state = .active then (s.lane l).owed + 1 else (s.lane l).owed) ∧
      t.counter (.drop .contextError) = (s.counter (.drop .contextError)).add 1 ∧
      CountersKept s t [.drop .contextError, .tableParityErrors, .eventsLost, .retiredSlots] ∧
      (∀ way, way < 2 → (t.entry (wayOf g.tag way)).parityGood = true) ∧
      ∀ j, j ≠ wayOf g.tag 0 → j ≠ wayOf g.tag 1 → t.entry j = s.entry j := by
  generalize hu : s.taken l rest = u
  have hw : u.TableWF := by rw [← hu]; exact hs.2.1
  have hlane : u.lane l = (s.lane l).afterTake rest := by rw [← hu]; exact State.lane_setLane_self s l _
  have hcounter : ∀ k, u.counter k = s.counter k := fun k => by rw [← hu]; rfl
  have hentry : ∀ j, u.entry j = s.entry j := fun j => by rw [← hu]; rfl
  have herror' : (u.lookup g.tag).2 = .contextError := by rw [← herror, ← hu, State.lookup_taken]
  obtain ⟨hgood0, hgood1, hothers⟩ := State.lookup_contextError hw herror'
  have hkept := State.lookup_counters hw g.tag
  generalize hv : (u.lookup g.tag).1 = v at hgood0 hgood1 hothers hkept
  have hop : StreamOp u v := by rw [← hv]; exact u.lookup_op g.tag
  obtain ⟨hingress, howed⟩ := (hop.trans ((v.count_op (.drop .contextError) 1).trans (State.poolTest_op _))).ingress l
  have htable : ∀ j, (v.countDrop .contextError).poolTest.entry j = v.entry j := fun j => by
    rw [State.entry, State.poolTest_table]; rfl
  have hlive : ∀ k, k ≠ .eventsLost → (v.countDrop .contextError).poolTest.counter k =
      if k = .drop .contextError then (v.counter k).add 1 else v.counter k := fun k hk =>
    (State.poolTest_counters _ k (by simpa using hk)).trans (v.counter_count _ k 1)
  refine ⟨(v.countDrop .contextError).poolTest, ?_, hingress.trans (by rw [hlane]; rfl), howed.trans (by rw [hlane]; rfl),
    ?_, fun k hk => ?_, fun way hway => ?_, fun j h0 h1 => ?_⟩
  · rw [exec_segmentTake h, hu, u.handleSegment_sound hparse hg, State.routeSegment_contextError herror', hv]
  · rw [hlive _ (by simp), if_pos rfl, hkept _ (by simp), hcounter]
  · simp only [List.mem_cons, List.not_mem_nil, or_false, not_or] at hk
    obtain ⟨hdrop, hparity, hlost, hretired⟩ := hk
    rw [hlive k hlost, if_neg hdrop, hkept k (by simp [hparity, hlost, hretired]), hcounter]
  · rw [htable]
    interval_cases way
    · exact hgood0
    · exact hgood1
  · rw [htable, hothers j h0 h1, hentry]

/-- Settles O13: a record that fails a form check, an unknown tag, and a row with a damaged entry. -/
theorem recordsDroppedAtTheLane : Obligations.RecordsDroppedAtTheLane := by
  intro s l record rest h hs o len last
  refine ⟨fun reason hfault => segmentTake_drops h hs (State.handleSegment_illFormed _ hfault), fun g hparse hg =>
    ⟨fun hnone => ?_, segmentTake_contextError h hs hparse hg⟩⟩
  have hnone' : ((s.taken l rest).lookup g.tag).2 = .notFound := (s.lookup_taken l rest g.tag).trans hnone
  exact segmentTake_drops h hs ((State.handleSegment_sound _ hparse hg).trans (State.routeSegment_notFound hnone'))

end

/-! ## The segments of a known stream that are dropped whole -/

/-- The context after a segment of a stopped stream (R48). -/
def Context.lastWord (c : Context) : Context :=
  { c with
    counts := { c.counts with streamStopped := min (c.counts.streamStopped + 1) 4294967295 }
    notices := { c.notices with
      ended := c.notices.ended || decide (c.state = .complete)
      stop := c.notices.stop || decide (c.state = .aborted ∨ c.state = .salvaging) } }

/-- The context after a segment wholly below the committed offset, its drain flags not tested yet (R64). -/
def Context.oldDropped (c : Context) (n : Nat) : Context :=
  { c with
    counts := { c.counts with oldBytes := min (c.counts.oldBytes + n) (2 ^ 64 - 1) }
    notices := { c.notices with commit := true } }

/-- The context after a refused final end, its drain flags not tested yet (R60). -/
def Context.conflicted (c : Context) : Context :=
  { c with counts := { c.counts with endConflict := min (c.counts.endConflict + 1) 4294967295 } }

/-- The proposed final end differs from F, or is refused as a new F (R59, R60). -/
def Context.RefusesEnd (c : Context) (stop : Nat) : Prop :=
  (c.final = none ∧ ((1 ≤ stop % 65536 ∧ stop % 65536 ≤ 7) ∨ stop < c.committed ∨ stop < c.highestHeld ∨
    65536 * c.cap < stop)) ∨ ∃ f, c.final = some f ∧ f ≠ stop

section
variable (u : State) (i : StreamIndex) (c : Context) (l : LaneId) (g : Segment)

theorem State.dropStopped_setCtx :
    (u.setCtx i c).dropStopped i = (u.countDrop .streamStopped).setCtx i c.lastWord := by
  unfold State.dropStopped
  rw [State.modifyCtx_setCtx, State.countDrop, State.count_setCtx]
  refine congrArg (State.setCtx _ i) ?_
  unfold Context.lastWord
  cases hst : c.state <;>
    simpa [Context.notify, Context.count, NoticeSet.addEnd, NoticeSet.addStop, StreamCounters.drop, satAdd,
      Config.countMax] using hst

theorem State.placeSegment_old (hlast : g.last = false) (hpos : 0 < g.length) (hold : g.offset + g.length ≤ c.committed) :
    (u.setCtx i c).placeSegment i c l g = (u.countDrop .oldData).setCtx i (c.oldDropped g.length) := by
  rw [State.placeSegment, if_neg (by simp [hlast]), State.placeRest, State.ctx?_setCtx_self]
  dsimp only
  rw [if_neg hpos.ne', State.placeBytes]
  dsimp only
  rw [if_pos hold, State.addOld, State.modifyCtx_setCtx, State.modifyCtx_setCtx]
  rfl

theorem State.finishSegment_endConflict :
    (u.setCtx i c).finishSegment i l false none [.endConflict] = (u.countDrop .endConflict).setCtx i c.conflicted := by
  rw [State.finishSegment, State.modifyCtx_setCtx]
  rfl

theorem State.placeSegment_refused (hlast : g.last = true) (hrefused : c.RefusesEnd (g.offset + g.length)) :
    (u.setCtx i c).placeSegment i c l g = (u.countDrop .endConflict).setCtx i c.conflicted := by
  rw [← State.finishSegment_endConflict u i c l, State.placeSegment, if_pos hlast]
  rcases hrefused with ⟨hnone, hbad⟩ | ⟨f, hf, hne⟩
  · have hrefuses : c.refusesFinal (g.offset + g.length) = true := decide_eq_true hbad
    rw [hnone]
    exact if_pos hrefuses
  · rw [hf]
    exact if_neg hne.symm

end

section
variable {l : LaneId} {record : List Byte} {g : Segment} {i : StreamIndex} {c d : Context}

theorem State.handleSegment_found {u : State} (hw : u.TableWF) (hparse : parseSegment record = some g) (hg : g.Sound)
    (hfound : (u.lookup g.tag).2 = .found i c) :
    u.handleSegment l record = if c.state.receiving = true then ((u.setCtx i c).placeSegment i c l g).settle i
      else (u.setCtx i c).dropStopped i :=
  (u.handleSegment_sound hparse hg).trans (State.routeSegment_found hw hfound)

/-- What stands of a stream in OPEN or HOLD is settled by the test of its drain flags. -/
theorem State.settle_receiving {u : State} (h : d.state.receiving = true) :
    (u.setCtx i d).settle i = u.setCtx i d.flagsTested := by
  rcases (receiving_iff _).mp h with h | h <;> exact u.settle_live i (by rw [h]; simp) (by rw [h]; simp)

end

/-- Settles O14: a stopped stream, a segment of old data alone, a final end that is refused. -/
theorem segmentsDroppedWhole : Obligations.SegmentsDroppedWhole := by
  intro s l record rest g i c h hs hparse hg hfound stop
  have hfound' : ((s.taken l rest).lookup g.tag).2 = .found i c := (s.lookup_taken l rest g.tag).trans hfound
  have hroute := State.handleSegment_found (l := l) (u := s.taken l rest) hs.2.1 hparse hg hfound'
  refine ⟨fun hstopped => ?_, fun hreceiving hlast hpos hold => ?_, fun hreceiving hlast hrefused => ?_⟩
  · rw [if_neg (by simp [hstopped]), State.dropStopped_setCtx] at hroute
    obtain ⟨t, hexec, htook, hothers, hholds, hcounted, hrest⟩ := segmentTake_dropsFor h hs hroute
    exact ⟨t, c.lastWord, hexec, htook, hothers, hholds, rfl, hcounted, hrest⟩
  · rw [if_pos hreceiving, State.placeSegment_old _ i c l g hlast hpos hold, State.settle_receiving (by exact hreceiving)]
      at hroute
    obtain ⟨t, hexec, htook, hothers, hholds, hcounted, hrest⟩ := segmentTake_dropsFor h hs hroute
    exact ⟨t, _, hexec, htook, hothers, hholds, rfl, flagsTested_flagsTested rfl rfl, hcounted, hrest⟩
  · rw [if_pos hreceiving, State.placeSegment_refused _ i c l g hlast hrefused, State.settle_receiving (by exact hreceiving)]
      at hroute
    obtain ⟨t, hexec, htook, hothers, hholds, hcounted, hrest⟩ := segmentTake_dropsFor h hs hroute
    exact ⟨t, _, hexec, htook, hothers, hholds, rfl, flagsTested_flagsTested rfl rfl, hcounted, hrest⟩

end Sys2Proof.Machine
end

section
/-! # Range lists: the union of a list and a piece (R57, R70; O6) -/

namespace Sys2Proof.Machine

theorem rangesWF_cons {r : Range} {rest : List Range} :
    RangesWF (r :: rest) ↔ r.start < r.stop ∧ (∀ x ∈ rest, r.stop < x.start) ∧ RangesWF rest := by
  simp only [RangesWF, List.mem_cons, forall_eq_or_imp, List.pairwise_cons]
  tauto

/-- The range that a piece and a range of the list become when they overlap or touch. -/
def Range.hull (a b : Range) : Range := ⟨min a.start b.start, max a.stop b.stop⟩

/-- The ranges of a list that lie behind `r` and a piece that touches `r` tell the piece and the joined range apart in
nothing. -/
theorem heldOf_hull {piece r : Range} {rest : List Range} (hpiece : piece.start ≤ r.stop)
    (hbehind : ∀ x ∈ rest, r.stop < x.start) : heldOf (piece.hull r) rest = heldOf piece rest := by
  unfold heldOf
  congr 1
  refine List.map_congr_left fun x hx => ?_
  have := hbehind x hx
  simp only [Range.hull]
  omega

/-- What lies above an offset stays above it. -/
theorem insertRange_above {bound : Nat} {ranges : List Range} : ∀ {piece : Range}, bound < piece.start →
    (∀ x ∈ ranges, bound < x.start) → ∀ x ∈ insertRange piece ranges, bound < x.start := by
  induction ranges with
  | nil => simp [insertRange]
  | cons r rest ih =>
    intro piece hp hall
    obtain ⟨hr, hrest⟩ := List.forall_mem_cons.mp hall
    unfold insertRange
    split_ifs
    · exact List.forall_mem_cons.mpr ⟨hp, hall⟩
    · exact List.forall_mem_cons.mpr ⟨hr, ih hp hrest⟩
    · exact ih (lt_min hp hr) hrest

theorem insertRange_wf {ranges : List Range} : ∀ {piece : Range}, piece.start < piece.stop → RangesWF ranges →
    RangesWF (insertRange piece ranges) := by
  induction ranges with
  | nil => exact fun hp hr => rangesWF_cons.mpr ⟨hp, by simp, hr⟩
  | cons r rest ih =>
    intro piece hp hwf
    obtain ⟨hr, hbehind, hrest⟩ := rangesWF_cons.mp hwf
    unfold insertRange
    split_ifs with hbefore hafter
    · refine rangesWF_cons.mpr ⟨hp, List.forall_mem_cons.mpr ⟨hbefore, fun x hx => ?_⟩, hwf⟩
      exact hbefore.trans (hr.trans (hbehind x hx))
    · exact rangesWF_cons.mpr ⟨hr, insertRange_above hafter hbehind, ih hp hrest⟩
    · exact ih (by simp only; omega) hrest

theorem holds_cons (r : Range) (rest : List Range) (y : Nat) :
    holds (r :: rest) y = (decide (r.start ≤ y ∧ y < r.stop) || holds rest y) := rfl

theorem holds_insertRange {ranges : List Range} (y : Nat) : ∀ {piece : Range}, piece.start < piece.stop → RangesWF ranges →
    holds (insertRange piece ranges) y = (holds ranges y || decide (piece.start ≤ y ∧ y < piece.stop)) := by
  induction ranges with
  | nil => simp [insertRange, holds]
  | cons r rest ih =>
    intro piece hp hwf
    obtain ⟨hr, -, hrest⟩ := rangesWF_cons.mp hwf
    unfold insertRange
    split_ifs with hbefore hafter
    · rw [holds_cons, Bool.or_comm]
    · rw [holds_cons, ih hp hrest, holds_cons, Bool.or_assoc]
    · rw [ih (by simp only; omega) hrest, holds_cons, Bool.or_right_comm, Bool.or_comm _ (holds rest y), ← Bool.decide_or]
      congr 1
      rw [decide_eq_decide]
      simp only
      omega

/-- The merged list gains the piece's new bytes. -/
theorem heldBytes_insertRange {ranges : List Range} : ∀ {piece : Range}, piece.start < piece.stop → RangesWF ranges →
    heldBytes (insertRange piece ranges) + heldOf piece ranges = heldBytes ranges + (piece.stop - piece.start) := by
  induction ranges with
  | nil => simp [insertRange, heldBytes, heldOf]
  | cons r rest ih =>
    intro piece hp hwf
    obtain ⟨hr, hbehind, hrest⟩ := rangesWF_cons.mp hwf
    have hheld : heldOf piece (r :: rest) = (min piece.stop r.stop - max piece.start r.start) + heldOf piece rest := by
      simp [heldOf]
    have hbytes : ∀ (x : Range) l, heldBytes (x :: l) = (x.stop - x.start) + heldBytes l := fun x l => by simp [heldBytes]
    unfold insertRange
    split_ifs with hbefore hafter
    · have hnone : heldOf piece rest = 0 := List.sum_eq_zero fun n hn => by
        obtain ⟨x, hx, rfl⟩ := List.mem_map.mp hn
        have := hbehind x hx
        omega
      rw [hheld, hnone, hbytes]
      omega
    · rw [hheld, hbytes, hbytes]
      have := ih hp hrest
      omega
    · have hjoined := ih (piece := piece.hull r) (by simp only [Range.hull]; omega) hrest
      rw [heldOf_hull (by omega) hbehind] at hjoined
      rw [hheld, hbytes]
      simp only [Range.hull] at hjoined
      omega

theorem length_insertRange (ranges : List Range) : ∀ piece : Range,
    (insertRange piece ranges).length ≤ ranges.length + 1 := by
  induction ranges with
  | nil => simp [insertRange]
  | cons r rest ih =>
    intro piece
    unfold insertRange
    split_ifs
    · exact le_rfl
    · simpa using ih piece
    · exact (ih _).trans (by simp)

/-- Settles O6: the piece lies before the first range, behind it, or is joined with it. -/
theorem mergedListHoldsTheUnion : Obligations.MergedListHoldsTheUnion := fun piece ranges hp hwf =>
  ⟨insertRange_wf hp hwf, fun y => holds_insertRange y hp hwf, heldBytes_insertRange hp hwf, length_insertRange ranges piece⟩

/-- A list holds no more of a piece than the piece has. -/
theorem heldOf_le {ranges : List Range} : ∀ {piece : Range}, RangesWF ranges →
    heldOf piece ranges ≤ piece.stop - piece.start := by
  induction ranges with
  | nil => simp [heldOf]
  | cons r rest ih =>
    intro piece hwf
    obtain ⟨hr, hbehind, hrest⟩ := rangesWF_cons.mp hwf
    have hrestHeld : heldOf piece rest = heldOf ⟨max piece.start r.stop, piece.stop⟩ rest := by
      unfold heldOf
      congr 1
      refine List.map_congr_left fun x hx => ?_
      have := hbehind x hx
      simp only
      omega
    have hle := ih (piece := ⟨max piece.start r.stop, piece.stop⟩) hrest
    have hheld : heldOf piece (r :: rest) = (min piece.stop r.stop - max piece.start r.start) + heldOf piece rest := by
      simp [heldOf]
    simp only at hle
    omega

end Sys2Proof.Machine
end

section
/-! # SEGMENT_TAKE: what the Placement Unit reports of a segment (R49, R65, R66, R74 to R76), and the segments with no byte
inside the window (O15) -/

namespace Sys2Proof.Machine

/-! ## What a segment may change -/

/-- A segment changes lanes, table, counters, buffer, verify queue, events, error summary and pool, and nothing else. -/
structure SegmentFrame (s t : State) : Prop where
  rest : t = { s with lanes := t.lanes, table := t.table, live := t.live, buffer := t.buffer, words := t.words,
                      verifyQueue := t.verifyQueue, events := t.events, errors := t.errors, pool := t.pool }

theorem SegmentFrame.trans {s t u : State} (h : SegmentFrame s t) (g : SegmentFrame t u) : SegmentFrame s u :=
  ⟨by rw [g.rest, h.rest]⟩

theorem SegmentFrame.time {s t : State} (h : SegmentFrame s t) : t.time = s.time := by rw [h.rest]

theorem SegmentFrame.settings {s t : State} (h : SegmentFrame s t) : t.settings = s.settings := by rw [h.rest]

/-- Where nothing is placed, buffer and verify queue are as they were. -/
theorem SegmentFrame.rest_unplaced {s t : State} {p : Pool} (h : SegmentFrame s t) (hbuffer : t.buffer = s.buffer)
    (hwords : t.words = s.words) (hqueue : t.verifyQueue = s.verifyQueue) (hpool : t.pool = p) :
    t = { s with lanes := t.lanes, table := t.table, live := t.live, events := t.events, errors := t.errors
                 pool := p } :=
  h.rest.trans (by rw [hbuffer, hwords, hqueue, hpool])

theorem State.raise_frame (s : State) (e : Event) : SegmentFrame s (s.raise e) :=
  ⟨by rw [State.raise_rest]⟩

theorem State.setCtx_frame (s : State) (i : StreamIndex) (c : Context) : SegmentFrame s (s.setCtx i c) := ⟨rfl⟩

theorem State.taken_frame (s : State) (l : LaneId) (rest : List (List Byte)) : SegmentFrame s (s.taken l rest) := ⟨rfl⟩

/-! ## The counts of a segment (R76) -/

/-- A drop leaves the byte counts alone. -/
theorem StreamCounters.drop_bytes (n : StreamCounters) (accepted duplicate old : Nat) (r : DropReason) :
    StreamCounters.drop { n with acceptedBytes := accepted, duplicateBytes := duplicate, oldBytes := old } r =
      { n.drop r with acceptedBytes := accepted, duplicateBytes := duplicate, oldBytes := old } := by
  cases r <;> rfl

theorem StreamCounters.drop_withOld (n : StreamCounters) (old : Nat) (r : DropReason) :
    StreamCounters.drop { n with oldBytes := old } r = { n.drop r with oldBytes := old } := by
  cases r <;> rfl

theorem StreamCounters.drop_oldBytes (n : StreamCounters) (r : DropReason) : (n.drop r).oldBytes = n.oldBytes := by
  cases r <;> rfl

/-- The reasons under which a segment lost bytes, each counted once. -/
def StreamCounters.charge (n : StreamCounters) (lost : List DropReason) : StreamCounters :=
  lost.dedup.foldl StreamCounters.drop n

theorem StreamCounters.charge_bytes (n : StreamCounters) (accepted duplicate old : Nat) (lost : List DropReason) :
    StreamCounters.charge { n with acceptedBytes := accepted, duplicateBytes := duplicate, oldBytes := old } lost =
      { n.charge lost with acceptedBytes := accepted, duplicateBytes := duplicate, oldBytes := old } := by
  unfold StreamCounters.charge
  induction lost.dedup generalizing n with
  | nil => rfl
  | cons r rest ih => rw [List.foldl_cons, StreamCounters.drop_bytes, ih]; rfl

@[simp] theorem StreamCounters.charge_nil (n : StreamCounters) : n.charge [] = n := rfl

@[simp] theorem StreamCounters.charge_singleton (n : StreamCounters) (r : DropReason) : n.charge [r] = n.drop r := rfl

/-! ## An event that is raised or not -/

/-- The device after an event that is raised when `told`. -/
def State.raiseWhen (X : State) (told : Bool) (e : Event) : State := if told then X.raise e else X

section
variable (X : State) (told : Bool) (e : Event)

theorem State.raiseWhen_frame : SegmentFrame X (X.raiseWhen told e) := by
  unfold State.raiseWhen
  split_ifs
  · exact X.raise_frame _
  · exact ⟨rfl⟩

@[simp] theorem State.raiseWhen_false : X.raiseWhen false e = X := rfl
@[simp] theorem State.raiseWhen_true : X.raiseWhen true e = X.raise e := rfl
@[simp] theorem State.raiseWhen_table : (X.raiseWhen told e).table = X.table := by cases told <;> simp
@[simp] theorem State.raiseWhen_lanes : (X.raiseWhen told e).lanes = X.lanes := by cases told <;> simp
@[simp] theorem State.raiseWhen_pool : (X.raiseWhen told e).pool = X.pool := by cases told <;> simp
@[simp] theorem State.raiseWhen_buffer : (X.raiseWhen told e).buffer = X.buffer := by cases told <;> simp
@[simp] theorem State.raiseWhen_words : (X.raiseWhen told e).words = X.words := by cases told <;> simp
@[simp] theorem State.raiseWhen_verifyQueue : (X.raiseWhen told e).verifyQueue = X.verifyQueue := by cases told <;> simp

theorem State.counter_raiseWhen {k : Counter} (h : k ≠ .eventsLost) : (X.raiseWhen told e).counter k = X.counter k := by
  cases told
  · rfl
  · exact X.counter_raise e h

end

theorem SaysAs.raiseWhen {s t : State} (h : SaysAs s t) (told : Bool) (e : Event) :
    SaysAs (s.raiseWhen told e) (t.raiseWhen told e) := by
  cases told
  · exact h
  · exact h.raise e

/-! ## The capacity report (R66) -/

/-- The device after bytes were dropped under a class from offset `x`, the stream holding `c`. -/
def State.tellCapacity (X : State) (i : StreamIndex) (c : Context) (cls : DropReason) (x : Nat) : State :=
  X.raiseWhen (decide (cls = .beyondCapacity) && !c.capacityReached) (.capacityReached i c.tag c.capacityEnd x)

/-- The stream after it: the capacity-reached flag. -/
def Context.reaches (c : Context) (cls : DropReason) : Context :=
  { c with capacityReached := c.capacityReached || decide (cls = .beyondCapacity) }

section
variable (X : State) (i : StreamIndex) (c : Context) (cls : DropReason) (x : Nat)

theorem State.noteBeyond_setCtx :
    (X.setCtx i c).noteBeyond i cls x = (X.tellCapacity i c cls x).setCtx i (c.reaches cls) := by
  unfold State.noteBeyond State.tellCapacity Context.reaches
  rw [State.ctx?_setCtx_self]
  dsimp only
  split_ifs with h
  · simp [h]
  · have hkept : (c.capacityReached || decide (cls = .beyondCapacity)) = c.capacityReached ∧
        (decide (cls = .beyondCapacity) && !c.capacityReached) = false := by
      cases hc : c.capacityReached <;> simp_all
    rw [hkept.1, hkept.2, State.raiseWhen_false]

/-- The class of a byte beyond, as the table of R65 has it. -/
theorem Context.beyondClass_eq : c.beyondClass x = if 65536 * c.cap ≤ x then .beyondCapacity
    else if (c.final.any fun f => decide (f ≤ x)) then .beyondEnd else .beyondWindow := by
  unfold Context.beyondClass Context.capacityEnd Config.chunkSize
  cases c.final <;> simp

end

/-! ## The end of a segment's handling (R49, R74 to R76) -/

/-- The stream after the bookkeeping of an accepted segment: `now` the device time, `reply` the reply lane, `merged` the
highest merged end. -/
def Context.booked (c : Context) (now : Nat) (reply : Option LaneId) (merged : Option Nat) : Context :=
  { c with lastArrival := now, idleReported := false, replyLane := reply
           earlyWarningIssued := c.earlyWarningIssued || merged.any fun m => decide (c.earlyWarningPoint < m) }

/-- The merged end lies above the early-warning point for the first time (R75). -/
def Context.warnsAt (c : Context) (merged : Option Nat) : Bool :=
  (merged.any fun m => decide (c.earlyWarningPoint < m)) && !c.earlyWarningIssued

/-- The device after it: the early warning. -/
def State.tellWarning (X : State) (i : StreamIndex) (c : Context) (merged : Option Nat) : State :=
  X.raiseWhen (c.warnsAt merged) (.earlyWarning i c.tag c.earlyWarningPoint (merged.getD 0))

section
variable (X : State) (i : StreamIndex) (c : Context) (l : LaneId) (merged : Option Nat) (lost : List DropReason)

theorem State.bookkeep_setCtx : (X.setCtx i c).bookkeep i l merged = (X.tellWarning i c merged).setCtx i
    (c.booked X.time (if (X.lane l).state = .active then some l else c.replyLane) merged) := by
  have hreply : (if decide (((X.setCtx i c).lane l).state = .active) = true then some l else c.replyLane) =
      if (X.lane l).state = .active then some l else c.replyLane := by
    simp only [decide_eq_true_eq]; rfl
  unfold State.bookkeep
  dsimp only
  rw [State.modifyCtx_setCtx, State.ctx?_setCtx_self, hreply]
  generalize (if (X.lane l).state = .active then some l else c.replyLane) = reply
  cases merged with
  | none => simp [State.tellWarning, Context.warnsAt, Context.booked]
  | some m =>
    unfold State.tellWarning Context.booked Context.warnsAt
    rw [Option.any_some, Option.getD_some]
    dsimp only
    by_cases hwarn : c.earlyWarningPoint < m ∧ c.earlyWarningIssued = false
    · refine (if_pos (by exact hwarn)).trans ?_
      rw [State.modifyCtx_setCtx, State.raise_setCtx, hwarn.2, decide_eq_true hwarn.1]
      rfl
    · refine (if_neg (by exact hwarn)).trans ?_
      have hkept : (c.earlyWarningIssued || decide (c.earlyWarningPoint < m)) = c.earlyWarningIssued ∧
          (decide (c.earlyWarningPoint < m) && !c.earlyWarningIssued) = false := by
        cases hi : c.earlyWarningIssued <;> simp_all
      rw [hkept.1, hkept.2]
      rfl

theorem State.finishSegment_accepted : (X.setCtx i c).finishSegment i l true merged lost =
    (X.tellWarning i c merged).setCtx i ({ c with counts := c.counts.charge lost }.booked X.time
      (if (X.lane l).state = LaneState.active then some l else c.replyLane) merged) := by
  unfold State.finishSegment
  dsimp only
  rw [State.modifyCtx_setCtx, if_pos rfl, State.bookkeep_setCtx]
  rfl

theorem State.finishSegment_dropped (r : DropReason) : (X.setCtx i c).finishSegment i l false merged (r :: lost) =
    (X.countDrop r).setCtx i { c with counts := c.counts.charge (r :: lost) } := by
  unfold State.finishSegment
  dsimp only
  rw [State.modifyCtx_setCtx]
  rfl

end

/-! ## The event as a whole -/

section
variable {s : State} {l : LaneId} {rest : List (List Byte)} {g : Segment} {i : StreamIndex} {c : Context}

/-- The Placement Unit takes the segment of a stream it knows; the test of the drain flags and the watermark test end the
event. -/
theorem nextSegment_exec (h : NextSegment s l rest g i c) (hs : Serving s) {Y : State} {d : Context}
    (hplaced : ((s.taken l rest).setCtx i c).placeSegment i c l g = Y.setCtx i d) (hsalvaging : d.state ≠ .salvaging)
    (hreleasing : d.state ≠ .releasing) :
    exec (.segmentTake l) s = .next (Y.setCtx i d.flagsTested).poolTest := by
  obtain ⟨⟨record, hhead, hparse⟩, hsound, hfound, hreceiving⟩ := h
  rw [exec_segmentTake hhead, State.handleSegment_found (u := s.taken l rest) hs.2.1 hparse hsound
    ((s.lookup_taken l rest g.tag).trans hfound), if_pos hreceiving, hplaced, Y.settle_live i hsalvaging hreleasing]

theorem nextSegment_exec_receiving (h : NextSegment s l rest g i c) (hs : Serving s) {Y : State} {d : Context}
    (hplaced : ((s.taken l rest).setCtx i c).placeSegment i c l g = Y.setCtx i d) (hstate : d.state = c.state) :
    exec (.segmentTake l) s = .next (Y.setCtx i d.flagsTested).poolTest := by
  obtain hst | hst := (receiving_iff _).mp (hstate ▸ h.2.2.2) <;>
    exact nextSegment_exec h hs hplaced (by rw [hst]; simp) (by rw [hst]; simp)

end

/-! ## No byte inside the window -/

/-- The stream after a segment with no byte inside the window, its drain flags not tested yet: `old` bytes lie below the
committed offset. -/
def Context.droppedBeyond (c : Context) (cls : DropReason) (old : Nat) : Context :=
  { c with counts := { c.counts.drop cls with oldBytes := old }
           capacityReached := c.capacityReached || decide (cls = .beyondCapacity) }

section
variable (X : State) (i : StreamIndex) (c : Context) (l : LaneId) (g : Segment)

theorem piecesOf_empty (x : Nat) : piecesOf x x = [] := if_pos le_rfl

/-- A segment that is not accepted and has a reason to be dropped for, its LAST flag aside. -/
theorem State.placeSegment_beyond (hlast : g.last = false) (hpos : 0 < g.length)
    (habove : c.committed < g.offset + g.length) (hbeyond : c.windowEnd ≤ g.offset ∨ c.windowEnd = c.committed) :
    let beyond := max g.offset c.windowEnd
    let cls := c.beyondClass beyond
    (X.setCtx i c).placeSegment i c l g = ((X.tellCapacity i c cls beyond).countDrop cls).setCtx i
      (c.droppedBeyond cls (if c.windowEnd ≤ g.offset then c.counts.oldBytes
        else satAdd64 c.counts.oldBytes (c.committed - g.offset))) := by
  intro beyond cls
  rw [State.placeSegment, if_neg (by simp [hlast]), State.placeRest, State.ctx?_setCtx_self]
  dsimp only
  rw [if_neg hpos.ne', State.placeBytes]
  dsimp only
  rw [if_neg (by omega)]
  by_cases hwhole : c.windowEnd ≤ g.offset
  · have hoffset : beyond = g.offset := max_eq_left hwhole
    rw [if_pos hwhole, if_pos hwhole, ← hoffset, State.noteBeyond_setCtx, State.finishSegment_dropped]
    congr 2
    rw [StreamCounters.charge_singleton, ← StreamCounters.drop_oldBytes c.counts cls]
    rfl
  · have hcommitted : c.windowEnd = c.committed := hbeyond.resolve_left hwhole
    have hbeyond : beyond = c.committed := by simp only [beyond]; omega
    have hx : max g.offset c.committed = c.committed := by omega
    have ht : min (g.offset + g.length) c.committed = c.committed := by omega
    rw [if_neg hwhole, if_neg hwhole, hcommitted, hx, ht, if_pos habove, if_pos habove, piecesOf_empty, State.addOld,
      State.modifyCtx_setCtx, ← hbeyond, State.noteBeyond_setCtx, State.placePieces]
    refine (State.finishSegment_dropped _ i _ l none [] cls).trans ?_
    exact congrArg (fun n => State.setCtx _ i { c.droppedBeyond cls 0 with counts := n })
      (StreamCounters.drop_withOld c.counts _ cls)

end

/-- Settles O15: a segment wholly beyond, and one that crosses a window end at the committed offset. -/
theorem segmentBeyondTheWindow : Obligations.SegmentBeyondTheWindow := by
  intro s l rest g i c h hs hlast hpos habove _ beyond reason hreason hbeyond
  have hcls : c.beyondClass beyond = reason := (c.beyondClass_eq beyond).trans hreason.symm
  have hplaced := State.placeSegment_beyond (s.taken l rest) i c l g hlast hpos habove hbeyond
  dsimp only at hplaced
  rw [hcls] at hplaced
  generalize hold : (if c.windowEnd ≤ g.offset then c.counts.oldBytes
    else satAdd64 c.counts.oldBytes (c.committed - g.offset)) = old at hplaced
  generalize hX : (s.taken l rest).tellCapacity i c reason beyond = X at hplaced
  have hexec := nextSegment_exec_receiving h hs hplaced rfl
  have hframe : SegmentFrame s X := hX ▸ (s.taken_frame l rest).trans (State.raiseWhen_frame _ _ _)
  have hpool : X.pool = s.pool := by rw [← hX]; exact State.raiseWhen_pool _ _ _
  have htable : X.table = s.table := by rw [← hX]; exact State.raiseWhen_table _ _ _
  have hlanes : X.lanes = (s.taken l rest).lanes := by rw [← hX]; exact State.raiseWhen_lanes _ _ _
  have hcounter : ∀ k, k ≠ .eventsLost → X.counter k = s.counter k := fun k hk => by
    rw [← hX]; exact State.counter_raiseWhen _ _ _ hk
  have hsays : SaysAs (s.tellCapacity i c reason beyond) X := hX ▸ (s.setLane_says l _).raiseWhen _ _
  have hquiet : ((X.countDrop reason).setCtx i (c.droppedBeyond reason old).flagsTested).poolTest =
      (X.countDrop reason).setCtx i (c.droppedBeyond reason old).flagsTested :=
    hs.poolTest_quiet (congrArg Pool.state hpool) (congrArg Pool.spare hpool) hframe.settings
  have hcount : ∀ k, k ≠ .eventsLost → ((X.countDrop reason).setCtx i (c.droppedBeyond reason old).flagsTested).counter k =
      if k = .drop reason then (s.counter k).add 1 else s.counter k := fun k hk =>
    (X.counter_count _ k 1).trans (by rw [hcounter k hk])
  refine ⟨_, _, hexec.trans (congrArg _ hquiet), laneTook_taken hlanes, otherEntries_setCtx hs.2.1 htable i _,
    holds_setCtx _ i _, ?_, flagsTested_flagsTested rfl rfl, ?_, fun k hk => ?_, fun hcap hnot => ?_, fun hnot => ?_, ?_⟩
  · rw [← hold]
    rfl
  · rw [hcount _ (by simp), if_pos rfl]
  · simp only [List.mem_cons, List.not_mem_nil, or_false, not_or] at hk
    rw [hcount k hk.2, if_neg hk.1]
  · have htold : s.tellCapacity i c reason beyond = s.raise (.capacityReached i c.tag (65536 * c.cap) beyond) := by
      rw [State.tellCapacity, hcap, hnot]; rfl
    rw [htold] at hsays
    exact ⟨hsays.events, hsays.errors⟩
  · have hsilent : (decide (reason = .beyondCapacity) && !c.capacityReached) = false := by
      rcases hnot with hnot | hnot <;> simp [hnot]
    rw [State.tellCapacity, hsilent] at hX hsays
    refine ⟨hsays.events, hsays.errors, ?_⟩
    rw [← hX]
    exact (State.counter_count _ _ _ _).trans (if_neg (by simp))
  · refine (hframe.trans (u := (X.countDrop reason).setCtx i (c.droppedBeyond reason old).flagsTested) ⟨rfl⟩).rest_unplaced
      ?_ ?_ ?_ hpool
    · exact hX ▸ State.raiseWhen_buffer _ _ _
    · exact hX ▸ State.raiseWhen_words _ _ _
    · exact hX ▸ State.raiseWhen_verifyQueue _ _ _

end Sys2Proof.Machine
end

section
/-! # Acceptance of a final end: the slots wholly beyond it, the final chunk, completion (R61, R62; O16) -/

namespace Sys2Proof.Machine

/-! ## The ring of chunk records (R52) -/

section
variable (c : Context)

theorem Context.mem_ring {x : Nat × ChunkRecord} :
    x ∈ c.ring ↔ ∃ j, j < c.w ∧ x.1 = c.posOf (c.head + j) ∧ c.window[x.1]? = some x.2 := by
  simp only [Context.ring, List.mem_filterMap, List.mem_range, Option.map_eq_some_iff]
  constructor
  · rintro ⟨j, hj, r, hr, rfl⟩
    exact ⟨j, hj, rfl, hr⟩
  · rintro ⟨j, hj, hpos, hr⟩
    exact ⟨j, hj, x.2, hpos ▸ hr, Prod.ext hpos.symm rfl⟩

/-- The chunks of the ring stand at different positions. -/
theorem Context.ring_nodup : (c.ring.map Prod.fst).Nodup := by
  refine List.pairwise_map.mpr (List.pairwise_filterMap.mpr (List.nodup_range.imp_of_mem ?_))
  intro j k hj hk hne x hx y hy
  obtain ⟨r, -, rfl⟩ := Option.map_eq_some_iff.mp hx
  obtain ⟨q, -, rfl⟩ := Option.map_eq_some_iff.mp hy
  exact fun h => hne (Context.posOf_injective (List.mem_range.mp hj) (List.mem_range.mp hk) h)

theorem Context.ring_filter_nodup (p : Nat × ChunkRecord → Bool) : ((c.ring.filter p).map Prod.fst).Nodup :=
  c.ring_nodup.sublist (List.filter_sublist.map _)

/-- A position of the ring names one record. -/
theorem Context.ring_unique {x y : Nat × ChunkRecord} (hx : x ∈ c.ring) (hy : y ∈ c.ring) (h : x.1 = y.1) : x = y := by
  obtain ⟨-, -, -, hx⟩ := c.mem_ring.mp hx
  obtain ⟨-, -, -, hy⟩ := c.mem_ring.mp hy
  rw [h, hy] at hx
  exact Prod.ext h (Option.some.inj hx).symm

/-! ## The records wholly beyond F (R61) -/

/-- The stream after the records at some positions lose slot and GAP item. -/
def Context.cleared (ps : List Nat) : Context :=
  { c with window := c.window.mapIdx fun p r => if p ∈ ps then { r with slot := none } else r
           notices := { c.notices with gaps := c.notices.gaps.filter fun p => decide (p ∉ ps) } }

theorem Context.cleared_getElem? (ps : List Nat) (p : Nat) : (c.cleared ps).window[p]? =
    (c.window[p]?).map fun r => if p ∈ ps then { r with slot := none } else r := List.getElem?_mapIdx

theorem Context.cleared_nil : c.cleared [] = c := by
  have hwindow : c.window.mapIdx (fun _ r => r) = c.window := List.ext_getElem? fun p => by simp
  simp [Context.cleared, hwindow]

theorem Context.cleared_cons (p : Nat) (ps : List Nat) : c.cleared (p :: ps) =
    ((c.modifyChunk p fun r => { r with slot := none }).notify fun n => n.removeGap p).cleared ps := by
  have hwindow : (c.cleared (p :: ps)).window =
      (((c.modifyChunk p fun r => { r with slot := none }).notify fun n => n.removeGap p).cleared ps).window := by
    refine List.ext_getElem? fun q => ?_
    rw [Context.cleared_getElem?, Context.cleared_getElem?]
    show _ = ((c.window.modify p fun r => { r with slot := none })[q]?).map _
    rw [List.getElem?_modify, Option.map_eq_map, Option.map_map]
    congr 1
    funext r
    by_cases hp : p = q
    · simp [hp]
    · simp [hp, Ne.symm hp]
  have hgaps : (c.cleared (p :: ps)).notices.gaps =
      (((c.modifyChunk p fun r => { r with slot := none }).notify fun n => n.removeGap p).cleared ps).notices.gaps := by
    show c.notices.gaps.filter _ = (c.notices.gaps.filter _).filter _
    rw [List.filter_filter]
    refine List.filter_congr fun q _ => ?_
    rw [← Bool.decide_and, decide_eq_decide, List.mem_cons, not_or, and_comm]
  unfold Context.cleared at hwindow hgaps ⊢
  dsimp only at hwindow hgaps
  rw [hwindow, hgaps]
  rfl

end

/-- The slots recorded for some positions given up in order. -/
def State.givenUpAt (X : State) (i : StreamIndex) : List Nat → State
  | [] => X
  | p :: ps => (X.giveUpAt i p false).givenUpAt i ps

theorem State.givenUpAt_eq (i : StreamIndex) (ps : List Nat) : ∀ X : State, X.givenUpAt i ps =
    { X with pool := { X.pool with freeList := (X.givenUpAt i ps).pool.freeList, uses := (X.givenUpAt i ps).pool.uses,
                                   marks := (X.givenUpAt i ps).pool.marks },
             live := (X.givenUpAt i ps).live } := by
  induction ps with
  | nil => exact fun _ => rfl
  | cons p ps ih => exact fun X => by rw [State.givenUpAt, ih, State.giveUpAt_eq]

theorem State.counter_givenUpAt (i : StreamIndex) {k : Counter} (hk : k ≠ .retiredSlots) (ps : List Nat) :
    ∀ X : State, (X.givenUpAt i ps).counter k = X.counter k := by
  induction ps with
  | nil => exact fun _ => rfl
  | cons p ps ih => exact fun X => (ih _).trans (X.counter_giveUpAt i p false hk)

theorem State.freeBeyond_setCtx (i : StreamIndex) (l : List (Nat × ChunkRecord)) : ∀ (X : State) (c : Context),
    (X.setCtx i c).freeBeyond i l =
      (X.givenUpAt i ((l.filter fun x => x.2.slot.isSome).map Prod.fst)).setCtx i (c.cleared (l.map Prod.fst)) := by
  induction l with
  | nil => exact fun X c => by rw [List.map_nil, Context.cleared_nil]; rfl
  | cons x l ih =>
    intro X c
    rw [State.freeBeyond, State.modifyCtx_setCtx, List.map_cons, Context.cleared_cons, List.filter_cons]
    cases x.2.slot.isSome with
    | true =>
      rw [if_pos rfl, if_pos rfl, State.giveUpAt_setCtx, ih]
      rfl
    | false =>
      rw [if_neg Bool.false_ne_true, if_neg Bool.false_ne_true, ih]

section
variable {R X : State} {i : StreamIndex} {given freed : List Slot}

/-- Nothing given up yet: the head reserve alone may have changed. -/
theorem GaveUp.start (huses : CellsWF .free R.pool.uses) (hmarks : CellsWF false R.pool.marks)
    (hpool : X.pool = { R.pool with reserve := X.pool.reserve })
    (hcounter : X.counter .retiredSlots = R.counter .retiredSlots) : GaveUp R X [] [] none where
  sublist := .refl _
  freeList := by rw [hpool, List.append_nil]
  others _ _ := by rw [hpool]; exact ⟨rfl, rfl⟩
  each _ h := absurd h List.not_mem_nil
  allRetired _ _ _ h := absurd h List.not_mem_nil
  allFreed _ := rfl
  counter := hcounter
  retired := by rw [hpool]; rfl
  uses := by rw [hpool]; exact huses
  marks := by rw [hpool]; exact hmarks

/-- Slots given up for other positions leave the slot recorded for a position. -/
theorem GaveUp.slotOf (h : GaveUp R X given freed none) (hR : CellsWF .free R.pool.uses) {p : Nat}
    (hother : ∀ x ∈ given, R.pool.use x ≠ .assigned i p) : X.pool.slotOf i p = R.pool.slotOf i p := by
  refine Pool.slotOf_congr h.uses hR fun x => ?_
  by_cases hx : x ∈ given
  · have hgone := h.each x hx
    have hnever := hother x hx
    split_ifs at hgone <;> simp [hgone.1, hnever]
  · rw [(h.others x hx).1]

theorem GaveUp.givenUpAt (hR : CellsWF .free R.pool.uses) (ps : List Nat) : ∀ {X : State} {given freed : List Slot},
    GaveUp R X given freed none → ps.Nodup → (∀ x ∈ given, ∀ p ∈ ps, R.pool.use x ≠ .assigned i p) →
    ∃ freed', GaveUp R (X.givenUpAt i ps) (given ++ ps.filterMap (R.pool.slotOf i)) freed' none := by
  induction ps with
  | nil => exact fun h _ _ => ⟨_, by rw [List.filterMap_nil, List.append_nil]; exact h⟩
  | cons p ps ih =>
    intro X given freed h hnodup hother
    obtain ⟨hp, hps⟩ := List.nodup_cons.mp hnodup
    have hslot := h.slotOf hR (i := i) (p := p) fun x hx => hother x hx p (List.mem_cons_self ..)
    rw [State.givenUpAt, State.giveUpAt, hslot]
    cases hs : R.pool.slotOf i p with
    | none =>
      rw [List.filterMap_cons_none hs]
      exact ih h hps fun x hx q hq => hother x hx q (List.mem_cons_of_mem _ hq)
    | some slot =>
      have huse := Pool.slotOf_use hR hs
      have hnew : slot ∉ given := fun hm => hother slot hm p (List.mem_cons_self ..) huse
      obtain ⟨more, -, h'⟩ := h.snoc hnew (by simp [huse]) (t' := X) (force := false) rfl rfl le_rfl (Nat.le_succ _)
        (by simp)
      rw [List.filterMap_cons_some hs, List.append_cons]
      refine ih h' hps fun x hx q hq => ?_
      rcases List.mem_append.mp hx with hx | hx
      · exact hother x hx q (List.mem_cons_of_mem _ hq)
      · rw [List.mem_singleton.mp hx, huse, Ne, SlotUse.assigned.injEq]
        exact fun e => hp (e.2 ▸ hq)

end

/-! ## The final chunk (R61) -/

/-- Names join the tail of the verify queue. -/
def State.enqueue (X : State) (names : List ChunkName) : State := { X with verifyQueue := X.verifyQueue ++ names }

/-- The final chunk is in the window, FILLING, and holds exactly [0, len_k). -/
def Context.finalFull (c : Context) (f : Nat) : Bool :=
  decide (0 < f ∧ c.head ≤ finalIndex f ∧ finalIndex f < c.head + c.w) &&
    (c.window[c.posOf (finalIndex f)]?).any fun r =>
      decide (r.state = .filling) && isComplete r.ranges (chunkLength (some f) (finalIndex f))

/-- The stream with F known, its final chunk QUEUED when it is full. -/
def Context.fixes (c : Context) (f : Nat) : Context :=
  if c.finalFull f then { c with final := some f }.modifyChunk (c.posOf (finalIndex f)) fun r => { r with state := .queued }
  else { c with final := some f }

/-- The records wholly beyond F. -/
def Context.beyondFinal (c : Context) (f : Nat) : List (Nat × ChunkRecord) :=
  c.ring.filter fun x => decide ((f + 65535) / Config.chunkSize ≤ x.2.index)

section
variable (X : State) (i : StreamIndex) (c : Context) (f : Nat)

theorem State.queueFinalChunk_setCtx : (X.setCtx i { c with final := some f }).queueFinalChunk i f =
    (X.enqueue (if c.finalFull f then [⟨i, c.posOf (finalIndex f)⟩] else [])).setCtx i (c.fixes f) := by
  have hfull : (0 < f ∧ c.head ≤ finalIndex f ∧ finalIndex f < c.head + c.w ∧
      ((c.window[c.posOf (finalIndex f)]?).any fun r =>
        decide (r.state = .filling) && isComplete r.ranges (chunkLength (some f) (finalIndex f))) = true) ↔
      c.finalFull f = true := by
    rw [Context.finalFull, Bool.and_eq_true, decide_eq_true_eq]
    tauto
  unfold State.queueFinalChunk Context.fixes
  rw [State.ctx?_setCtx_self]
  dsimp only
  by_cases h : c.finalFull f = true
  · refine (if_pos (by exact hfull.mpr h)).trans ?_
    rw [if_pos h, if_pos h, State.modifyChunk_setCtx]
    rfl
  · refine (if_neg (by exact fun hc => h (hfull.mp hc))).trans ?_
    rw [if_neg h, if_neg h, State.enqueue, List.append_nil]

/-- The device after a new F, the stream's own part aside (R61). -/
def State.afterFinal : State :=
  ((if f = c.committed ∧ c.headSlotless then X.lowerReserve else X).enqueue
    (if c.finalFull f then [⟨i, c.posOf (finalIndex f)⟩] else [])).givenUpAt i
      (((c.beyondFinal f).filter fun x => x.2.slot.isSome).map Prod.fst)

theorem State.acceptFinal_setCtx : (X.setCtx i c).acceptFinal i c f =
    if f = c.committed then
      ((X.afterFinal i c f).setCtx i ((c.fixes f).cleared ((c.beyondFinal f).map Prod.fst))).completeStream i c f
    else (X.afterFinal i c f).setCtx i ((c.fixes f).cleared ((c.beyondFinal f).map Prod.fst)) := by
  have hlower : (if f = c.committed ∧ c.headSlotless = true then (X.setCtx i { c with final := some f }).lowerReserve
      else X.setCtx i { c with final := some f }) =
      (if f = c.committed ∧ c.headSlotless = true then X.lowerReserve else X).setCtx i { c with final := some f } := by
    split_ifs <;> simp
  unfold State.acceptFinal State.afterFinal
  dsimp only
  rw [State.modifyCtx_setCtx, hlower, State.queueFinalChunk_setCtx, State.freeBeyond_setCtx]
  rfl

theorem State.afterFinal_eq : X.afterFinal i c f =
    { X with pool := { X.pool with freeList := (X.afterFinal i c f).pool.freeList,
                                   uses := (X.afterFinal i c f).pool.uses,
                                   marks := (X.afterFinal i c f).pool.marks
                                   reserve := (X.afterFinal i c f).pool.reserve },
             live := (X.afterFinal i c f).live, verifyQueue := (X.afterFinal i c f).verifyQueue } := by
  unfold State.afterFinal
  rw [State.givenUpAt_eq]
  split_ifs <;> rfl

theorem State.afterFinal_frame : SegmentFrame X (X.afterFinal i c f) := ⟨by rw [State.afterFinal_eq]⟩

theorem State.afterFinal_verifyQueue : (X.afterFinal i c f).verifyQueue =
    X.verifyQueue ++ if c.finalFull f then [⟨i, c.posOf (finalIndex f)⟩] else [] := by
  unfold State.afterFinal
  rw [State.givenUpAt_eq]
  split_ifs <;> rfl

theorem State.afterFinal_reserve : (X.afterFinal i c f).pool.reserve =
    if f = c.committed ∧ c.headSlotless then X.pool.reserve - 1 else X.pool.reserve := by
  unfold State.afterFinal
  rw [State.givenUpAt_eq]
  split_ifs <;> rfl

theorem State.counter_afterFinal {k : Counter} (hk : k ≠ .retiredSlots) :
    (X.afterFinal i c f).counter k = X.counter k := by
  unfold State.afterFinal
  rw [State.counter_givenUpAt i hk]
  split_ifs <;> rfl

/-- The slots of the chunks wholly beyond F are given back in chunk order. -/
theorem State.afterFinal_gaveUp {s : State} (hcan : CanonicalForm s) (hpool : X.pool = s.pool)
    (hcounter : X.counter .retiredSlots = s.counter .retiredSlots) :
    ∃ freed, GaveUp s (X.afterFinal i c f) (s.slotsFrom i c ((f + 65535) / 65536)) freed none := by
  obtain ⟨-, -, -, huses, hmarks⟩ := hcan
  have hnodup : (((c.beyondFinal f).filter fun x => x.2.slot.isSome).map Prod.fst).Nodup := by
    rw [Context.beyondFinal, List.filter_filter]
    exact c.ring_filter_nodup _
  have hgiven : s.slotsFrom i c ((f + 65535) / 65536) =
      (((c.beyondFinal f).filter fun x => x.2.slot.isSome).map Prod.fst).filterMap (s.pool.slotOf i) := by
    rw [State.slotsFrom, Context.beyondFinal, List.filter_filter, List.filterMap_map]
    simp only [Bool.and_comm]
    rfl
  unfold State.afterFinal
  generalize hY : (if f = c.committed ∧ c.headSlotless = true then X.lowerReserve else X).enqueue _ = Y
  have hpoolY : Y.pool = { s.pool with reserve := Y.pool.reserve } := by rw [← hY, ← hpool]; split_ifs <;> rfl
  have hcounterY : Y.counter .retiredSlots = s.counter .retiredSlots := by rw [← hY, ← hcounter]; split_ifs <;> rfl
  rw [hgiven]
  exact (GaveUp.start huses hmarks hpoolY hcounterY).givenUpAt huses _ hnodup (by simp)

end

/-! ## Completion (R62) -/

/-- The stream whose final end is its committed offset, its drain flags not tested yet: `old` is the count of old bytes. -/
def Context.completed (c : Context) (old : Nat) (now : Nat) (reply : Option LaneId) : Context :=
  { c.cleared ((c.beyondFinal c.committed).map Prod.fst) with
    state := .complete, final := some c.committed
    notices := { c.notices with resync := false, gaps := [], ended := true }
    counts := { c.counts with oldBytes := old }
    lastArrival := now, idleReported := false, replyLane := reply }

section
variable (X : State) (i : StreamIndex) (c : Context) (l : LaneId) (g : Segment)

/-- No chunk of the window ends at the committed offset. -/
theorem Context.finalFull_committed (h : c.committed % 65536 = 0) : c.finalFull c.committed = false := by
  have : ¬(0 < c.committed ∧ c.head ≤ finalIndex c.committed ∧ finalIndex c.committed < c.head + c.w) := by
    unfold Context.head finalIndex Config.chunkSize
    omega
  rw [Context.finalFull, decide_eq_false this, Bool.false_and]

theorem Context.refusesFinal_committed (haligned : c.committed % 65536 = 0) (hheld : c.highestHeld = c.committed)
    (hcap : c.committed ≤ 65536 * c.cap) : c.refusesFinal c.committed = false := by
  unfold Context.refusesFinal Context.capacityEnd Config.chunkSize
  rw [decide_eq_false_iff_not]
  omega

theorem State.placeSegment_completes (hlast : g.last = true) (hfinal : c.final = none)
    (hstop : g.offset + g.length = c.committed) (haligned : c.committed % 65536 = 0)
    (hheld : c.highestHeld = c.committed) (hcap : c.committed ≤ 65536 * c.cap) :
    (X.setCtx i c).placeSegment i c l g =
      ((X.afterFinal i c c.committed).raise (.streamFinished i c.tag c.committed)).setCtx i
        (c.completed (satAdd64 c.counts.oldBytes g.length) X.time
          (if (X.lane l).state = .active then some l else c.replyLane)) := by
  have hfixes : c.fixes c.committed = { c with final := some c.committed } :=
    if_neg (by rw [c.finalFull_committed haligned]; simp)
  have htime : ((X.afterFinal i c c.committed).raise (.streamFinished i c.tag c.committed)).time = X.time := by
    rw [State.raise_time, State.afterFinal_eq]
  have hlane : ((X.afterFinal i c c.committed).raise (.streamFinished i c.tag c.committed)).lane l = X.lane l := by
    rw [State.lane, State.raise_lanes, State.afterFinal_eq]; rfl
  rw [State.placeSegment, if_pos hlast, hfinal, hstop]
  dsimp only
  rw [c.refusesFinal_committed haligned hheld hcap, if_neg Bool.false_ne_true, if_pos rfl, State.acceptFinal_setCtx,
    if_pos rfl, hfixes, State.completeStream, State.modifyCtx_setCtx, State.raise_setCtx, State.addOld,
    State.modifyCtx_setCtx, State.finishSegment_accepted, htime, hlane]
  simp only [State.tellWarning, Context.warnsAt, Option.any_none, Bool.false_and, State.raiseWhen_false]
  refine congrArg (State.setCtx _ i) ?_
  rw [Context.booked, Option.any_none, Bool.or_false]
  rfl

end

/-- Settles O16. -/
theorem finalEndAtTheCommittedOffsetCompletes : Obligations.FinalEndAtTheCommittedOffsetCompletes := by
  intro s l rest g i c h hs hcan hlast hfinal hstop haligned hheld hcap
  have hplaced := State.placeSegment_completes (s.taken l rest) i c l g hlast hfinal hstop haligned hheld hcap
  have hlaneState : ((s.taken l rest).lane l).state = (s.lane l).state := by
    rw [State.taken, State.lane_setLane_self]; rfl
  rw [hlaneState] at hplaced
  obtain ⟨freed, hgave⟩ := (s.taken l rest).afterFinal_gaveUp i c c.committed hcan rfl rfl
  have hexec := nextSegment_exec h hs hplaced (by simp [Context.completed]) (by simp [Context.completed])
  have heq := (s.taken l rest).afterFinal_eq i c c.committed
  generalize hY : (s.taken l rest).afterFinal i c c.committed = Y at hplaced hexec hgave heq
  generalize hd : c.completed _ _ _ = d at hplaced hexec
  have hreserve : Y.pool.reserve = if c.headSlotless then s.pool.reserve - 1 else s.pool.reserve := by
    rw [← hY, State.afterFinal_reserve]
    simp [State.taken]
  have hbeyond : (c.committed + 65535) / 65536 = c.head := by unfold Context.head Config.chunkSize; omega
  rw [hbeyond] at hgave
  have hlanes : Y.lanes = (s.taken l rest).lanes := by rw [heq]
  have htable : Y.table = s.table := by rw [heq]; rfl
  have hsays : SaysAs s Y := ⟨by rw [heq]; rfl, by rw [heq]; rfl, by rw [heq]; rfl, by rw [heq]; rfl⟩
  let u := (Y.raise (.streamFinished i c.tag c.committed)).setCtx i d.flagsTested
  have hcounter : ∀ k, k ≠ .eventsLost → u.counter k = Y.counter k := fun k hk =>
    (State.counter_setCtx _ _ _ _).trans (Y.counter_raise _ hk)
  have hframe : SegmentFrame s u := ((s.taken_frame l rest).trans (hY ▸ State.afterFinal_frame _ i c _)).trans
    ((Y.raise_frame _).trans (State.setCtx_frame _ _ _))
  have hupool : u.pool = { s.pool with freeList := u.pool.freeList, uses := u.pool.uses, marks := u.pool.marks
                                       reserve := u.pool.reserve } := by
    have : u.pool = Y.pool := State.raise_pool _ _
    rw [this, heq]
    rfl
  refine ⟨u, d.flagsTested, hexec, laneTook_taken ?_, otherEntries_setCtx hs.2.1 ?_ i _, holds_setCtx _ i _, ?_,
    ?_, fun x hx hhead => ?_, ?_, ?_, fun k hk => ?_, ?_, ?_⟩
  · exact (State.raise_lanes _ _).trans hlanes
  · exact (State.raise_table _ _).trans htable
  · rw [← hd]
    rfl
  · exact flagsTested_flagsTested (by rw [← hd]; rfl) (by rw [← hd]; rfl)
  · obtain ⟨-, -, -, hrecord⟩ := c.mem_ring.mp hx
    have hlost : x.1 ∈ (c.beyondFinal c.committed).map Prod.fst :=
      List.mem_map_of_mem (List.mem_filter.mpr ⟨hx, decide_eq_true (hbeyond.trans_le hhead)⟩)
    rw [← hd]
    exact (c.cleared_getElem? _ _).trans (by rw [hrecord, Option.map_some, if_pos hlost])
  · exact (hgave.congr rfl rfl (State.raise_pool _ _) (hcounter _ (by simp))).slotsGivenUp
  · exact (congrArg Pool.reserve (State.raise_pool _ _)).trans hreserve
  · simp only [List.mem_cons, List.not_mem_nil, or_false, not_or] at hk
    rw [hcounter k hk.2, ← hY, State.counter_afterFinal _ _ _ _ hk.1]
    rfl
  · exact hsays.raised _
  · refine hframe.rest_unplaced ?_ ?_ ?_ hupool
    · exact (State.raise_buffer _ _).trans (by rw [heq]; rfl)
    · exact (State.raise_words _ _).trans (by rw [heq]; rfl)
    · refine (State.raise_verifyQueue _ _).trans ?_
      rw [← hY, State.afterFinal_verifyQueue, c.finalFull_committed haligned]
      exact List.append_nil _

end Sys2Proof.Machine
end

section
/-! # The write of a piece into the chunk buffer (R70, R88 to R90) -/

namespace Sys2Proof.Machine

/-! ## Bytes and words after several writes -/

section
variable {slot : Slot}

theorem bufferAddress_inj {slot slot' : Slot} {y z : Nat} (hy : y < 65536) (hz : z < 65536)
    (h : bufferAddress slot y = bufferAddress slot' z) : slot = slot' ∧ y = z := by
  unfold bufferAddress Config.chunkSize at h
  exact ⟨Fin.ext (by omega), by omega⟩

/-- The word of a slot's byte. -/
theorem bufferAddress_word (slot : Slot) (y : Nat) : bufferAddress slot y / 8 = bufferWord slot (y / 8) := by
  unfold bufferAddress bufferWord Config.chunkSize Config.wordBytes
  omega

theorem byteAt_writeBytes_other (f : Nat → Byte) {a : Nat} (ys : List Nat) : ∀ s : State, Memory.wf s.buffer →
    (∀ y ∈ ys, y < 65536 ∧ a ≠ bufferAddress slot y) →
    (ys.foldl (fun t y => t.writeByte slot y (f y)) s).byteAt a = s.byteAt a := by
  induction ys with
  | nil => exact fun _ _ _ => rfl
  | cons y ys ih =>
    intro s hs h
    obtain ⟨⟨hy, ha⟩, hrest⟩ := List.forall_mem_cons.mp h
    rw [List.foldl_cons, ih _ (State.writeByte_wf hs slot y _) hrest, State.byteAt_writeByte hs slot y a _ hy, if_neg ha]

theorem byteAt_writeBytes_mem (f : Nat → Byte) {y : Nat} (ys : List Nat) : ∀ s : State, Memory.wf s.buffer →
    (∀ z ∈ ys, z < 65536) → y ∈ ys →
    (ys.foldl (fun t y => t.writeByte slot y (f y)) s).byteAt (bufferAddress slot y) = f y := by
  induction ys with
  | nil => exact fun _ _ _ h => absurd h List.not_mem_nil
  | cons z ys ih =>
    intro s hs hlt hy
    obtain ⟨hz, hrest⟩ := List.forall_mem_cons.mp hlt
    rw [List.foldl_cons]
    by_cases hlater : y ∈ ys
    · exact ih _ (State.writeByte_wf hs slot z _) hrest hlater
    · obtain rfl := (List.mem_cons.mp hy).resolve_right hlater
      rw [byteAt_writeBytes_other f ys _ (State.writeByte_wf hs slot y _) fun z hmem => ⟨hrest z hmem, fun e => ?_⟩,
        State.byteAt_writeByte hs slot y _ _ hz, if_pos rfl]
      exact hlater ((bufferAddress_inj hz (hrest z hmem) e).2 ▸ hmem)

theorem words_setConditions_other (f : State → Nat → WordCondition) {v : Nat} (ws : List Nat) : ∀ s : State,
    CellsWF .sound s.words → (∀ w ∈ ws, v ≠ bufferWord slot w) →
    cellGet .sound (ws.foldl (fun t w => t.setCondition slot w (f t w)) s).words v = cellGet .sound s.words v := by
  induction ws with
  | nil => exact fun _ _ _ => rfl
  | cons w ws ih =>
    intro s hs h
    obtain ⟨hw, hrest⟩ := List.forall_mem_cons.mp h
    rw [List.foldl_cons, ih (s.setCondition slot w (f s w)) (cellPut_wf hs _ _) hrest]
    exact (cellGet_cellPut hs _ _ _).trans (if_neg hw)

theorem setConditions_eq (f : State → Nat → WordCondition) (ws : List Nat) : ∀ s : State,
    ws.foldl (fun t w => t.setCondition slot w (f t w)) s =
      { s with words := (ws.foldl (fun t w => t.setCondition slot w (f t w)) s).words } := by
  induction ws with
  | nil => exact fun _ => rfl
  | cons w ws ih => exact fun s => by rw [List.foldl_cons, ih]; rfl

theorem writeBytes_eq (f : Nat → Byte) (ys : List Nat) : ∀ s : State, ys.foldl (fun t y => t.writeByte slot y (f y)) s =
    { s with buffer := (ys.foldl (fun t y => t.writeByte slot y (f y)) s).buffer } := by
  induction ys with
  | nil => exact fun _ => rfl
  | cons y ys ih =>
    intro s
    have hone : s.writeByte slot y (f y) = { s with buffer := (s.writeByte slot y (f y)).buffer } := by
      unfold State.writeByte; split_ifs <;> rfl
    rw [List.foldl_cons, ih, hone]

theorem setConditions_setCtx (f : State → Nat → WordCondition) (hf : ∀ s i c w, f (State.setCtx s i c) w = f s w)
    (i : StreamIndex) (c : Context) (ws : List Nat) : ∀ s : State,
    ws.foldl (fun t w => t.setCondition slot w (f t w)) (s.setCtx i c) =
      (ws.foldl (fun t w => t.setCondition slot w (f t w)) s).setCtx i c := by
  induction ws with
  | nil => exact fun _ => rfl
  | cons w ws ih =>
    intro s
    rw [List.foldl_cons, List.foldl_cons, hf]
    exact ih (s.setCondition slot w (f s w))

theorem writeBytes_setCtx (f : Nat → Byte) (i : StreamIndex) (c : Context) (ys : List Nat) : ∀ s : State,
    ys.foldl (fun t y => t.writeByte slot y (f y)) (s.setCtx i c) =
      (ys.foldl (fun t y => t.writeByte slot y (f y)) s).setCtx i c := by
  induction ys with
  | nil => exact fun _ => rfl
  | cons y ys ih =>
    intro s
    have hone : (s.setCtx i c).writeByte slot y (f y) = (s.writeByte slot y (f y)).setCtx i c := by
      unfold State.writeByte; split_ifs <;> rfl
    rw [List.foldl_cons, List.foldl_cons, hone, ih]

end

/-! ## The report of the words read -/

section
variable (s : State) (slot : Slot) (ws : List Nat) (i : StreamIndex) (k : Nat)

theorem State.reportRead_setCtx (j : StreamIndex) (c : Context) :
    (s.setCtx j c).reportRead slot ws i k = (s.reportRead slot ws i k).setCtx j c := by
  unfold State.reportRead
  have hwords : ∀ cond, (s.setCtx j c).countWords slot ws cond = s.countWords slot ws cond := fun _ => rfl
  simp only [hwords]
  by_cases h : s.countWords slot ws .uncorrectable = 0
  · rw [if_pos h, if_pos h, State.count_setCtx]
  · rw [if_neg h, if_neg h, ← State.raise_setCtx]
    rfl

theorem State.reportRead_eq : s.reportRead slot ws i k =
    { s with pool := { s.pool with marks := (s.reportRead slot ws i k).pool.marks }
             live := (s.reportRead slot ws i k).live, events := (s.reportRead slot ws i k).events
             errors := (s.reportRead slot ws i k).errors } := by
  unfold State.reportRead
  dsimp only
  split_ifs
  · rfl
  · rw [State.raise_rest]
    rfl

/-- Words without an uncorrectable error: the corrected ones are counted, no more. -/
theorem State.reportRead_sound {s : State} (h : ∀ w ∈ ws, s.condition slot w ≠ .uncorrectable) :
    s.reportRead slot ws i k = s.count .correctedErrors (s.countWords slot ws .correctable) := by
  have hnone : s.countWords slot ws .uncorrectable = 0 := by
    rw [State.countWords, List.filter_eq_nil_iff.mpr fun w hw => by simp [h w hw]]
    rfl
  exact if_pos hnone

end

/-! ## One piece -/

theorem mem_newOffsets {piece : Range} {held : List Range} {y : Nat} :
    y ∈ newOffsets piece held ↔ piece.start ≤ y ∧ y < piece.stop ∧ holds held y = false := by
  simp only [newOffsets, List.mem_filter, List.mem_map, List.mem_range, Bool.not_eq_true']
  constructor
  · rintro ⟨⟨j, hj, rfl⟩, hy⟩
    exact ⟨by omega, by omega, hy⟩
  · rintro ⟨hstart, hstop, hy⟩
    exact ⟨⟨y - piece.start, by omega, by omega⟩, hy⟩

/-- The words that a piece's new bytes touch. -/
def touchedWords (piece : Range) (held : List Range) : List Nat :=
  (wordsOf piece.start (piece.stop - piece.start)).filter fun w =>
    (newOffsets piece held).any fun y => decide (y / Config.wordBytes = w)

theorem mem_touchedWords {piece : Range} {held : List Range} {w : Nat} (h : w ∈ touchedWords piece held) :
    ∃ y ∈ newOffsets piece held, y / 8 = w := by
  obtain ⟨y, hy, hw⟩ := List.any_eq_true.mp (List.mem_filter.mp h).2
  exact ⟨y, hy, of_decide_eq_true hw⟩

/-- The words that a piece writes in part. -/
def partWords (piece : Range) (held : List Range) : List Nat :=
  (touchedWords piece held).filter fun w => !wordAllNew (newOffsets piece held) w

section
variable (X : State) (slot : Slot) (piece : Range) (held : List Range) (bytes : List Byte) (i : StreamIndex) (k : Nat)

/-- The three stages of a piece's write: report, conditions, bytes. -/
theorem State.writePiece_stages : X.writePiece slot piece held bytes i k =
    (newOffsets piece held).foldl (fun t y => t.writeByte slot y (bytes.getD (y - piece.start) 0))
      ((touchedWords piece held).foldl (fun t w => t.setCondition slot w
        (writtenCondition (wordAllNew (newOffsets piece held) w) (t.condition slot w)))
        (X.reportRead slot (partWords piece held) i k)) := rfl

theorem State.writePiece_setCtx (j : StreamIndex) (c : Context) :
    (X.setCtx j c).writePiece slot piece held bytes i k = (X.writePiece slot piece held bytes i k).setCtx j c := by
  rw [State.writePiece_stages, State.writePiece_stages, State.reportRead_setCtx,
    setConditions_setCtx (fun t w => writtenCondition (wordAllNew (newOffsets piece held) w) (t.condition slot w))
      (fun _ _ _ _ => rfl), writeBytes_setCtx]

/-- What a piece's write leaves alone, whatever the words it touches hold. -/
theorem State.writePiece_eq : X.writePiece slot piece held bytes i k =
    { X with pool := { X.pool with marks := (X.writePiece slot piece held bytes i k).pool.marks }
             live := (X.writePiece slot piece held bytes i k).live
             events := (X.writePiece slot piece held bytes i k).events
             errors := (X.writePiece slot piece held bytes i k).errors
             buffer := (X.writePiece slot piece held bytes i k).buffer
             words := (X.writePiece slot piece held bytes i k).words } := by
  rw [State.writePiece_stages, writeBytes_eq,
    setConditions_eq fun t w => writtenCondition (wordAllNew (newOffsets piece held) w) (t.condition slot w),
    State.reportRead_eq]

end

/-- Bytes may have been placed: counters of corrected errors, buffer and ECC conditions apart, the device is as it was. -/
structure Stored (s t : State) : Prop where
  rest : t = { s with live := t.live, buffer := t.buffer, words := t.words }
  counters : CountersKept s t [.correctedErrors]
  stores : s.StoresWF → t.StoresWF

theorem Stored.refl (s : State) : Stored s s := ⟨rfl, fun _ _ => rfl, id⟩

theorem Stored.frame {s t : State} (h : Stored s t) : SegmentFrame s t := ⟨by rw [h.rest]⟩

section
variable {X : State} {slot : Slot} {piece : Range} {held : List Range}

theorem State.writePiece_stored (hsound : ∀ w ∈ partWords piece held, X.condition slot w ≠ .uncorrectable)
    (bytes : List Byte) (i : StreamIndex) (k : Nat) : Stored X (X.writePiece slot piece held bytes i k) where
  rest := by
    rw [State.writePiece_stages, writeBytes_eq,
      setConditions_eq fun t w => writtenCondition (wordAllNew (newOffsets piece held) w) (t.condition slot w),
      State.reportRead_sound slot _ i k hsound]
    rfl
  counters j hj := by
    have hne : j ≠ .correctedErrors := by simpa using hj
    rw [State.writePiece_stages, writeBytes_eq,
      setConditions_eq fun t w => writtenCondition (wordAllNew (newOffsets piece held) w) (t.condition slot w),
      State.reportRead_sound slot _ i k hsound]
    exact (X.counter_count _ j _).trans (if_neg hne)
  stores := (X.writePiece_evolves slot piece held bytes i k).stores

/-- The words of other slots keep their conditions. -/
theorem State.writePiece_words (hwf : CellsWF .sound X.words) (hlimit : piece.stop ≤ 65536) {v : Nat}
    (hv : v / 8192 ≠ slot.val) (bytes : List Byte) (i : StreamIndex) (k : Nat) :
    cellGet .sound (X.writePiece slot piece held bytes i k).words v = cellGet .sound X.words v := by
  rw [State.writePiece_stages, writeBytes_eq]
  refine (words_setConditions_other (fun t w =>
    writtenCondition (wordAllNew (newOffsets piece held) w) (t.condition slot w)) _ _ ?_ fun w hw e => ?_).trans ?_
  · rw [State.reportRead_eq]; exact hwf
  · obtain ⟨y, hy, rfl⟩ := mem_touchedWords hw
    obtain ⟨-, hstop, -⟩ := mem_newOffsets.mp hy
    refine hv ?_
    rw [e, bufferWord]
    unfold Config.chunkSize Config.wordBytes
    omega
  · rw [State.reportRead_eq]

theorem State.writePiece_byteAt_new (hwf : Memory.wf X.buffer) (hlimit : piece.stop ≤ 65536) {y : Nat}
    (hy : y ∈ newOffsets piece held) (bytes : List Byte) (i : StreamIndex) (k : Nat) :
    (X.writePiece slot piece held bytes i k).byteAt (bufferAddress slot y) = bytes.getD (y - piece.start) 0 := by
  rw [State.writePiece_stages]
  refine byteAt_writeBytes_mem (fun y => bytes.getD (y - piece.start) 0) _ _ ?_ (fun z hz => ?_) hy
  · rw [State.setConditions_buffer slot (fun t w => writtenCondition _ (t.condition slot w)), State.reportRead_buffer]
    exact hwf
  · obtain ⟨-, hstop, -⟩ := mem_newOffsets.mp hz
    omega

theorem State.writePiece_byteAt_other (hwf : Memory.wf X.buffer) (hlimit : piece.stop ≤ 65536) {a : Nat}
    (ha : ∀ y ∈ newOffsets piece held, a ≠ bufferAddress slot y) (bytes : List Byte) (i : StreamIndex) (k : Nat) :
    (X.writePiece slot piece held bytes i k).byteAt a = X.byteAt a := by
  have hbuffer : ((touchedWords piece held).foldl (fun t w => t.setCondition slot w
      (writtenCondition (wordAllNew (newOffsets piece held) w) (t.condition slot w)))
      (X.reportRead slot (partWords piece held) i k)).buffer = X.buffer := by
    rw [State.setConditions_buffer slot (fun t w => writtenCondition _ (t.condition slot w)), State.reportRead_buffer]
  rw [State.writePiece_stages, byteAt_writeBytes_other (fun y => bytes.getD (y - piece.start) 0) _ _
    (by rw [hbuffer]; exact hwf) fun y hy => ⟨?_, ha y hy⟩]
  · rw [State.byteAt, hbuffer]; rfl
  · obtain ⟨-, hstop, -⟩ := mem_newOffsets.mp hy
    omega

end

/-! ## The bytes of a segment (R70) -/

/-- The chunk-local range of stream offsets x to y - 1 of chunk k (R68). -/
def localPiece (k x y : Nat) : Range := ⟨x - 65536 * k, y - 65536 * k⟩

/-- Stream offsets x to y - 1 lie in chunk k. -/
structure InChunk (k x y : Nat) : Prop where
  low : 65536 * k ≤ x
  nonempty : x < y
  high : y ≤ 65536 * (k + 1)

section
variable {X Y Z : State} {c d : Context} {g : Segment} {k x m y : Nat} {r : ChunkRecord} {slot : Slot}

theorem InChunk.piece (h : InChunk k x y) :
    (localPiece k x y).start < (localPiece k x y).stop ∧ (localPiece k x y).stop ≤ 65536 := by
  obtain ⟨hlow, hne, hhigh⟩ := h
  simp only [localPiece]
  omega

/-- New bytes of the offsets x to y - 1 are the new offsets of the piece. -/
theorem Context.freshAddress_eq (hr : c.window[c.posOf k]? = some r) (hslot : r.slot = some slot) {z : Nat}
    (hz : z / 65536 = k) : c.freshAddress z =
      if r.takesBytes && !holds r.ranges (z % 65536) then some (bufferAddress slot (z % 65536)) else none := by
  subst hz
  rw [Context.freshAddress, hr]
  dsimp only
  rw [hslot]

theorem Context.freshAddress_iff (h : InChunk k x y) (hr : c.window[c.posOf k]? = some r) (hslot : r.slot = some slot)
    (htakes : r.takesBytes = true) {z a : Nat} (hx : x ≤ z) (hy : z < y) : c.freshAddress z = some a ↔
      z - 65536 * k ∈ newOffsets (localPiece k x y) r.ranges ∧ a = bufferAddress slot (z - 65536 * k) := by
  obtain ⟨hlow, -, hhigh⟩ := h
  have hmod : z % 65536 = z - 65536 * k := by omega
  rw [Context.freshAddress_eq hr hslot (show z / 65536 = k by omega), hmod, htakes, Bool.true_and, mem_newOffsets]
  have hin : (localPiece k x y).start ≤ z - 65536 * k ∧ z - 65536 * k < (localPiece k x y).stop := by
    simp only [localPiece]
    omega
  cases hh : holds r.ranges (z - 65536 * k) <;> simp [hin, eq_comm]

/-- No byte of a record in QUEUED or later is new. -/
theorem Context.freshAddress_duplicate (h : InChunk k x y) (hr : c.window[c.posOf k]? = some r)
    (htakes : r.takesBytes = false) {z : Nat} (hx : x ≤ z) (hy : z < y) : c.freshAddress z = none := by
  obtain ⟨hlow, -, hhigh⟩ := h
  have hz : z / 65536 = k := by omega
  rw [Context.freshAddress, hz, hr]
  dsimp only
  split
  · rw [htakes]; rfl
  · rfl

/-- The bytes of a piece written. -/
theorem bytesPlaced_writePiece (hwf : Memory.wf X.buffer) (h : InChunk k x y) (hr : c.window[c.posOf k]? = some r)
    (hslot : r.slot = some slot) (htakes : r.takesBytes = true) (ho : g.offset ≤ x) (i : StreamIndex) (n : Nat) :
    BytesPlaced X (X.writePiece slot (localPiece k x y) r.ranges (g.payload.drop (x - g.offset)) i n) c g x y := by
  refine ⟨fun z a hx hy hz => ?_, fun a ha => ?_⟩
  · obtain ⟨hnew, rfl⟩ := (Context.freshAddress_iff h hr hslot htakes hx hy).mp hz
    rw [State.writePiece_byteAt_new hwf h.piece.2 hnew, List.getD_eq_getElem?_getD, List.getElem?_drop,
      List.getD_eq_getElem?_getD]
    obtain ⟨hlow, -, -⟩ := h
    have : x - g.offset + (z - 65536 * k - (localPiece k x y).start) = z - g.offset := by
      simp only [localPiece]
      omega
    rw [this]
  · refine State.writePiece_byteAt_other hwf h.piece.2 (fun j hj e => ?_) _ _ _
    obtain ⟨hstart, hstop, -⟩ := mem_newOffsets.mp hj
    obtain ⟨hlow, hne, -⟩ := id h
    simp only [localPiece] at hstart hstop
    have hz : 65536 * k + j - 65536 * k = j := by omega
    refine ha (65536 * k + j) (by omega) (by omega)
      ((Context.freshAddress_iff h hr hslot htakes (by omega) (by omega)).mpr ?_)
    rw [hz]
    exact ⟨hj, e⟩

/-- The words that the piece writes in part are among those without an uncorrectable error. -/
theorem WordsSound.partWords (hsound : WordsSound X c x y) (h : InChunk k x y) (hr : c.window[c.posOf k]? = some r)
    (hslot : r.slot = some slot) (htakes : r.takesBytes = true) :
    ∀ w ∈ partWords (localPiece k x y) r.ranges, X.condition slot w ≠ .uncorrectable := by
  intro w hw
  obtain ⟨j, hj, rfl⟩ := mem_touchedWords (List.mem_of_mem_filter hw)
  obtain ⟨hstart, hstop, -⟩ := mem_newOffsets.mp hj
  obtain ⟨hlow, hne, -⟩ := id h
  simp only [localPiece] at hstart hstop
  have hz : 65536 * k + j - 65536 * k = j := by omega
  have := hsound (65536 * k + j) (bufferAddress slot j) (by omega) (by omega)
    ((Context.freshAddress_iff h hr hslot htakes (by omega) (by omega)).mpr (by rw [hz]; exact ⟨hj, rfl⟩))
  rwa [bufferAddress_word] at this

/-- Which bytes are new is told by the records of the offsets' chunks. -/
theorem Context.freshAddress_congr (hw : d.w = c.w) {z : Nat}
    (h : d.window[c.posOf (z / 65536)]? = c.window[c.posOf (z / 65536)]?) : d.freshAddress z = c.freshAddress z := by
  have hpos : d.posOf (z / 65536) = c.posOf (z / 65536) := by rw [Context.posOf, hw]; rfl
  rw [Context.freshAddress, hpos, h]
  rfl

theorem BytesPlaced.congr (h : BytesPlaced X Y c g x y)
    (hcd : ∀ z, x ≤ z → z < y → d.freshAddress z = c.freshAddress z) : BytesPlaced X Y d g x y :=
  ⟨fun z a hx hy hz => h.1 z a hx hy (by rw [← hcd z hx hy]; exact hz),
    fun a ha => h.2 a fun z hx hy => by rw [← hcd z hx hy]; exact ha z hx hy⟩

/-- The buffers are all that it speaks of. -/
theorem BytesPlaced.of_buffer {X' Y' : State} (h : BytesPlaced X Y c g x y) (hX : X'.buffer = X.buffer)
    (hY : Y'.buffer = Y.buffer) : BytesPlaced X' Y' c g x y := by
  unfold BytesPlaced State.byteAt at *
  rw [hX, hY]
  exact h

/-- Where no byte is new, none has changed. -/
theorem bytesPlaced_none (h : ∀ z, x ≤ z → z < y → c.freshAddress z = none) : BytesPlaced X X c g x y :=
  ⟨fun z a hx hy hz => by rw [h z hx hy] at hz; exact absurd hz (by simp), fun _ _ => rfl⟩

/-- Two stretches one after the other, whose new bytes have different places. -/
theorem BytesPlaced.append (h : BytesPlaced X Y c g x m) (h' : BytesPlaced Y Z c g m y) (hx : x ≤ m) (hy : m ≤ y)
    (hdisjoint : ∀ z z' a, x ≤ z → z < m → m ≤ z' → z' < y → c.freshAddress z = some a → c.freshAddress z' ≠ some a) :
    BytesPlaced X Z c g x y := by
  refine ⟨fun z a hxz hzy hz => ?_, fun a ha => ?_⟩
  · by_cases hzm : z < m
    · rw [h'.2 a fun z' hm hz' => hdisjoint z z' a hxz hzm hm hz' hz, h.1 z a hxz hzm hz]
    · exact h'.1 z a (not_lt.mp hzm) hzy hz
  · rw [h'.2 a fun z hm hz => ha z (hx.trans hm) hz, h.2 a fun z hxz hz => ha z hxz (hz.trans_le hy)]

theorem WordsSound.mono {x' y' : Nat} (h : WordsSound X c x y) (hx : x ≤ x') (hy : y' ≤ y) : WordsSound X c x' y' :=
  fun z a hxz hzy => h z a (hx.trans hxz) (hzy.trans_le hy)

theorem WordsSound.congr (h : WordsSound X c x y) (hcd : ∀ z, x ≤ z → z < y → d.freshAddress z = c.freshAddress z) :
    WordsSound X d x y :=
  fun z a hx hy hz => h z a hx hy (by rw [← hcd z hx hy]; exact hz)

end

end Sys2Proof.Machine
end

section
/-! # One piece of a segment: its slot, its merge, what is dropped (R68 to R73) -/

namespace Sys2Proof.Machine

/-! ## The request for a slot (R69, R83) -/

/-- A request is granted the head of the free list, as `ChunkRecord.slotFor` has it. -/
theorem Pool.request_eq (p : Pool) (i : StreamIndex) (pos : Nat) (head : Bool) : p.request i pos head =
    (if head = true ∨ p.reserve < p.freeList.length then p.freeList.head? else none).map fun slot =>
      (slot, { p with freeList := p.freeList.tail, uses := cellPut .free p.uses slot (.assigned i pos)
                      reserve := if head then p.reserve - 1 else p.reserve }) := by
  have hspare : 1 ≤ p.spare ↔ p.reserve < p.freeList.length := by unfold Pool.spare Pool.free; omega
  unfold Pool.request Pool.assign
  simp only [hspare]
  cases hl : p.freeList with
  | nil => cases head <;> simp
  | cons slot rest => cases head <;> simp

theorem ChunkRecord.slotFor_of_held {r : ChunkRecord} {slot : Slot} (h : r.slot = some slot) (head : Bool)
    (free : List Slot) (reserve : Nat) : r.slotFor head free reserve = some slot := by
  rw [ChunkRecord.slotFor, h]
  rfl

theorem ChunkRecord.slotFor_of_none {r : ChunkRecord} (h : r.slot = none) (head : Bool) (free : List Slot)
    (reserve : Nat) : r.slotFor head free reserve = if head = true ∨ reserve < free.length then free.head? else none := by
  rw [ChunkRecord.slotFor, h]
  rfl

/-- The device after a grant: the pool without the head of its free list. -/
def State.granted (X : State) (i : StreamIndex) (pos : Nat) (head : Bool) (slot : Slot) : State :=
  { X with pool := { X.pool with
    freeList := X.pool.freeList.tail, uses := cellPut .free X.pool.uses slot (.assigned i pos)
    reserve := if head then X.pool.reserve - 1 else X.pool.reserve } }

/-- The device after a piece whose record gets `slot`, which a record that holds one has not asked for. -/
def State.granting (X : State) (i : StreamIndex) (pos : Nat) (r : ChunkRecord) (head : Bool) (slot : Slot) : State :=
  if r.slot.isSome then X else X.granted i pos head slot

theorem State.granting_eq (X : State) (i : StreamIndex) (pos : Nat) (r : ChunkRecord) (head : Bool) (slot : Slot) :
    X.granting i pos r head slot = { X with pool := (X.granting i pos r head slot).pool } := by
  unfold State.granting
  split_ifs <;> rfl

theorem State.granting_held {X : State} {i : StreamIndex} {pos : Nat} {r : ChunkRecord} {head : Bool} {slot : Slot}
    (h : r.slot.isSome = true) : X.granting i pos r head slot = X := if_pos h

theorem State.granting_none {X : State} {i : StreamIndex} {pos : Nat} {r : ChunkRecord} {head : Bool} {slot : Slot}
    (h : r.slot = none) : X.granting i pos r head slot = X.granted i pos head slot := if_neg (by rw [h]; simp)

theorem State.granting_stores {X : State} {i : StreamIndex} {pos : Nat} {r : ChunkRecord} {head : Bool} {slot : Slot}
    (h : X.StoresWF) : (X.granting i pos r head slot).StoresWF := by
  obtain ⟨hbuffer, hwords, huses, hmarks⟩ := h
  by_cases hheld : r.slot.isSome = true
  · rw [State.granting_held hheld]
    exact ⟨hbuffer, hwords, huses, hmarks⟩
  · rw [State.granting, if_neg hheld]
    exact ⟨hbuffer, hwords, cellPut_wf huses _ _, hmarks⟩

/-! ## The stream after a piece (R70, R72) -/

/-- The byte counts after a piece of `len` bytes of which the record holds `held`: a record that takes no bytes repeats
them all. -/
def StreamCounters.absorb (n : StreamCounters) (takes : Bool) (len held : Nat) : StreamCounters :=
  if takes then { n with acceptedBytes := satAdd64 n.acceptedBytes (len - held)
                         duplicateBytes := satAdd64 n.duplicateBytes held }
  else { n with duplicateBytes := satAdd64 n.duplicateBytes len }

/-- The record after a piece that is not dropped. -/
def ChunkRecord.absorb (r : ChunkRecord) (slot : Slot) (piece : Range) (len : Nat) : ChunkRecord :=
  if r.takesBytes then { r with
    slot := some slot, ranges := insertRange piece r.ranges
    state := if insertRange piece r.ranges = [⟨0, len⟩] then .queued else .filling }
  else r

/-- The stream after a piece that is not dropped, for the record `r` of chunk `k`. -/
def Context.absorb (c : Context) (k : Nat) (r : ChunkRecord) (slot : Slot) (piece : Range) : Context :=
  { c with window := c.window.set (c.posOf k) (r.absorb slot piece (chunkLength c.final k))
           counts := c.counts.absorb r.takesBytes (piece.stop - piece.start) (heldOf piece r.ranges) }

/-- The piece completes its chunk (R73). -/
def ChunkRecord.completes (r : ChunkRecord) (piece : Range) (len : Nat) : Bool :=
  r.takesBytes && decide (insertRange piece r.ranges = [⟨0, len⟩])

section
variable {X : State} {i : StreamIndex} {c : Context} {pos k x y : Nat} {r : ChunkRecord} {slot : Slot} {piece : Range}
  {bytes : List Byte} {len : Nat} {reason : DropReason}

theorem ChunkRecord.takesBytes_iff : r.takesBytes = true ↔ r.state = .empty ∨ r.state = .filling := decide_eq_true_iff

/-! ## The merge -/

theorem State.mergePiece_merges (hr : c.window[pos]? = some r) (htakes : r.takesBytes = true)
    (hfits : (insertRange piece r.ranges).length ≤ 8) :
    (X.setCtx i c).mergePiece i pos r slot piece bytes len =
      (((X.writePiece slot piece r.ranges bytes i r.index).enqueue
        (if insertRange piece r.ranges = [⟨0, len⟩] then [⟨i, pos⟩] else [])).setCtx i { c with
          window := c.window.set pos { r with
            ranges := insertRange piece r.ranges
            state := if insertRange piece r.ranges = [⟨0, len⟩] then .queued else .filling }
          counts := c.counts.absorb true (piece.stop - piece.start) (heldOf piece r.ranges) }, none) := by
  unfold State.mergePiece
  rw [if_pos (ChunkRecord.takesBytes_iff.mp htakes), if_neg (show ¬Config.rangeLimit < _ from not_lt.mpr hfits),
    State.mergeInto]
  rw [State.writePiece_setCtx, State.modifyCtx_setCtx, Context.modifyChunk_of_getElem? hr]
  have hdone : isComplete (insertRange piece r.ranges) len = true ↔ insertRange piece r.ranges = [⟨0, len⟩] :=
    decide_eq_true_iff
  by_cases h : insertRange piece r.ranges = [⟨0, len⟩]
  · simp only [if_pos (hdone.mpr h), if_pos h]
    rfl
  · simp only [if_neg (mt hdone.mp h), if_neg h, State.enqueue, List.append_nil]
    rfl

theorem State.mergePiece_repeats (htakes : r.takesBytes = false) :
    (X.setCtx i c).mergePiece i pos r slot piece bytes len =
      (X.setCtx i { c with counts := c.counts.absorb false (piece.stop - piece.start) (heldOf piece r.ranges) }, none) := by
  have hnot : ¬(r.state = .empty ∨ r.state = .filling) := by
    rw [← ChunkRecord.takesBytes_iff, htakes]
    simp
  rw [State.mergePiece, if_neg hnot, State.modifyCtx_setCtx]
  rfl

theorem State.mergePiece_refuses (htakes : r.takesBytes = true) (hmany : 8 < (insertRange piece r.ranges).length) :
    (X.setCtx i c).mergePiece i pos r slot piece bytes len = (X.setCtx i c, some .fragmentLimit) := by
  rw [State.mergePiece, if_pos (ChunkRecord.takesBytes_iff.mp htakes)]
  exact if_pos hmany

/-! ## The piece -/

/-- A piece whose record gets a slot comes to the merge with the record holding it. -/
theorem State.placePiece_slotted (hk : x / 65536 = k) (hr : c.window[c.posOf k]? = some r)
    (hslot : r.slotFor (decide (k = c.head)) X.pool.freeList X.pool.reserve = some slot) :
    (X.setCtx i c).placePiece i x y bytes =
      ((X.granting i (c.posOf k) r (decide (k = c.head)) slot).setCtx i
        { c with window := c.window.set (c.posOf k) { r with slot := some slot } }).mergePiece i (c.posOf k)
          { r with slot := some slot } slot (localPiece k x y) bytes (chunkLength c.final k) := by
  subst hk
  unfold State.placePiece
  rw [State.ctx?_setCtx_self]
  dsimp only [Config.chunkSize]
  rw [hr]
  dsimp only
  cases hheld : r.slot with
  | some held =>
    obtain rfl : held = slot := by
      rw [ChunkRecord.slotFor_of_held hheld] at hslot
      exact Option.some.inj hslot
    have hself : ({ r with slot := some held } : ChunkRecord) = r := by rw [← hheld]
    have hwindow : c.window.set (c.posOf (x / 65536)) r = c.window := by
      obtain ⟨hlt, hget⟩ := List.getElem?_eq_some_iff.mp hr
      rw [← hget, List.set_getElem_self]
    rw [State.granting_held (by rw [hheld]; rfl), hself, hwindow]
    rfl
  | none =>
    rw [ChunkRecord.slotFor_of_none hheld] at hslot
    have hrequest := X.pool.request_eq i (c.posOf (x / 65536)) (decide (x / 65536 = c.head))
    rw [hslot] at hrequest
    dsimp only
    rw [State.setCtx_pool, hrequest, State.granting_none hheld]
    refine congrArg (fun t => State.mergePiece t i _ _ slot _ bytes _) ?_
    refine (State.modifyChunk_setCtx (X.granted i (c.posOf (x / 65536)) _ slot) i c _ _).trans ?_
    rw [Context.modifyChunk_of_getElem? hr]

theorem State.placePiece_noSlot (hk : x / 65536 = k) (hr : c.window[c.posOf k]? = some r)
    (hslot : r.slotFor (decide (k = c.head)) X.pool.freeList X.pool.reserve = none) :
    (X.setCtx i c).placePiece i x y bytes = (X.setCtx i c, some .noSlot) := by
  subst hk
  obtain ⟨hheld, hnone⟩ := Option.or_eq_none_iff.mp hslot
  have hrequest := X.pool.request_eq i (c.posOf (x / 65536)) (decide (x / 65536 = c.head))
  rw [hnone] at hrequest
  unfold State.placePiece
  rw [State.ctx?_setCtx_self]
  dsimp only [Config.chunkSize]
  rw [hr]
  dsimp only
  rw [hheld, State.setCtx_pool, hrequest]
  rfl

theorem State.placePiece_fragmentLimit (hk : x / 65536 = k) (hr : c.window[c.posOf k]? = some r)
    (hheld : r.slot.isSome = true) (htakes : r.takesBytes = true)
    (hmany : 8 < (insertRange (localPiece k x y) r.ranges).length) :
    (X.setCtx i c).placePiece i x y bytes = (X.setCtx i c, some .fragmentLimit) := by
  obtain ⟨held, hheld⟩ := Option.isSome_iff_exists.mp hheld
  subst hk
  unfold State.placePiece
  rw [State.ctx?_setCtx_self]
  dsimp only [Config.chunkSize]
  rw [hr]
  dsimp only
  rw [hheld]
  exact State.mergePiece_refuses htakes hmany

/-- The record with its slot stands in the window. -/
theorem Context.window_slotted (hr : c.window[c.posOf k]? = some r) (slot : Slot) :
    (c.window.set (c.posOf k) { r with slot := some slot })[c.posOf k]? = some { r with slot := some slot } :=
  List.getElem?_set_self (List.getElem?_eq_some_iff.mp hr).1

theorem State.placePiece_merges (hk : x / 65536 = k) (hr : c.window[c.posOf k]? = some r)
    (hslot : r.slotFor (decide (k = c.head)) X.pool.freeList X.pool.reserve = some slot) (htakes : r.takesBytes = true)
    (hfits : (insertRange (localPiece k x y) r.ranges).length ≤ 8) :
    (X.setCtx i c).placePiece i x y bytes =
      ((((X.granting i (c.posOf k) r (decide (k = c.head)) slot).writePiece slot (localPiece k x y) r.ranges bytes i
          r.index).enqueue
        (if r.completes (localPiece k x y) (chunkLength c.final k) then [⟨i, c.posOf k⟩] else [])).setCtx i
        (c.absorb k r slot (localPiece k x y)), none) := by
  rw [State.placePiece_slotted hk hr hslot]
  refine (State.mergePiece_merges (r := { r with slot := some slot }) (c.window_slotted hr slot) htakes hfits).trans ?_
  have hcompletes : (r.completes (localPiece k x y) (chunkLength c.final k) = true) =
      (insertRange (localPiece k x y) r.ranges = [⟨0, chunkLength c.final k⟩]) := by
    rw [ChunkRecord.completes, htakes, Bool.true_and, decide_eq_true_eq]
  unfold Context.absorb ChunkRecord.absorb
  rw [htakes, if_pos rfl]
  simp only [hcompletes, List.set_set]

theorem State.placePiece_repeats (hk : x / 65536 = k) (hr : c.window[c.posOf k]? = some r) (hheld : r.slot = some slot)
    (htakes : r.takesBytes = false) :
    (X.setCtx i c).placePiece i x y bytes = (X.setCtx i (c.absorb k r slot (localPiece k x y)), none) := by
  have hwindow : c.window.set (c.posOf k) r = c.window := by
    obtain ⟨hlt, hget⟩ := List.getElem?_eq_some_iff.mp hr
    rw [← hget, List.set_getElem_self]
  have hself : ({ r with slot := some slot } : ChunkRecord) = r := by rw [← hheld]
  rw [State.placePiece_slotted hk hr (r.slotFor_of_held hheld _ _ _), State.granting_held (by rw [hheld]; rfl), hself,
    hwindow]
  refine (State.mergePiece_repeats htakes).trans ?_
  unfold Context.absorb ChunkRecord.absorb
  rw [htakes, if_neg Bool.false_ne_true, hwindow]

end

/-! ## What a piece does to the device -/

/-- From `X` to `Y` the new bytes of the stream offsets x to y - 1 were written into their slot, and no more. -/
structure Absorbed (X Y : State) (c : Context) (g : Segment) (slot : Slot) (x y : Nat) : Prop where
  stored : Stored X Y
  bytes : BytesPlaced X Y c g x y
  words : ∀ v, v / 8192 ≠ slot.val → cellGet .sound Y.words v = cellGet .sound X.words v

section
variable {X : State} {i : StreamIndex} {c c' : Context} {g : Segment} {k x y : Nat} {r : ChunkRecord} {slot : Slot}

theorem WordsSound.of_words {Y : State} (h : WordsSound X c x y) (hw : Y.words = X.words) : WordsSound Y c x y := by
  unfold WordsSound
  rw [hw]
  exact h

theorem InChunk.div (h : InChunk k x y) : x / 65536 = k := by
  obtain ⟨hlow, hne, hhigh⟩ := h
  omega

/-- A piece that is not dropped, `c'` being the stream with the record's slot granted: its new bytes are written and its
record follows. -/
theorem State.placePiece_absorbs (h : InChunk k x y) (ho : g.offset ≤ x) (hr : c.window[c.posOf k]? = some r)
    (hslot : r.slotFor (decide (k = c.head)) X.pool.freeList X.pool.reserve = some slot)
    (hfits : r.takesBytes = true → (insertRange (localPiece k x y) r.ranges).length ≤ 8)
    (hheld : r.takesBytes = false → r.slot = some slot) (hw : c'.w = c.w)
    (hr' : c'.window[c.posOf k]? = some { r with slot := some slot }) (hX : X.StoresWF) (hsound : WordsSound X c' x y) :
    ∃ Y, (X.setCtx i c).placePiece i x y (g.payload.drop (x - g.offset)) =
        ((Y.enqueue (if r.completes (localPiece k x y) (chunkLength c.final k) then [⟨i, c.posOf k⟩] else [])).setCtx i
          (c.absorb k r slot (localPiece k x y)), none) ∧
      Absorbed (X.granting i (c.posOf k) r (decide (k = c.head)) slot) Y c' g slot x y := by
  have hpos : c'.posOf k = c.posOf k := by rw [Context.posOf, hw]; rfl
  rw [← hpos] at hr'
  cases htakes : r.takesBytes with
  | true =>
    have hwords : WordsSound (X.granting i (c.posOf k) r (decide (k = c.head)) slot) c' x y :=
      hsound.of_words (by rw [State.granting_eq])
    have hparts := hwords.partWords h hr' rfl htakes
    have hstores :=
      State.granting_stores (i := i) (pos := c.posOf k) (r := r) (head := decide (k = c.head)) (slot := slot) hX
    exact ⟨_, State.placePiece_merges h.div hr hslot htakes (hfits htakes), State.writePiece_stored hparts _ _ _,
      bytesPlaced_writePiece hstores.1 h hr' rfl htakes ho i r.index,
      fun v hv => State.writePiece_words hstores.2.1 h.piece.2 hv _ _ _⟩
  | false =>
    have hheld := hheld htakes
    rw [State.granting_held (by rw [hheld]; rfl), ChunkRecord.completes, htakes, Bool.false_and]
    refine ⟨X, ?_, .refl X,
      bytesPlaced_none fun z hx hy => Context.freshAddress_duplicate h hr' htakes hx hy, fun _ _ => rfl⟩
    rw [State.placePiece_repeats h.div hr hheld htakes, if_neg Bool.false_ne_true, State.enqueue, List.append_nil]

end

end Sys2Proof.Machine
end

section
/-! # The pieces of one segment (R64 to R68, R74 to R76) -/

namespace Sys2Proof.Machine

/-! ## The pieces (R68) -/

section
variable {k x m y : Nat}

theorem piecesOf_one (h : InChunk k x y) : piecesOf x y = [(x, y)] := by
  have hdiv := h.div
  obtain ⟨-, hne, hhigh⟩ := h
  unfold piecesOf Config.chunkSize
  dsimp only
  rw [hdiv, if_neg (not_le.mpr hne), if_pos hhigh]

theorem piecesOf_two (h : InChunk k x (65536 * (k + 1))) (hy : 65536 * (k + 1) < y) :
    piecesOf x y = [(x, 65536 * (k + 1)), (65536 * (k + 1), y)] := by
  have hdiv := h.div
  obtain ⟨-, hne, -⟩ := h
  unfold piecesOf Config.chunkSize
  dsimp only
  rw [hdiv, if_neg (by omega), if_neg (not_le.mpr hy)]

end

section
variable {X Y : State} {i : StreamIndex} {o : Nat} {payload : List Byte} {p : Nat × Nat} {rest : List (Nat × Nat)}
  {reason : DropReason}

theorem State.placePieces_merged (h : X.placePiece i p.1 p.2 (payload.drop (p.1 - o)) = (Y, none)) :
    X.placePieces i o payload (p :: rest) = ⟨(Y.placePieces i o payload rest).state,
      some ((Y.placePieces i o payload rest).merged.getD p.2), (Y.placePieces i o payload rest).lost⟩ := by
  rw [State.placePieces, h]

theorem State.placePieces_lost (h : X.placePiece i p.1 p.2 (payload.drop (p.1 - o)) = (Y, some reason)) :
    X.placePieces i o payload (p :: rest) = ⟨(Y.placePieces i o payload rest).state,
      (Y.placePieces i o payload rest).merged, reason :: (Y.placePieces i o payload rest).lost⟩ := by
  rw [State.placePieces, h]

end

/-! ## Stages 3 to 6 (R64 to R67) -/

/-- The stream before its pieces are placed: `old` bytes lie below the committed offset, a tail from `y` on beyond the
window end. -/
def Context.enters (c : Context) (old : Nat) (tail : Bool) (y : Nat) : Context :=
  { c with counts := { c.counts with oldBytes := satAdd64 c.counts.oldBytes old }
           capacityReached := c.capacityReached || (tail && decide (c.beyondClass y = .beyondCapacity)) }

/-- The device then: the capacity report of the tail. -/
def State.enters (X : State) (i : StreamIndex) (c : Context) (tail : Bool) (y : Nat) : State :=
  X.raiseWhen ((tail && decide (c.beyondClass y = .beyondCapacity)) && !c.capacityReached)
    (.capacityReached i c.tag (65536 * c.cap) y)

section
variable (X : State) (i : StreamIndex) (c : Context) (l : LaneId) (g : Segment)

theorem Context.enters_false (old y : Nat) :
    c.enters old false y = { c with counts := { c.counts with oldBytes := satAdd64 c.counts.oldBytes old } } := by
  rw [Context.enters, Bool.false_and, Bool.or_false]

@[simp] theorem State.enters_false (y : Nat) : X.enters i c false y = X := rfl

theorem State.placeRest_setCtx (hpos : 0 < g.length) (lastAccepted : Bool) :
    (X.setCtx i c).placeRest i l g lastAccepted = (X.setCtx i c).placeBytes i c l g lastAccepted := by
  rw [State.placeRest, State.ctx?_setCtx_self]
  exact if_neg hpos.ne'

/-- The handling of a segment that reaches into the window, from its pieces on. -/
def State.placeWithin (X : State) (i : StreamIndex) (c : Context) (l : LaneId) (g : Segment) (lastAccepted : Bool)
    (x y : Nat) : State :=
  let tail := decide (y < g.offset + g.length)
  let placed := ((X.enters i c tail y).setCtx i (c.enters (x - g.offset) tail y)).placePieces i g.offset g.payload
    (piecesOf x y)
  placed.state.finishSegment i l (lastAccepted || placed.merged.isSome) placed.merged
    (placed.lost ++ if tail then [c.beyondClass y] else [])

theorem State.placeBytes_within (hpos : 0 < g.length) (lastAccepted : Bool)
    (hreach : max g.offset c.committed < min (g.offset + g.length) c.windowEnd) :
    (X.setCtx i c).placeBytes i c l g lastAccepted = X.placeWithin i c l g lastAccepted (max g.offset c.committed)
      (min (g.offset + g.length) c.windowEnd) := by
  unfold State.placeBytes State.placeWithin
  dsimp only
  rw [if_neg (by omega), if_neg (by omega)]
  generalize max g.offset c.committed = x
  generalize min (g.offset + g.length) c.windowEnd = y
  rw [State.addOld, State.modifyCtx_setCtx]
  by_cases htail : y < g.offset + g.length
  · rw [if_pos htail, if_pos htail, State.noteBeyond_setCtx, decide_eq_true htail]
    rfl
  · have hkept : c.enters (x - g.offset) false y =
        c.count fun k => { k with oldBytes := satAdd64 k.oldBytes (x - g.offset) } := by
      rw [Context.enters, Bool.false_and, Bool.or_false]
      rfl
    rw [if_neg htail, if_neg htail, decide_eq_false htail, hkept]
    rfl

/-- A segment whose LAST flag, if set, repeats F. -/
theorem State.placeSegment_within (hpos : 0 < g.length) (hlast : g.last = true → c.final = some (g.offset + g.length))
    (hreach : max g.offset c.committed < min (g.offset + g.length) c.windowEnd) :
    (X.setCtx i c).placeSegment i c l g = X.placeWithin i c l g g.last (max g.offset c.committed)
      (min (g.offset + g.length) c.windowEnd) := by
  rw [State.placeSegment]
  cases hl : g.last with
  | true =>
    rw [if_pos rfl, hlast hl]
    dsimp only
    rw [if_pos rfl, State.placeRest_setCtx _ _ _ _ _ hpos, State.placeBytes_within _ _ _ _ _ hpos _ hreach]
  | false =>
    rw [if_neg Bool.false_ne_true, State.placeRest_setCtx _ _ _ _ _ hpos, State.placeBytes_within _ _ _ _ _ hpos _ hreach]

/-- The pieces merged up to `y`, none dropped. -/
theorem State.placeWithin_accepted {lastAccepted : Bool} {x y : Nat} {Y : State} {d : Context}
    (h : ((X.enters i c (decide (y < g.offset + g.length)) y).setCtx i
      (c.enters (x - g.offset) (decide (y < g.offset + g.length)) y)).placePieces i g.offset g.payload (piecesOf x y) =
      ⟨Y.setCtx i d, some y, []⟩) :
    X.placeWithin i c l g lastAccepted x y = (Y.tellWarning i d (some y)).setCtx i ({ d with
      counts := d.counts.charge (if y < g.offset + g.length then [c.beyondClass y] else []) }.booked Y.time
        (if (Y.lane l).state = LaneState.active then some l else d.replyLane) (some y)) := by
  rw [State.placeWithin, h]
  dsimp only
  rw [Option.isSome_some, Bool.or_true, List.nil_append, State.finishSegment_accepted]
  simp only [decide_eq_true_eq]

end

/-! ## A segment of one piece (R69, R71) -/

section
variable {c : Context} {g : Segment} {r : ChunkRecord}

theorem OnePiece.inChunk (h : OnePiece g c r) : InChunk (g.offset / 65536) g.offset (g.offset + g.length) := by
  obtain ⟨-, hpos, -, -, hchunk, -⟩ := h
  exact ⟨by omega, by omega, by omega⟩

theorem Segment.piece_eq (g : Segment) : g.piece = localPiece (g.offset / 65536) g.offset (g.offset + g.length) := by
  have hstart : g.offset % 65536 = g.offset - 65536 * (g.offset / 65536) := by omega
  have hstop : g.offset % 65536 + g.length = g.offset + g.length - 65536 * (g.offset / 65536) := by omega
  rw [Segment.piece, localPiece, hstop, hstart]

/-- A piece whole inside the window loses nothing at either end. -/
theorem OnePiece.placeSegment (h : OnePiece g c r) (X : State) (i : StreamIndex) (l : LaneId) :
    (X.setCtx i c).placeSegment i c l g = X.placeWithin i c l g false g.offset (g.offset + g.length) := by
  obtain ⟨hlast, hpos, hlow, hhigh, -, -⟩ := h
  have hx : max g.offset c.committed = g.offset := max_eq_left hlow
  have hy : min (g.offset + g.length) c.windowEnd = g.offset + g.length := min_eq_left hhigh
  rw [State.placeSegment_within _ _ _ _ _ hpos (by simp [hlast]) (by rw [hx, hy]; omega), hx, hy, hlast]

end

end Sys2Proof.Machine
end

section
/-! # The pieces that records with a slot take (R56, R70, R72, R73; O17) -/

namespace Sys2Proof.Machine

/-! ## Byte counts -/

/-- The bytes of a piece that count as duplicates: those held, or all of them for a record in QUEUED or later. -/
def ChunkRecord.repeated (r : ChunkRecord) (piece : Range) : Nat :=
  if r.takesBytes then heldOf piece r.ranges else piece.stop - piece.start

/-- The byte counts after a piece for a record. -/
def StreamCounters.after (n : StreamCounters) (r : ChunkRecord) (piece : Range) : StreamCounters :=
  n.absorb r.takesBytes (piece.stop - piece.start) (heldOf piece r.ranges)

theorem satAdd64_satAdd64 (a m n : Nat) : satAdd64 (satAdd64 a m) n = satAdd64 a (m + n) := by
  unfold satAdd64
  omega

section
variable (n : StreamCounters) {a b : ChunkRecord} {p q : Range}

theorem StreamCounters.after_one : n.after a p = { n with
    acceptedBytes := if a.takesBytes then satAdd64 n.acceptedBytes (p.stop - p.start - a.repeated p) else n.acceptedBytes
    duplicateBytes := satAdd64 n.duplicateBytes (a.repeated p) } := by
  unfold StreamCounters.after StreamCounters.absorb ChunkRecord.repeated
  cases a.takesBytes <;> rfl

theorem ChunkRecord.repeated_le (h : RangesWF a.ranges) : a.repeated p ≤ p.stop - p.start := by
  unfold ChunkRecord.repeated
  split_ifs
  · exact heldOf_le h
  · exact le_rfl

/-- Without new bytes a record takes none. -/
theorem ChunkRecord.repeated_of_not (h : a.takesBytes = false) : a.repeated p = p.stop - p.start := by
  rw [ChunkRecord.repeated, h]
  rfl

theorem StreamCounters.after_two (hp : RangesWF a.ranges) (hq : RangesWF b.ranges) : (n.after a p).after b q = { n with
    acceptedBytes := if a.takesBytes || b.takesBytes then
      satAdd64 n.acceptedBytes (p.stop - p.start + (q.stop - q.start) - (a.repeated p + b.repeated q)) else n.acceptedBytes
    duplicateBytes := satAdd64 n.duplicateBytes (a.repeated p + b.repeated q) } := by
  have ha := ChunkRecord.repeated_le (p := p) hp
  have hb := ChunkRecord.repeated_le (p := q) hq
  have hsum : p.stop - p.start + (q.stop - q.start) - (a.repeated p + b.repeated q) =
      (p.stop - p.start - a.repeated p) + (q.stop - q.start - b.repeated q) := by omega
  rw [hsum, StreamCounters.after_one, StreamCounters.after_one]
  dsimp only
  rw [satAdd64_satAdd64]
  congr 1
  cases hta : a.takesBytes with
  | true =>
    cases htb : b.takesBytes with
    | true => exact satAdd64_satAdd64 _ _ _
    | false => rw [ChunkRecord.repeated_of_not htb, Nat.sub_self, Nat.add_zero]; rfl
  | false => rw [ChunkRecord.repeated_of_not hta, Nat.sub_self, Nat.zero_add]; rfl

end

/-! ## One piece after the other -/

/-- From `X` and `c` to `Z` and `d` the stream offsets x to y - 1 of a segment were taken by the records `R k` of the
chunks `ks`, each of which got the piece `P k`. -/
structure Fills (X Z : State) (i : StreamIndex) (c d : Context) (g : Segment) (R : Nat → ChunkRecord) (P : Nat → Range)
    (x y : Nat) (ks : List Nat) : Prop where
  device : Z = { X with
    live := Z.live, buffer := Z.buffer, words := Z.words
    verifyQueue := X.verifyQueue ++
      (ks.filter fun k => (R k).completes (P k) (chunkLength c.final k)).map fun k => ⟨i, c.posOf k⟩ }
  counters : CountersKept X Z [.correctedErrors]
  stores : X.StoresWF → Z.StoresWF
  bytes : BytesPlaced X Z c g x y
  context : d = { c with window := d.window, counts := ks.foldl (fun n k => n.after (R k) (P k)) c.counts }
  records : ∀ k ∈ ks, d.window[c.posOf k]? = some (if (R k).takesBytes then { R k with
    ranges := insertRange (P k) (R k).ranges
    state := if (R k).completes (P k) (chunkLength c.final k) then .queued else .filling } else R k)
  others : ∀ p, (∀ k ∈ ks, p ≠ c.posOf k) → d.window[p]? = c.window[p]?

section
variable {X Y Z : State} {i : StreamIndex} {c d e : Context} {g : Segment} {R : Nat → ChunkRecord} {P : Nat → Range}
  {k x m y : Nat} {ks : List Nat} {slot : Slot}

/-- The record of a chunk, with the slot it holds. -/
structure Ready (c : Context) (R : Nat → ChunkRecord) (P : Nat → Range) (k : Nat) (slot : Slot) : Prop where
  record : c.window[c.posOf k]? = some (R k)
  held : (R k).slot = some slot
  fits : (R k).takesBytes = true → (insertRange (P k) (R k).ranges).length ≤ 8

theorem Fills.one (h : InChunk k x y) (ho : g.offset ≤ x) (hready : Ready c R P k slot) (hP : P k = localPiece k x y)
    (hX : X.StoresWF) (hsound : WordsSound X c x y) :
    ∃ Y d, (X.setCtx i c).placePiece i x y (g.payload.drop (x - g.offset)) = (Y.setCtx i d, none) ∧
      Fills X Y i c d g R P x y [k] ∧
      ∀ v, v / 8192 ≠ slot.val → cellGet .sound Y.words v = cellGet .sound X.words v := by
  obtain ⟨hr, hheld, hfits⟩ := hready
  have hself : ({ R k with slot := some slot } : ChunkRecord) = R k := by rw [← hheld]
  rw [hP] at hfits
  obtain ⟨Y, hplaced, habsorbed⟩ := State.placePiece_absorbs (X := X) (i := i) (c' := c) h ho hr
    ((R k).slotFor_of_held hheld _ _ _) hfits (fun _ => hheld) rfl (hself ▸ hr) hX hsound
  rw [State.granting_held (by rw [hheld]; rfl)] at habsorbed
  obtain ⟨hstored, hbytes, hwords⟩ := habsorbed
  refine ⟨_, _, hplaced, ⟨?_, hstored.counters, hstored.stores, hbytes.of_buffer rfl rfl, ?_, fun j hj => ?_,
    fun p hp => ?_⟩, hwords⟩
  · rw [List.filter_cons, List.filter_nil, hP, hstored.rest]
    split_ifs <;> rfl
  · rw [List.foldl_cons, List.foldl_nil, hP]
    rfl
  · obtain rfl := List.mem_singleton.mp hj
    refine (List.getElem?_set_self (List.getElem?_eq_some_iff.mp hr).1).trans (congrArg some ?_)
    rw [hP]
    unfold ChunkRecord.absorb ChunkRecord.completes
    cases htakes : (R j).takesBytes with
    | true => simp [hheld]
    | false => rfl
  · exact List.getElem?_set_ne (hp k (List.mem_singleton_self k)).symm

theorem Context.freshAddress_slot {r : ChunkRecord} {z a : Nat} (ha : c.freshAddress z = some a)
    (hr : c.window[c.posOf (z / 65536)]? = some r) (hslot : r.slot = some slot) : a = bufferAddress slot (z % 65536) := by
  rw [Context.freshAddress_eq hr hslot rfl] at ha
  split_ifs at ha
  exact (Option.some.inj ha).symm

/-- New bytes that go to different slots have different places. -/
theorem Context.freshAddress_disjoint {r r' : ChunkRecord} {slot' : Slot} {z z' a : Nat}
    (hr : c.window[c.posOf (z / 65536)]? = some r) (hslot : r.slot = some slot)
    (hr' : c.window[c.posOf (z' / 65536)]? = some r') (hslot' : r'.slot = some slot') (hne : slot ≠ slot')
    (ha : c.freshAddress z = some a) : c.freshAddress z' ≠ some a := by
  intro ha'
  have heq := (Context.freshAddress_slot ha hr hslot).symm.trans (Context.freshAddress_slot ha' hr' hslot')
  exact hne (bufferAddress_inj (Nat.mod_lt _ (by decide)) (Nat.mod_lt _ (by decide)) heq).1

/-- The pieces of chunk `k` and of other chunks behind it, at other window positions and in other slots. -/
theorem Fills.append (h : Fills X Y i c d g R P x m [k]) (h' : Fills Y Z i d e g R P m y ks) (hx : x ≤ m) (hy : m ≤ y)
    (hbehind : ∀ z, m ≤ z → z < y → z / 65536 ∈ ks) (hpos : ∀ j ∈ ks, c.posOf k ≠ c.posOf j)
    (hdisjoint : ∀ z z' a, x ≤ z → z < m → m ≤ z' → z' < y → c.freshAddress z = some a → c.freshAddress z' ≠ some a) :
    Fills X Z i c e g R P x y (k :: ks) := by
  have hw : d.w = c.w := by rw [h.context]
  have hfinal : d.final = c.final := by rw [h.context]
  have hposOf : ∀ j, d.posOf j = c.posOf j := fun j => by rw [Context.posOf, hw]; rfl
  have hfresh : ∀ z, m ≤ z → z < y → c.freshAddress z = d.freshAddress z := fun z hm hzy =>
    (Context.freshAddress_congr hw (h.others _ fun j hj => by
      rw [List.mem_singleton.mp hj]; exact (hpos _ (hbehind z hm hzy)).symm)).symm
  refine ⟨?_, fun j hj => (h'.counters j hj).trans (h.counters j hj), fun hX => h'.stores (h.stores hX),
    h.bytes.append (h'.bytes.congr hfresh) hx hy hdisjoint, ?_, fun j hj => ?_, fun p hp => ?_⟩
  · have hdevice := h'.device
    rw [h.device, hfinal] at hdevice
    simp only [hposOf] at hdevice
    rw [show k :: ks = [k] ++ ks from rfl, List.filter_append, List.map_append, ← List.append_assoc]
    exact hdevice
  · have hcontext := h'.context
    rw [h.context] at hcontext
    exact hcontext
  · rcases List.mem_cons.mp hj with rfl | hj
    · rw [← h.records j (List.mem_singleton_self j), ← hposOf]
      exact h'.others _ fun q hq => by rw [hposOf, hposOf]; exact hpos q hq
    · rw [← hposOf, ← hfinal]
      exact h'.records j hj
  · obtain ⟨hpk, hpks⟩ := List.forall_mem_cons.mp hp
    rw [h'.others p fun j hj => by rw [hposOf]; exact hpks j hj]
    exact h.others p fun j hj => by rw [List.mem_singleton.mp hj]; exact hpk

end

/-! ## The pieces of a segment -/

/-- The piece of the stream offsets x to y - 1 that lies in chunk k (R68). -/
def clampedPiece (x y k : Nat) : Range := ⟨max x (65536 * k) - 65536 * k, min y (65536 * (k + 1)) - 65536 * k⟩

theorem clampedPiece_eq {k x y x' y' : Nat} (hx : x' = max x (65536 * k))
    (hy : y' = min y (65536 * (k + 1))) : clampedPiece x y k = localPiece k x' y' := by
  rw [clampedPiece, localPiece, ← hx, ← hy]

/-- The chunks of the stream offsets x to y - 1 of a segment (R68). -/
def chunksOf (x y : Nat) : List Nat := (x / 65536) :: (if x / 65536 < (y - 1) / 65536 then [(y - 1) / 65536] else [])

section
variable {X : State} {i : StreamIndex} {c : Context} {g : Segment} {R : Nat → ChunkRecord} {x y : Nat}

/-- Pieces that records with different slots take are all merged. -/
theorem State.placePieces_fills (hx : g.offset ≤ x) (hxy : x < y) (hlen : y ≤ x + 65536)
    (hready : ∀ k ∈ chunksOf x y, ∃ slot, Ready c R (clampedPiece x y) k slot)
    (hslots : ((chunksOf x y).map fun k => (R k).slot).Nodup) (hX : X.StoresWF) (hsound : WordsSound X c x y) :
    ∃ Z d, (X.setCtx i c).placePieces i g.offset g.payload (piecesOf x y) = ⟨Z.setCtx i d, some y, []⟩ ∧
      Fills X Z i c d g R (clampedPiece x y) x y (chunksOf x y) := by
  unfold chunksOf at hready hslots ⊢
  generalize hk : x / 65536 = k at hready hslots ⊢
  by_cases hone : k < (y - 1) / 65536
  · have hnext : (y - 1) / 65536 = k + 1 := by omega
    rw [if_pos hone, hnext] at hready hslots ⊢
    obtain ⟨hreadyLow, hreadyUp⟩ := List.forall_mem_cons.mp hready
    obtain ⟨low, hlow⟩ := hreadyLow
    obtain ⟨up, hup⟩ := hreadyUp (k + 1) (List.mem_singleton_self _)
    have hin : InChunk k x (65536 * (k + 1)) := ⟨by omega, by omega, le_rfl⟩
    have hin' : InChunk (k + 1) (65536 * (k + 1)) y := ⟨le_rfl, by omega, by omega⟩
    have hne : low ≠ up := by
      simp only [List.map_cons, List.map_nil, hlow.held, hup.held] at hslots
      simpa using hslots
    have hpos : c.posOf k ≠ c.posOf (k + 1) := fun e => hne <| by
      have hrecord := hlow.record
      rw [e, hup.record] at hrecord
      have hheld := hlow.held
      rw [← Option.some.inj hrecord, hup.held] at hheld
      exact (Option.some.inj hheld).symm
    obtain ⟨Y, d, hfirst, hfills, hwords⟩ := Fills.one hin hx hlow (clampedPiece_eq (by omega) (by omega)) hX
      (hsound.mono le_rfl (by omega)) (i := i) (g := g)
    have hw : d.w = c.w := by rw [hfills.context]
    have hposOf : ∀ j, d.posOf j = c.posOf j := fun j => by rw [Context.posOf, hw]; rfl
    have hother : d.window[c.posOf (k + 1)]? = c.window[c.posOf (k + 1)]? :=
      hfills.others _ fun j hj => by rw [List.mem_singleton.mp hj]; exact hpos.symm
    have hready' : Ready d R (clampedPiece x y) (k + 1) up := ⟨by rw [hposOf, hother]; exact hup.record, hup.held, hup.fits⟩
    have hrecordAt : ∀ z, 65536 * (k + 1) ≤ z → z < y → c.window[c.posOf (z / 65536)]? = some (R (k + 1)) :=
      fun z hm hz => by rw [show z / 65536 = k + 1 by omega]; exact hup.record
    have hsound' : WordsSound Y d (65536 * (k + 1)) y := by
      intro z a hm hz ha
      have hc : c.freshAddress z = some a := by
        rw [← ha]
        exact (Context.freshAddress_congr hw (by rw [show z / 65536 = k + 1 by omega, hother])).symm
      rw [hwords _ ?_]
      · exact hsound z a (by omega) hz hc
      · rw [Context.freshAddress_slot hc (hrecordAt z hm hz) hup.held, bufferAddress_word, bufferWord]
        unfold Config.chunkSize Config.wordBytes
        have := Fin.val_ne_of_ne hne
        omega
    obtain ⟨Z, e, hsecond, hfills', -⟩ := Fills.one hin' (by omega) hready' (clampedPiece_eq (by omega) (by omega))
      (hfills.stores hX) hsound' (i := i) (g := g)
    refine ⟨Z, e, ?_, hfills.append hfills' (by omega) (by omega) (fun z hm hz => ?_) (fun j hj => ?_)
      fun z z' a hz hzm hm hz' => ?_⟩
    · rw [piecesOf_two hin (by omega), State.placePieces_merged hfirst, State.placePieces_merged hsecond]
      rfl
    · exact List.mem_singleton.mpr (by omega)
    · rw [List.mem_singleton.mp hj]; exact hpos
    · refine Context.freshAddress_disjoint ?_ hlow.held (hrecordAt z' hm hz') hup.held hne
      rw [show z / 65536 = k by omega]
      exact hlow.record
  · rw [if_neg hone] at hready hslots ⊢
    obtain ⟨slot, hslot⟩ := hready k (List.mem_singleton_self k)
    have hin : InChunk k x y := ⟨by omega, hxy, by omega⟩
    obtain ⟨Y, d, hfirst, hfills, -⟩ := Fills.one hin hx hslot (clampedPiece_eq (by omega) (by omega)) hX hsound
      (i := i) (g := g)
    exact ⟨Y, d, by rw [piecesOf_one hin, State.placePieces_merged hfirst]; rfl, hfills⟩

end

end Sys2Proof.Machine
end

section
/-! # A segment inside the window whose records hold their slots (O17) -/

namespace Sys2Proof.Machine

/-! ## The byte counts of all pieces -/

/-- The pieces' bytes are accepted or repeat bytes held; together they are the offsets x to y - 1. -/
theorem StreamCounters.after_chunksOf (n : StreamCounters) {R : Nat → ChunkRecord} {x y : Nat} (hxy : x < y)
    (hlen : y ≤ x + 65536) (hwf : ∀ k ∈ chunksOf x y, RangesWF (R k).ranges) :
    (chunksOf x y).foldl (fun n k => n.after (R k) (clampedPiece x y k)) n = { n with
      acceptedBytes := if ((chunksOf x y).any fun k => (R k).takesBytes) then
        satAdd64 n.acceptedBytes (y - x - ((chunksOf x y).map fun k => (R k).repeated (clampedPiece x y k)).sum)
        else n.acceptedBytes
      duplicateBytes := satAdd64 n.duplicateBytes
        ((chunksOf x y).map fun k => (R k).repeated (clampedPiece x y k)).sum } := by
  unfold chunksOf at hwf ⊢
  by_cases hone : x / 65536 < (y - 1) / 65536
  · rw [if_pos hone] at hwf ⊢
    obtain ⟨hlow, hup⟩ := List.forall_mem_cons.mp hwf
    have hbytes : y - x = (clampedPiece x y (x / 65536)).stop - (clampedPiece x y (x / 65536)).start +
        ((clampedPiece x y ((y - 1) / 65536)).stop - (clampedPiece x y ((y - 1) / 65536)).start) := by
      simp only [clampedPiece]
      omega
    simp only [List.foldl_cons, List.foldl_nil, List.any_cons, List.any_nil, Bool.or_false, List.map_cons, List.map_nil,
      List.sum_cons, List.sum_nil, Nat.add_zero]
    rw [hbytes]
    exact n.after_two hlow (hup _ (List.mem_singleton_self _))
  · rw [if_neg hone]
    have hbytes : y - x = (clampedPiece x y (x / 65536)).stop - (clampedPiece x y (x / 65536)).start := by
      simp only [clampedPiece]
      omega
    simp only [List.foldl_cons, List.foldl_nil, List.any_cons, List.any_nil, Bool.or_false, List.map_cons, List.map_nil,
      List.sum_cons, List.sum_nil, Nat.add_zero]
    rw [hbytes]
    exact n.after_one

/-! ## What is told -/

theorem State.raiseWhen_rest (X : State) (told : Bool) (e : Event) : X.raiseWhen told e = { X with
    live := (X.raiseWhen told e).live, events := (X.raiseWhen told e).events, errors := (X.raiseWhen told e).errors } := by
  cases told
  · rfl
  · exact X.raise_rest e

theorem State.enters_rest (X : State) (i : StreamIndex) (c : Context) (tail : Bool) (y : Nat) :
    X.enters i c tail y = { X with
    live := (X.enters i c tail y).live, events := (X.enters i c tail y).events
    errors := (X.enters i c tail y).errors } := X.raiseWhen_rest _ _

/-- The events of a segment's pieces: the capacity report, then the early warning. -/
theorem State.enters_says {s X : State} (h : SaysAs s X) (i : StreamIndex) (c : Context) (tail : Bool) (y : Nat) :
    SaysAs (s.enters i c tail y) (X.enters i c tail y) := h.raiseWhen _ _

theorem Fills.says {X Z : State} {i : StreamIndex} {c d : Context} {g : Segment} {R : Nat → ChunkRecord} {P : Nat → Range}
    {x y : Nat} {ks : List Nat} (h : Fills X Z i c d g R P x y ks) : SaysAs X Z :=
  ⟨by rw [h.device], by rw [h.device], by rw [h.device], by rw [h.device]⟩

theorem SaysAs.trans {s t u : State} (h : SaysAs s t) (h' : SaysAs t u) : SaysAs s u :=
  ⟨h'.events.trans h.events, h'.errors.trans h.errors, h'.time.trans h.time, h'.settings.trans h.settings⟩

/-- Settles O17. -/
theorem placedBytesAreWritten : Obligations.PlacedBytesAreWritten := by
  intro s l rest g i c h hs hcan hpos hlast x y record chunks piece merged done held tail loss reports warns hxy hsound
    hrecords hslots
  have hstores : s.StoresWF := ((canonicalForm_iff s).mp hcan).2
  obtain ⟨-, ⟨-, hlength, -, -⟩, -, -⟩ := id h
  have hlen : y ≤ x + 65536 := by omega
  have hloss : c.beyondClass y = loss := c.beyondClass_eq y
  have hXrest := (s.taken l rest).enters_rest i c tail y
  have hXframe : SegmentFrame s ((s.taken l rest).enters i c tail y) :=
    (s.taken_frame l rest).trans (State.raiseWhen_frame _ _ _)
  have hXbuffer : ((s.taken l rest).enters i c tail y).buffer = s.buffer := by rw [hXrest]; rfl
  have hXwords : ((s.taken l rest).enters i c tail y).words = s.words := by rw [hXrest]; rfl
  have hXpool : ((s.taken l rest).enters i c tail y).pool = s.pool := by rw [hXrest]; rfl
  have hXtable : ((s.taken l rest).enters i c tail y).table = s.table := by rw [hXrest]; rfl
  have hXlanes : ((s.taken l rest).enters i c tail y).lanes = (s.taken l rest).lanes := by rw [hXrest]
  have hXqueue : ((s.taken l rest).enters i c tail y).verifyQueue = s.verifyQueue := by rw [hXrest]; rfl
  have hready : ∀ k ∈ chunksOf x y, ∃ slot, Ready (c.enters (x - g.offset) tail y) record (clampedPiece x y) k slot := by
    intro k hk
    obtain ⟨hr, hslot, -, hfits⟩ := hrecords k hk
    obtain ⟨r, hr⟩ := Option.isSome_iff_exists.mp hr
    obtain ⟨slot, hslot⟩ := Option.isSome_iff_exists.mp hslot
    have hrecord : record k = r := by simp only [record, hr, Option.getD_some]
    exact ⟨slot, hr.trans (congrArg some hrecord.symm), hslot, hfits⟩
  obtain ⟨Z, d, hplaced, hfills⟩ := State.placePieces_fills (X := (s.taken l rest).enters i c tail y) (i := i) (g := g)
    (le_max_left _ _) hxy hlen hready hslots (by unfold State.StoresWF; rw [hXbuffer, hXwords, hXpool]; exact hstores)
    (WordsSound.of_words (X := s) hsound hXwords)
  have hall := (State.placeSegment_within (s.taken l rest) i c l g hpos hlast hxy).trans
    (State.placeWithin_accepted _ _ _ _ _ hplaced)
  have hcontext := hfills.context
  rw [StreamCounters.after_chunksOf _ hxy hlen fun k hk => (hrecords k hk).2.2.1] at hcontext
  generalize hwindow : d.window = window at hcontext
  subst hcontext
  rw [hloss] at hall
  have hexec := nextSegment_exec_receiving h hs hall rfl
  have hsays : SaysAs ((s.enters i c tail y).tellWarning i c (some y)) (Z.tellWarning i c (some y)) :=
    ((State.enters_says (s.setLane_says l _) i c tail y).trans hfills.says).raiseWhen _ _
  have hdevice := hfills.device
  have hZtime : Z.time = s.time := by rw [hdevice]; exact hXframe.time
  have hZlane : (Z.lane l).state = (s.lane l).state := by
    rw [State.lane, hdevice, hXlanes, ← State.lane, State.taken, State.lane_setLane_self]; rfl
  rw [hZtime, hZlane] at hexec
  generalize hY : Z.tellWarning i _ (some y) = Y at hexec
  have hYframe : SegmentFrame Z Y := hY ▸ State.raiseWhen_frame _ _ _
  have hYpool : Y.pool = s.pool := by rw [← hY, State.tellWarning, State.raiseWhen_pool, hdevice, hXpool]
  have hYbuffer : Y.buffer = Z.buffer := by rw [← hY]; exact State.raiseWhen_buffer _ _ _
  have hYtable : Y.table = s.table := by rw [← hY, State.tellWarning, State.raiseWhen_table, hdevice, hXtable]
  have hYlanes : Y.lanes = (s.taken l rest).lanes := by
    rw [← hY, State.tellWarning, State.raiseWhen_lanes, hdevice, hXlanes]
  have hframe : SegmentFrame s Y := (hXframe.trans ⟨by rw [hdevice]⟩).trans hYframe
  refine ⟨_, _, hexec.trans (congrArg _ (hs.poolTest_quiet (congrArg Pool.state hYpool) (congrArg Pool.spare hYpool)
    hframe.settings)), laneTook_taken hYlanes, otherEntries_setCtx hs.2.1 hYtable i _, holds_setCtx _ i _,
    hfills.bytes.of_buffer hXbuffer.symm hYbuffer, fun k hk => hfills.records k hk, hfills.others, ?_, ?_,
    flagsTested_flagsTested rfl rfl, fun k hk => ?_, ?_, ?_⟩
  · refine (by rw [← hY]; exact State.raiseWhen_verifyQueue _ _ _ : Y.verifyQueue = Z.verifyQueue).trans ?_
    rw [hdevice, hXqueue]
    rfl
  · have hreaches : decide (c.beyondClass y = .beyondCapacity) = decide (loss = .beyondCapacity) := by rw [hloss]
    intro counts
    have hcharged : (if tail then counts.drop loss else counts) =
        counts.charge (if y < g.offset + g.length then [loss] else []) := by
      simp only [tail, decide_eq_true_eq]
      split_ifs <;> rfl
    rw [hcharged]
    simp only [Context.booked, Context.enters, hreaches]
    rfl
  · simp only [List.mem_cons, List.not_mem_nil, or_false, not_or] at hk
    have hY : Y.counter k = Z.counter k := by rw [← hY]; exact State.counter_raiseWhen _ _ _ hk.2
    refine ((State.counter_setCtx _ _ _ _).trans hY).trans ((hfills.counters k (by simpa using hk.1)).trans ?_)
    exact State.counter_raiseWhen _ _ _ hk.2
  · have hsaysY : SaysAs ((s.enters i c tail y).tellWarning i c (some y)) Y := by rw [← hY]; exact hsays
    rw [State.enters, hloss] at hsaysY
    exact ⟨hsaysY.events, hsaysY.errors⟩
  · exact (hframe.trans (State.setCtx_frame _ _ _)).rest.trans (by rw [State.setCtx_pool, hYpool])

end Sys2Proof.Machine
end

section
/-! # A LAST flag that fixes the final end: the records of the ring under the new F (R52, R61) -/

namespace Sys2Proof.Machine

/-! ## The records of the ring by chunk (R52) -/

section
variable {c : Context} {x : Nat × ChunkRecord} {k : Nat} {r : ChunkRecord}

theorem Context.RingWF.of_mem (h : c.RingWF) (hx : x ∈ c.ring) :
    c.head ≤ x.2.index ∧ x.2.index < c.head + c.w ∧ x.1 = c.posOf x.2.index := by
  obtain ⟨j, hj, hpos, hr⟩ := c.mem_ring.mp hx
  obtain ⟨q, hq, hindex⟩ := h j hj
  rw [hpos, hq] at hr
  rw [← Option.some.inj hr, hindex, ← hpos]
  exact ⟨by omega, by omega, rfl⟩

theorem Context.RingWF.mem (h : c.RingWF) (hlow : c.head ≤ k) (hhigh : k < c.head + c.w)
    (hr : c.window[c.posOf k]? = some r) : (c.posOf k, r) ∈ c.ring ∧ r.index = k := by
  obtain ⟨q, hq, hindex⟩ := h (k - c.head) (by omega)
  rw [show c.head + (k - c.head) = k by omega] at hq hindex
  obtain rfl := Option.some.inj (hq.symm.trans hr)
  exact ⟨c.mem_ring.mpr ⟨k - c.head, by omega, by rw [show c.head + (k - c.head) = k by omega], hr⟩, hindex⟩

theorem Context.RingWF.record (h : c.RingWF) (hlow : c.head ≤ k) (hhigh : k < c.head + c.w) :
    ∃ r, c.window[c.posOf k]? = some r := by
  obtain ⟨r, hr, -⟩ := h (k - c.head) (by omega)
  exact ⟨r, by rw [← hr]; congr 2; omega⟩

/-- The ring holds one record of a chunk. -/
theorem Context.RingWF.filter_index (h : c.RingWF) (hx : x ∈ c.ring) (p : ChunkRecord → Bool) :
    c.ring.filter (fun y => decide (y.2.index = x.2.index) && p y.2) = if p x.2 then [x] else [] := by
  have hunique : ∀ y ∈ c.ring, y.2.index = x.2.index → y = x := fun y hy hyx =>
    c.ring_unique hy hx (by rw [(h.of_mem hy).2.2, (h.of_mem hx).2.2, hyx])
  cases hp : p x.2 with
  | true =>
    rw [if_pos rfl]
    refine List.perm_singleton.mp ((List.perm_ext_iff_of_nodup (c.ring_filter_nodup _).of_map
      (List.nodup_singleton x)).mpr fun y => ?_)
    rw [List.mem_filter, List.mem_singleton, Bool.and_eq_true, decide_eq_true_eq]
    exact ⟨fun hy => hunique y hy.1 hy.2.1, fun e => by subst e; exact ⟨hx, rfl, hp⟩⟩
  | false =>
    refine List.filter_eq_nil_iff.mpr fun y hy => ?_
    rw [Bool.and_eq_true, decide_eq_true_eq, not_and]
    intro hyx
    rw [hunique y hy hyx, hp]
    exact Bool.false_ne_true

end

/-! ## The stream after a new F (R61) -/

section
variable {c : Context} {f k : Nat} {x : Nat × ChunkRecord}

theorem chunkLength_final (hf : 0 < f) : chunkLength (some f) ((f - 1) / 65536) = f - 65536 * ((f - 1) / 65536) :=
  if_pos ⟨hf, rfl⟩

/-- The stream with the new F, its chunks wholly beyond F emptied of their slots and GAP items. -/
def Context.ended (c : Context) (f : Nat) : Context := (c.fixes f).cleared ((c.beyondFinal f).map Prod.fst)

theorem Context.ended_eq (c : Context) (f : Nat) : c.ended f = { c with
    final := some f
    notices := { c.notices with gaps := (c.ended f).notices.gaps }
    window := (c.ended f).window } := by
  unfold Context.ended Context.fixes
  split_ifs <;> rfl

theorem Context.fixes_getElem? (c : Context) (f p : Nat) : (c.fixes f).window[p]? = (c.window[p]?).map fun r =>
    if c.finalFull f = true ∧ p = c.posOf (finalIndex f) then { r with state := .queued } else r := by
  unfold Context.fixes
  by_cases h : c.finalFull f = true
  · rw [if_pos h]
    refine (List.getElem?_modify _ _ _ _).trans ?_
    simp only [h, true_and, eq_comm (a := p)]
    rfl
  · rw [if_neg h]
    simp [h]

/-- The final chunk is full when its record, FILLING, holds exactly [0, len_k). -/
theorem Context.RingWF.finalFull_iff (h : c.RingWF) (hf : 0 < f) (hx : x ∈ c.ring) (hk : x.2.index = (f - 1) / 65536) :
    c.finalFull f = true ↔ x.2.state = .filling ∧ x.2.ranges = [⟨0, f - 65536 * ((f - 1) / 65536)⟩] := by
  obtain ⟨hlow, hhigh, hpos⟩ := h.of_mem hx
  obtain ⟨-, -, -, hr⟩ := c.mem_ring.mp hx
  rw [hpos] at hr
  rw [hk] at hlow hhigh hr
  have hlen : chunkLength (some f) (finalIndex f) = _ := chunkLength_final hf
  have hrecord : c.window[c.posOf (finalIndex f)]? = some x.2 := hr
  rw [Context.finalFull, hrecord, hlen, Bool.and_eq_true, decide_eq_true_eq, Option.any_some, Bool.and_eq_true,
    decide_eq_true_eq, isComplete, decide_eq_true_eq]
  exact and_iff_right ⟨hf, hlow, hhigh⟩

/-- No record of the final chunk in the ring: it is not full. -/
theorem Context.RingWF.not_finalFull (h : c.RingWF) (hout : ∀ x ∈ c.ring, x.2.index ≠ (f - 1) / 65536) :
    c.finalFull f = false := by
  refine Bool.eq_false_iff.mpr fun hfull => ?_
  rw [Context.finalFull, Bool.and_eq_true, decide_eq_true_eq] at hfull
  obtain ⟨⟨-, hlow, hhigh⟩, -⟩ := hfull
  obtain ⟨r, hr⟩ := h.record hlow hhigh
  obtain ⟨hmem, hindex⟩ := h.mem hlow hhigh hr
  exact hout _ hmem hindex

/-- The records wholly beyond F, by their chunks' first offsets. -/
theorem Context.mem_beyondFinal : x ∈ c.beyondFinal f ↔ x ∈ c.ring ∧ f ≤ 65536 * x.2.index := by
  rw [Context.beyondFinal, List.mem_filter, decide_eq_true_eq, Config.chunkSize]
  exact and_congr_right fun _ => by omega

/-- The record of a chunk after a new F. -/
def ChunkRecord.ended (r : ChunkRecord) (f : Nat) : ChunkRecord :=
  if f ≤ 65536 * r.index then { r with slot := none }
  else if r.index = (f - 1) / 65536 ∧ r.state = .filling ∧ r.ranges = [⟨0, f - 65536 * ((f - 1) / 65536)⟩]
    then { r with state := .queued } else r

theorem Context.RingWF.ended_getElem? (h : c.RingWF) (hf : 0 < f) (hx : x ∈ c.ring) :
    (c.ended f).window[x.1]? = some (x.2.ended f) := by
  obtain ⟨hlow, hhigh, hpos⟩ := h.of_mem hx
  obtain ⟨-, -, -, hr⟩ := c.mem_ring.mp hx
  have hbeyond : x.1 ∈ (c.beyondFinal f).map Prod.fst ↔ f ≤ 65536 * x.2.index := by
    rw [List.mem_map]
    constructor
    · rintro ⟨y, hy, hyx⟩
      obtain ⟨hy, hbeyond⟩ := Context.mem_beyondFinal.mp hy
      rwa [c.ring_unique hy hx hyx] at hbeyond
    · exact fun hbeyond => ⟨x, Context.mem_beyondFinal.mpr ⟨hx, hbeyond⟩, rfl⟩
  have hfull : (c.finalFull f = true ∧ x.1 = c.posOf (finalIndex f)) ↔
      (x.2.index = (f - 1) / 65536 ∧ x.2.state = .filling ∧ x.2.ranges = [⟨0, f - 65536 * ((f - 1) / 65536)⟩]) := by
    constructor
    · rintro ⟨hfull, hxpos⟩
      have hbounds := hfull
      rw [Context.finalFull, Bool.and_eq_true, decide_eq_true_eq] at hbounds
      obtain ⟨⟨-, hlow', hhigh'⟩, -⟩ := hbounds
      have hmem := h.mem hlow' hhigh' (r := x.2) (hxpos ▸ hr)
      exact ⟨hmem.2, (h.finalFull_iff hf hx hmem.2).mp hfull⟩
    · rintro ⟨hk, hheld⟩
      exact ⟨(h.finalFull_iff hf hx hk).mpr hheld, by rw [hpos, hk]; rfl⟩
  rw [Context.ended, Context.cleared_getElem?, Context.fixes_getElem?, hr, Option.map_some, Option.map_some]
  simp only [hbeyond, hfull, ChunkRecord.ended]
  by_cases hgone : f ≤ 65536 * x.2.index
  · have hnot : ¬x.2.index = (f - 1) / 65536 := by omega
    simp [hgone, hnot]
  · simp [hgone]

theorem Context.ended_gaps (c : Context) (f : Nat) : (c.ended f).notices.gaps = c.notices.gaps.filter fun p =>
    !(c.ring.any fun x => decide (x.1 = p ∧ f ≤ 65536 * x.2.index)) := by
  have hgaps : (c.fixes f).notices = c.notices := by unfold Context.fixes; split_ifs <;> rfl
  show (c.fixes f).notices.gaps.filter _ = _
  rw [hgaps]
  refine List.filter_congr fun p _ => ?_
  have hbeyond : p ∈ (c.beyondFinal f).map Prod.fst ↔
      (c.ring.any fun x => decide (x.1 = p ∧ f ≤ 65536 * x.2.index)) = true := by
    simp only [List.mem_map, Context.mem_beyondFinal, List.any_eq_true, decide_eq_true_eq]
    constructor
    · rintro ⟨x, ⟨hx, hbeyond⟩, hp⟩
      exact ⟨x, hx, hp, hbeyond⟩
    · rintro ⟨x, hx, hp, hbeyond⟩
      exact ⟨x, ⟨hx, hbeyond⟩, hp⟩
  rw [Bool.eq_iff_iff, decide_eq_true_iff, hbeyond, Bool.not_eq_true', Bool.not_eq_true]

/-- The names that a new F adds to the verify queue. -/
theorem Context.RingWF.queued_names (h : c.RingWF) (hf : 0 < f) (i : StreamIndex) :
    (if c.finalFull f then [(⟨i, c.posOf (finalIndex f)⟩ : ChunkName)] else []) =
      (c.ring.filter fun x => decide (x.2.index = (f - 1) / 65536) &&
        (decide (x.2.state = .filling) && decide (x.2.ranges = [⟨0, f - 65536 * ((f - 1) / 65536)⟩]))).map
          fun x => ⟨i, x.1⟩ := by
  by_cases hin : ∃ x ∈ c.ring, x.2.index = (f - 1) / 65536
  · obtain ⟨x, hx, hk⟩ := hin
    have hfilter := h.filter_index hx fun r =>
      decide (r.state = .filling) && decide (r.ranges = [⟨0, f - 65536 * ((f - 1) / 65536)⟩])
    rw [hk] at hfilter
    rw [hfilter]
    simp only [h.finalFull_iff hf hx hk, Bool.and_eq_true, decide_eq_true_eq]
    split_ifs
    · rw [List.map_singleton, (h.of_mem hx).2.2, hk]; rfl
    · rfl
  · have hout : ∀ x ∈ c.ring, x.2.index ≠ (f - 1) / 65536 := fun x hx hk => hin ⟨x, hx, hk⟩
    rw [h.not_finalFull hout, List.filter_eq_nil_iff.mpr fun x hx => by simp [hout x hx]]
    rfl

end

end Sys2Proof.Machine
end

section
/-! # A LAST flag that fixes the final end: its stages, the final chunk's record (R59, R61, R63, R65, R70) -/

namespace Sys2Proof.Machine

/-! ## Stage 2 and what follows it (R59, R63) -/

section
variable (X : State) (i : StreamIndex) (c : Context) (l : LaneId) (g : Segment)

/-- A bare LAST that repeats F makes the bookkeeping alone. -/
theorem State.placeSegment_bareRepeat (hlast : g.last = true) (hfinal : c.final = some (g.offset + g.length))
    (hbare : g.length = 0) : (X.setCtx i c).placeSegment i c l g =
      X.setCtx i (c.booked X.time (if (X.lane l).state = .active then some l else c.replyLane) none) := by
  rw [State.placeSegment, if_pos hlast, hfinal]
  dsimp only
  rw [if_pos rfl, State.placeRest, State.ctx?_setCtx_self]
  dsimp only
  rw [if_pos hbare, State.finishSegment_accepted]
  rfl

theorem State.placeSegment_fixes (hlast : g.last = true) (hfinal : c.final = none)
    (haligned : ¬(1 ≤ (g.offset + g.length) % 65536 ∧ (g.offset + g.length) % 65536 ≤ 7))
    (habove : c.committed < g.offset + g.length) (hheld : c.highestHeld ≤ g.offset + g.length)
    (hcap : g.offset + g.length ≤ 65536 * c.cap) : (X.setCtx i c).placeSegment i c l g =
      ((X.afterFinal i c (g.offset + g.length)).setCtx i (c.ended (g.offset + g.length))).placeRest i l g true := by
  have haccepted : c.refusesFinal (g.offset + g.length) = false := by
    unfold Context.refusesFinal Context.capacityEnd Config.chunkSize
    rw [decide_eq_false_iff_not]
    omega
  rw [State.placeSegment, if_pos hlast, hfinal]
  dsimp only
  rw [haccepted, if_neg Bool.false_ne_true, if_neg habove.ne', State.acceptFinal_setCtx, if_neg habove.ne']
  rfl

/-- A segment that ends at F, bare or with its bytes beyond the window. -/
theorem State.placeRest_unplaced (hfinal : c.final = some (g.offset + g.length))
    (habove : c.committed < g.offset + g.length) (hcap : g.offset + g.length ≤ 65536 * c.cap)
    (hout : g.length = 0 ∨ c.committed + 65536 * c.w ≤ g.offset) :
    (X.setCtx i c).placeRest i l g true = X.setCtx i ({ c with
      counts := if g.length = 0 then c.counts else c.counts.drop .beyondWindow }.booked X.time
        (if (X.lane l).state = LaneState.active then some l else c.replyLane) none) := by
  by_cases hbare : g.length = 0
  · rw [if_pos hbare, State.placeRest, State.ctx?_setCtx_self]
    dsimp only
    rw [if_pos hbare, State.finishSegment_accepted]
    rfl
  · have hcls : c.beyondClass g.offset = .beyondWindow := by
      rw [Context.beyondClass_eq, hfinal, Option.any_some, if_neg (by omega), if_neg (by rw [decide_eq_true_eq]; omega)]
    have hend : c.windowEnd ≤ g.offset := by
      unfold Context.windowEnd Config.chunkSize
      rw [hfinal]
      dsimp only
      omega
    have hreaches : c.reaches .beyondWindow = c := by
      unfold Context.reaches
      rw [decide_eq_false (by simp), Bool.or_false]
    rw [if_neg hbare, State.placeRest_setCtx _ _ _ _ _ (by omega), State.placeBytes]
    dsimp only
    rw [if_neg (by omega), if_pos hend, hcls, State.noteBeyond_setCtx, hreaches, State.finishSegment_accepted,
      StreamCounters.charge_singleton]
    rfl

/-- A segment that ends at F whose bytes the final chunk takes. -/
theorem State.placeRest_placed {k : Nat} {r : ChunkRecord} {slot : Slot} (hfinal : c.final = some (g.offset + g.length))
    (hlow : c.committed ≤ g.offset) (hhigh : g.offset + g.length ≤ c.committed + 65536 * c.w)
    (hcap : g.offset + g.length ≤ 65536 * c.cap) (hin : InChunk k g.offset (g.offset + g.length))
    (hready : Ready c (fun _ => r) (fun _ => g.piece) k slot) (hX : X.StoresWF)
    (hsound : WordsSound X c g.offset (g.offset + g.length)) :
    ∃ Z d, (X.setCtx i c).placeRest i l g true = (Z.tellWarning i d (some (g.offset + g.length))).setCtx i
        (d.booked Z.time (if (Z.lane l).state = .active then some l else d.replyLane) (some (g.offset + g.length))) ∧
      Fills X Z i (c.enters 0 false (g.offset + g.length)) d g (fun _ => r) (fun _ => g.piece) g.offset
        (g.offset + g.length) [k] := by
  have hpos : 0 < g.length := by
    have := hin.nonempty
    omega
  have hx : max g.offset c.committed = g.offset := max_eq_left hlow
  have hy : min (g.offset + g.length) c.windowEnd = g.offset + g.length := by
    unfold Context.windowEnd Context.capacityEnd Config.chunkSize
    rw [hfinal]
    dsimp only
    omega
  have htail : decide (g.offset + g.length < g.offset + g.length) = false := decide_eq_false (lt_irrefl _)
  obtain ⟨hr, hheld, hfits⟩ := hready
  obtain ⟨Z, d, hplaced, hfills, -⟩ := Fills.one (X := X) (i := i) (c := c.enters 0 false (g.offset + g.length)) (g := g)
    (R := fun _ => r) (P := fun _ => g.piece) hin le_rfl ⟨hr, hheld, hfits⟩ (by rw [Segment.piece_eq, hin.div]) hX hsound
  refine ⟨Z, d, ?_, hfills⟩
  rw [State.placeRest_setCtx _ _ _ _ _ hpos, State.placeBytes_within _ _ _ _ _ hpos _ (by rw [hx, hy]; omega), hx, hy]
  refine (State.placeWithin_accepted X i c l g (Y := Z) (d := d) ?_).trans ?_
  · rw [htail, Nat.sub_self, piecesOf_one hin, State.placePieces_merged hplaced]
    rfl
  · rw [if_neg (lt_irrefl _), StreamCounters.charge_nil]

end

/-! ## The final chunk's record -/

section
variable {r : ChunkRecord} {f : Nat} {piece : Range}

/-- The ranges of a record after the segment's piece, if it `places` one. -/
def ChunkRecord.lastRanges (r : ChunkRecord) (places : Bool) (piece : Range) : List Range :=
  if places then insertRange piece r.ranges else r.ranges

/-- The final chunk is complete under its length. -/
def ChunkRecord.lastDone (r : ChunkRecord) (f : Nat) (places : Bool) (piece : Range) : Bool :=
  (places || decide (r.state = .filling)) &&
    decide (r.lastRanges places piece = [⟨0, f - 65536 * ((f - 1) / 65536)⟩])

/-- A record of the ring after the segment that fixes F. -/
def ChunkRecord.afterLast (r : ChunkRecord) (f : Nat) (places : Bool) (piece : Range) : ChunkRecord :=
  if f ≤ 65536 * r.index then { r with slot := none }
  else if r.index = (f - 1) / 65536 then { r with
    ranges := r.lastRanges places piece
    state := if r.lastDone f places piece then .queued else if places then .filling else r.state }
  else r

/-- Without a piece, the new F alone moves the records. -/
theorem ChunkRecord.afterLast_unplaced : r.afterLast f false piece = r.ended f := by
  have hdone : r.lastDone f false piece = true ↔ r.state = .filling ∧ r.ranges = [⟨0, f - 65536 * ((f - 1) / 65536)⟩] := by
    rw [ChunkRecord.lastDone, Bool.false_or, Bool.and_eq_true, decide_eq_true_eq, decide_eq_true_eq]
    rfl
  unfold ChunkRecord.afterLast ChunkRecord.ended
  refine if_congr Iff.rfl rfl ?_
  by_cases hk : r.index = (f - 1) / 65536
  · rw [if_pos hk]
    by_cases hfull : r.state = .filling ∧ r.ranges = [⟨0, f - 65536 * ((f - 1) / 65536)⟩]
    · rw [if_pos (hdone.mpr hfull), if_pos ⟨hk, hfull⟩]
      rfl
    · rw [if_neg (mt hdone.mp hfull), if_neg Bool.false_ne_true, if_neg fun h => hfull h.2]
      rfl
  · rw [if_neg hk, if_neg fun h => hk h.1]

/-- A record of another chunk takes no part of the piece. -/
theorem ChunkRecord.afterLast_other (h : r.index ≠ (f - 1) / 65536) (places : Bool) :
    r.afterLast f places piece = r.ended f := by
  unfold ChunkRecord.afterLast ChunkRecord.ended
  simp [h]

theorem insertRange_full {len : Nat} (hne : piece.start ≤ piece.stop) (h : piece.stop ≤ len) :
    insertRange piece [⟨0, len⟩] = [⟨0, len⟩] := by
  unfold insertRange insertRange
  rw [if_neg (Nat.not_lt_zero _), if_neg (by simp only; omega)]
  simp only [Nat.min_zero, max_eq_right h]

theorem heldOf_full {len : Nat} (h : piece.stop ≤ len) : heldOf piece [⟨0, len⟩] = piece.stop - piece.start := by
  simp [heldOf, min_eq_left h]

/-- The final chunk already held in full. -/
def ChunkRecord.heldInFull (r : ChunkRecord) (f : Nat) : Prop :=
  r.state = .filling ∧ r.ranges = [⟨0, f - 65536 * ((f - 1) / 65536)⟩]

theorem ChunkRecord.ended_full (hf : 0 < f) (hk : r.index = (f - 1) / 65536) (h : r.heldInFull f) :
    r.ended f = { r with state := .queued } := by
  rw [ChunkRecord.ended, if_neg (by omega)]
  exact if_pos ⟨hk, h⟩

theorem ChunkRecord.ended_notFull (hf : 0 < f) (hk : r.index = (f - 1) / 65536) (h : ¬r.heldInFull f) : r.ended f = r := by
  rw [ChunkRecord.ended, if_neg (by omega)]
  exact if_neg fun hc => h hc.2

theorem queued_takesBytes : ({ r with state := .queued } : ChunkRecord).takesBytes = false := rfl

theorem ChunkRecord.ended_ranges (r : ChunkRecord) (f : Nat) : (r.ended f).ranges = r.ranges := by
  unfold ChunkRecord.ended
  split_ifs <;> rfl

/-- The final chunk's record takes the segment's piece; held in full, it is QUEUED before, and the piece repeats it. -/
structure TakesLast (r : ChunkRecord) (f : Nat) (piece : Range) : Prop where
  pos : 0 < f
  index : r.index = (f - 1) / 65536
  takes : r.takesBytes = true
  nonempty : piece.start < piece.stop
  inside : piece.stop ≤ f - 65536 * ((f - 1) / 65536)

section
variable (h : TakesLast r f piece)
include h

theorem TakesLast.ranges_full (hfull : r.heldInFull f) : insertRange piece r.ranges = r.ranges := by
  rw [hfull.2]
  exact insertRange_full h.nonempty.le h.inside

theorem TakesLast.done_full (hfull : r.heldInFull f) : r.lastDone f true piece = true := by
  rw [ChunkRecord.lastDone, Bool.true_or, Bool.true_and, decide_eq_true_eq]
  exact (h.ranges_full hfull).trans hfull.2

theorem TakesLast.afterLast_eq : r.afterLast f true piece = if (r.ended f).takesBytes then { r.ended f with
      ranges := insertRange piece (r.ended f).ranges
      state := if (r.ended f).completes piece (f - 65536 * ((f - 1) / 65536)) then .queued else .filling }
    else r.ended f := by
  have hbelow : ¬f ≤ 65536 * r.index := by
    have := h.index
    have := h.pos
    omega
  rw [ChunkRecord.afterLast, if_neg hbelow, if_pos h.index]
  by_cases hfull : r.heldInFull f
  · rw [h.done_full hfull, ChunkRecord.ended_full h.pos h.index hfull, queued_takesBytes, ChunkRecord.lastRanges,
      if_pos rfl, h.ranges_full hfull]
    rfl
  · rw [ChunkRecord.ended_notFull h.pos h.index hfull, if_pos h.takes, ChunkRecord.completes, h.takes]
    rfl

/-- One entry of the verify queue, made by the new F or by the piece. -/
theorem TakesLast.queued {α : Type} (name : α) (full : Bool) (hfull : full = true ↔ r.heldInFull f) :
    (if full then [name] else []) ++
        (if (r.ended f).completes piece (f - 65536 * ((f - 1) / 65536)) then [name] else []) =
      if r.lastDone f true piece then [name] else [] := by
  by_cases hheld : r.heldInFull f
  · rw [h.done_full hheld, ChunkRecord.ended_full h.pos h.index hheld, hfull.mpr hheld]
    rfl
  · rw [ChunkRecord.ended_notFull h.pos h.index hheld, if_neg (mt hfull.mp hheld), ChunkRecord.completes, h.takes]
    rfl

theorem TakesLast.repeated : (r.ended f).repeated piece = heldOf piece r.ranges := by
  obtain ⟨hf, hk, htakes, hne, hin⟩ := h
  by_cases hfull : r.heldInFull f
  · rw [ChunkRecord.ended_full hf hk hfull, hfull.2, heldOf_full hin]
    rfl
  · rw [ChunkRecord.ended_notFull hf hk hfull, ChunkRecord.repeated, if_pos htakes]

/-- A record that no longer takes bytes had them all. -/
theorem TakesLast.accepted (n : Nat) (hn : n ≤ 2 ^ 64 - 1) : (if (r.ended f).takesBytes then
    satAdd64 n (piece.stop - piece.start - heldOf piece r.ranges) else n) =
      satAdd64 n (piece.stop - piece.start - heldOf piece r.ranges) := by
  obtain ⟨hf, hk, htakes, hne, hin⟩ := h
  by_cases hfull : r.heldInFull f
  · rw [ChunkRecord.ended_full hf hk hfull, queued_takesBytes, hfull.2, heldOf_full hin, Nat.sub_self]
    exact (min_eq_left hn).symm
  · rw [ChunkRecord.ended_notFull hf hk hfull, if_pos htakes]

/-- Which bytes are new, the new F does not change. -/
theorem TakesLast.holds_all (hfull : r.heldInFull f) {z : Nat} (hz : z < f) :
    holds r.ranges (z - 65536 * ((f - 1) / 65536)) = true := by
  obtain ⟨hf, hk, htakes, hne, hin⟩ := h
  rw [hfull.2]
  simp only [holds, List.any_cons, List.any_nil, Bool.or_false, decide_eq_true_eq]
  omega

end

end

end Sys2Proof.Machine
end

section
/-! # A LAST flag that fixes the final end: what it leaves (R59 to R63, R70, R74 to R76; O2) -/

namespace Sys2Proof.Machine

/-! ## The outcome -/

/-- What the segment that fixes F leaves, `A` being the device after the new F alone: device `Y` and stream `d`, whose drain
flags are not tested yet. It `places` its bytes, or has none to place. -/
structure TookLast (s A : State) (l : LaneId) (i : StreamIndex) (c : Context) (g : Segment) (places : Bool) (Y : State)
    (d : Context) : Prop where
  device : Y = { A with live := Y.live, buffer := Y.buffer, words := Y.words, verifyQueue := Y.verifyQueue
                        events := Y.events, errors := Y.errors }
  counters : CountersKept A Y [.correctedErrors, .eventsLost]
  tells : SaysAs (s.raiseWhen ((places && decide (c.earlyWarningPoint < g.offset + g.length)) && !c.earlyWarningIssued)
    (.earlyWarning i c.tag c.earlyWarningPoint (g.offset + g.length))) Y
  context : d = { c.ended (g.offset + g.length) with
    counts := d.counts, lastArrival := s.time, idleReported := false
    replyLane := if (s.lane l).state = .active then some l else c.replyLane
    earlyWarningIssued :=
      c.earlyWarningIssued || (places && decide (c.earlyWarningPoint < g.offset + g.length))
    window := d.window }
  records : ∀ x ∈ c.ring, d.window[x.1]? = some (x.2.afterLast (g.offset + g.length) places g.piece)
  queue : Y.verifyQueue = s.verifyQueue ++ ((c.ring.filter fun x =>
    decide (x.2.index = (g.offset + g.length - 1) / 65536) && x.2.lastDone (g.offset + g.length) places g.piece).map
      fun x => ⟨i, x.1⟩)

section
variable {s : State} {l : LaneId} {i : StreamIndex} {c : Context} {g : Segment} {rest : List (List Byte)}

theorem State.afterFinal_says (s : State) (l : LaneId) (rest : List (List Byte)) (i : StreamIndex) (c : Context) (f : Nat) :
    SaysAs s ((s.taken l rest).afterFinal i c f) :=
  ⟨by rw [State.afterFinal_eq]; rfl, by rw [State.afterFinal_eq]; rfl, by rw [State.afterFinal_eq]; rfl,
    by rw [State.afterFinal_eq]; rfl⟩

theorem State.afterFinal_lane (s : State) (l : LaneId) (rest : List (List Byte)) (i : StreamIndex) (c : Context) (f : Nat) :
    (((s.taken l rest).afterFinal i c f).lane l).state = (s.lane l).state := by
  have hlane : ((s.taken l rest).afterFinal i c f).lane l = (s.taken l rest).lane l := by rw [State.afterFinal_eq]; rfl
  rw [hlane, State.taken, State.lane_setLane_self]
  rfl

/-- No bytes, or bytes beyond the window. -/
theorem tookLast_unplaced (hring : c.RingWF) (hf : 0 < g.offset + g.length) (counts : StreamCounters) :
    let A := (s.taken l rest).afterFinal i c (g.offset + g.length)
    TookLast s A l i c g false A ({ c.ended (g.offset + g.length) with counts := counts }.booked A.time
      (if (A.lane l).state = LaneState.active then some l else (c.ended (g.offset + g.length)).replyLane) none) := by
  intro A
  have hsays := s.afterFinal_says l rest i c (g.offset + g.length)
  refine ⟨rfl, fun _ _ => rfl, hsays, ?_, fun x hx => ?_, ?_⟩
  · rw [hsays.time, s.afterFinal_lane, Context.booked, Option.any_none, c.ended_eq]
    rfl
  · rw [ChunkRecord.afterLast_unplaced]
    exact hring.ended_getElem? hf hx
  · rw [State.afterFinal_verifyQueue, hring.queued_names hf i]
    simp only [ChunkRecord.lastDone, ChunkRecord.lastRanges, Bool.false_or]
    rfl

end

/-! ## The final chunk takes the bytes -/

section
variable {s : State} {i : StreamIndex} {c : Context} {g : Segment} {r : ChunkRecord} {slot : Slot} {f : Nat}

theorem Context.ended_posOf (c : Context) (f k : Nat) : (c.ended f).posOf k = c.posOf k := by
  rw [Context.posOf, c.ended_eq]
  rfl

/-- Bytes the final chunk may take, its record being `r`. -/
structure FitsLast (s : State) (c : Context) (g : Segment) (r : ChunkRecord) (slot : Slot) : Prop where
  chunk : InChunk ((g.offset + g.length - 1) / 65536) g.offset (g.offset + g.length)
  low : c.committed ≤ g.offset
  high : g.offset + g.length ≤ c.committed + 65536 * c.w
  sound : WordsSound s c g.offset (g.offset + g.length)
  mem : (c.posOf ((g.offset + g.length - 1) / 65536), r) ∈ c.ring
  record : c.window[c.posOf ((g.offset + g.length - 1) / 65536)]? = some r
  held : r.slot = some slot
  takes : TakesLast r (g.offset + g.length) g.piece
  fits : (insertRange g.piece r.ranges).length ≤ 8

theorem LastPieceFits.fitsLast (h : LastPieceFits s c g) (hring : c.RingWF) : ∃ r slot, FitsLast s c g r slot := by
  obtain ⟨hpos, hlow, hchunk, hhigh, hk, hsound, r, hr, hslot, htakes, hfits⟩ := h
  obtain ⟨slot, hslot⟩ := Option.isSome_iff_exists.mp hslot
  obtain ⟨hmem, hindex⟩ := hring.mem (by unfold Context.head Config.chunkSize; omega) hk hr
  refine ⟨r, slot, ⟨hchunk, by omega, by omega⟩, hlow, hhigh, hsound, hmem, hr, hslot,
    ⟨by omega, hindex, htakes, ?_, ?_⟩, hfits⟩
  · rw [Segment.piece]
    simp only
    omega
  · rw [Segment.piece]
    simp only
    omega

section
variable (h : FitsLast s c g r slot)
include h

theorem FitsLast.ended_record (hring : c.RingWF) :
    (c.ended (g.offset + g.length)).window[(c.ended (g.offset + g.length)).posOf ((g.offset + g.length - 1) / 65536)]? =
      some (r.ended (g.offset + g.length)) := by
  rw [Context.ended_posOf]
  exact hring.ended_getElem? h.takes.pos h.mem

theorem FitsLast.ended_slot : (r.ended (g.offset + g.length)).slot = some slot := by
  by_cases hfull : r.heldInFull (g.offset + g.length)
  · rw [ChunkRecord.ended_full h.takes.pos h.takes.index hfull]
    exact h.held
  · rw [ChunkRecord.ended_notFull h.takes.pos h.takes.index hfull]
    exact h.held

/-- Which bytes are new, the new F does not change. -/
theorem FitsLast.freshAddress (hring : c.RingWF) : ∀ z, g.offset ≤ z → z < g.offset + g.length →
    (c.ended (g.offset + g.length)).freshAddress z = c.freshAddress z := by
  intro z hz hzf
  have hchunk := h.chunk.low
  have hdiv : z / 65536 = (g.offset + g.length - 1) / 65536 := by omega
  have hrecord := h.ended_record hring
  by_cases hfull : r.heldInFull (g.offset + g.length)
  · rw [ChunkRecord.ended_full h.takes.pos h.takes.index hfull] at hrecord
    have hmod : z % 65536 = z - 65536 * ((g.offset + g.length - 1) / 65536) := by omega
    rw [Context.freshAddress_duplicate h.chunk hrecord queued_takesBytes hz hzf,
      Context.freshAddress_eq h.record h.held hdiv, hmod, h.takes.holds_all hfull hzf, Bool.not_true, Bool.and_false]
    rfl
  · rw [ChunkRecord.ended_notFull h.takes.pos h.takes.index hfull] at hrecord
    refine Context.freshAddress_congr (by rw [c.ended_eq]) ?_
    rw [hdiv, h.record, ← hrecord, Context.ended_posOf]

end

theorem TookLast.of_fills {A Z : State} {l : LaneId} {rest : List (List Byte)} {d : Context} (h : FitsLast s c g r slot)
    (hring : c.RingWF) (hA : (s.taken l rest).afterFinal i c (g.offset + g.length) = A)
    (hfills : Fills A Z i ((c.ended (g.offset + g.length)).enters 0 false (g.offset + g.length)) d g
      (fun _ => r.ended (g.offset + g.length)) (fun _ => g.piece) g.offset (g.offset + g.length)
      [(g.offset + g.length - 1) / 65536]) :
    TookLast s A l i c g true (Z.tellWarning i d (some (g.offset + g.length))) (d.booked Z.time
      (if (Z.lane l).state = LaneState.active then some l else d.replyLane) (some (g.offset + g.length))) := by
  have hframe := State.raiseWhen_rest Z (d.warnsAt (some (g.offset + g.length)))
    (.earlyWarning i d.tag d.earlyWarningPoint (g.offset + g.length))
  have hdevice := hfills.device
  have hlane : (Z.lane l).state = (s.lane l).state := by
    have hZ : Z.lane l = A.lane l := by rw [hdevice]; rfl
    rw [hZ, ← hA, s.afterFinal_lane]
  have hAsays : SaysAs s A := hA ▸ s.afterFinal_says l rest i c _
  have hZtime : Z.time = s.time := (hfills.says).time.trans hAsays.time
  have hlen : chunkLength ((c.ended (g.offset + g.length)).enters 0 false (g.offset + g.length)).final
      ((g.offset + g.length - 1) / 65536) =
      g.offset + g.length - 65536 * ((g.offset + g.length - 1) / 65536) := by
    have hfinal : (c.ended (g.offset + g.length)).final = some (g.offset + g.length) := by rw [c.ended_eq]
    exact (congrArg (chunkLength · _) hfinal).trans (chunkLength_final h.takes.pos)
  have hposOf : ∀ k, ((c.ended (g.offset + g.length)).enters 0 false (g.offset + g.length)).posOf k = c.posOf k :=
    c.ended_posOf _
  have hrecords := hfills.records _ (List.mem_singleton_self _)
  have hothers := hfills.others
  have hcontext := hfills.context
  rw [hlen, hposOf] at hrecords
  simp only [hposOf] at hdevice
  have hkept : d.tag = c.tag ∧ d.earlyWarningPoint = c.earlyWarningPoint ∧
      d.earlyWarningIssued = c.earlyWarningIssued ∧ d.replyLane = c.replyLane := by
    rw [hcontext, Context.enters, c.ended_eq]
    exact ⟨rfl, rfl, rfl, rfl⟩
  obtain ⟨htag, hpoint, hissued, hreply⟩ := hkept
  have hd : d = { c.ended (g.offset + g.length) with counts := d.counts, window := d.window } := by
    have hcounts := congrArg Context.counts hcontext
    rw [Context.enters_false] at hcontext
    refine hcontext.trans ?_
    rw [hcounts]
    rfl
  refine ⟨?_, fun k hk => ?_, ?_, ?_, fun x hx => ?_, ?_⟩
  · rw [State.tellWarning, Option.getD_some, hframe, hdevice]
  · simp only [List.mem_cons, List.not_mem_nil, or_false, not_or] at hk
    exact (State.counter_raiseWhen _ _ _ hk.2).trans (hfills.counters k (by simpa using hk.1))
  · rw [State.tellWarning, Context.warnsAt, Option.any_some, Option.getD_some, htag, hpoint, hissued]
    exact (hAsays.trans hfills.says).raiseWhen _ _
  · rw [Context.booked, Option.any_some, hZtime, hlane, hreply, hissued, hpoint, Bool.true_and, hd]
  · by_cases hk : x.2.index = (g.offset + g.length - 1) / 65536
    · obtain rfl : x = (c.posOf ((g.offset + g.length - 1) / 65536), r) :=
        c.ring_unique hx h.mem (by rw [(hring.of_mem hx).2.2, hk])
      rw [h.takes.afterLast_eq]
      exact hrecords
    · rw [ChunkRecord.afterLast_other hk, ← hring.ended_getElem? h.takes.pos hx]
      refine hothers _ fun j hj hpos => hk ?_
      rw [List.mem_singleton.mp hj, hposOf] at hpos
      rw [c.ring_unique hx h.mem hpos]
      exact h.takes.index
  · have hfilter := hring.filter_index h.mem fun q => q.lastDone (g.offset + g.length) true g.piece
    simp only [h.takes.index] at hfilter
    rw [hfilter, State.tellWarning, State.raiseWhen_verifyQueue, hdevice, ← hA, State.afterFinal_verifyQueue]
    have hqueued := h.takes.queued (⟨i, c.posOf ((g.offset + g.length - 1) / 65536)⟩ : ChunkName) _
      (hring.finalFull_iff h.takes.pos h.mem h.takes.index)
    rw [List.append_assoc, List.filter_cons, List.filter_nil, hlen, apply_ite (List.map _), apply_ite (List.map _)]
    exact congrArg (s.verifyQueue ++ ·) hqueued

/-- The byte counts of that segment, below its saturation (R70, R76). -/
theorem FitsLast.counts {A Z : State} {d : Context} (h : FitsLast s c g r slot)
    (hfills : Fills A Z i ((c.ended (g.offset + g.length)).enters 0 false (g.offset + g.length)) d g
      (fun _ => r.ended (g.offset + g.length)) (fun _ => g.piece) g.offset (g.offset + g.length)
      [(g.offset + g.length - 1) / 65536]) :
    d.counts = { c.counts with
      acceptedBytes := d.counts.acceptedBytes
      duplicateBytes := min (c.counts.duplicateBytes + heldOf g.piece r.ranges) (2 ^ 64 - 1)
      oldBytes := d.counts.oldBytes } ∧
    (c.counts.acceptedBytes ≤ 2 ^ 64 - 1 → c.counts.oldBytes ≤ 2 ^ 64 - 1 →
      d.counts.acceptedBytes = min (c.counts.acceptedBytes + (g.length - heldOf g.piece r.ranges)) (2 ^ 64 - 1) ∧
      d.counts.oldBytes = c.counts.oldBytes) := by
  have hcounts := congrArg Context.counts hfills.context
  have hlength : g.piece.stop - g.piece.start = g.length := by
    rw [Segment.piece]
    simp only
    omega
  have hc : (c.ended (g.offset + g.length)).counts = c.counts := by rw [c.ended_eq]
  dsimp only [List.foldl_cons, List.foldl_nil, Context.enters] at hcounts
  rw [hc, StreamCounters.after_one, h.takes.repeated] at hcounts
  rw [hcounts]
  refine ⟨rfl, fun haccepted hold => ⟨?_, min_eq_left hold⟩⟩
  exact (h.takes.accepted _ haccepted).trans (by rw [hlength]; rfl)

end

/-! ## The segment as a whole -/

/-- The bytes that the record of a segment's final chunk holds already. -/
def Context.heldOfLast (c : Context) (g : Segment) : Nat :=
  (c.window[c.posOf ((g.offset + g.length - 1) / 65536)]?).elim 0 fun r => heldOf g.piece r.ranges

/-- Counts and buffer after the segment that fixes F. -/
structure LastBytes (s : State) (c : Context) (g : Segment) (places : Bool) (Y : State) (d : Context) : Prop where
  counts : d.counts = if g.length = 0 then c.counts else if places then { c.counts with
      acceptedBytes := d.counts.acceptedBytes
      duplicateBytes := min (c.counts.duplicateBytes + c.heldOfLast g) (2 ^ 64 - 1)
      oldBytes := d.counts.oldBytes }
    else c.counts.drop .beyondWindow
  accepted : places = true → c.counts.acceptedBytes ≤ 2 ^ 64 - 1 → c.counts.oldBytes ≤ 2 ^ 64 - 1 →
    d.counts.acceptedBytes = min (c.counts.acceptedBytes + (g.length - c.heldOfLast g)) (2 ^ 64 - 1) ∧
    d.counts.oldBytes = c.counts.oldBytes
  placed : places = true → BytesPlaced s Y c g g.offset (g.offset + g.length)
  unplaced : places = false → Y.buffer = s.buffer ∧ Y.words = s.words

/-- A LAST flag that fixes F above the committed offset (R59). -/
structure FixesLast (c : Context) (g : Segment) : Prop where
  last : g.last = true
  unknown : c.final = none
  aligned : ¬(1 ≤ (g.offset + g.length) % 65536 ∧ (g.offset + g.length) % 65536 ≤ 7)
  above : c.committed < g.offset + g.length
  held : c.highestHeld ≤ g.offset + g.length
  capacity : g.offset + g.length ≤ 65536 * c.cap
  ring : c.RingWF

section
variable {s : State} {l : LaneId} {i : StreamIndex} {c : Context} {g : Segment} {rest : List (List Byte)}

theorem Context.ended_fields (c : Context) (f : Nat) : (c.ended f).final = some f ∧ (c.ended f).committed = c.committed ∧
    (c.ended f).w = c.w ∧ (c.ended f).cap = c.cap ∧ (c.ended f).counts = c.counts := by
  rw [c.ended_eq]
  exact ⟨rfl, rfl, rfl, rfl, rfl⟩

theorem FixesLast.unplaced (h : FixesLast c g) (hout : g.length = 0 ∨ c.committed + 65536 * c.w ≤ g.offset) :
    ∃ Y d, ((s.taken l rest).setCtx i c).placeSegment i c l g = Y.setCtx i d ∧
      TookLast s ((s.taken l rest).afterFinal i c (g.offset + g.length)) l i c g false Y d ∧ LastBytes s c g false Y d := by
  obtain ⟨hfinal, hcommitted, hw, hcap, hcounts⟩ := c.ended_fields (g.offset + g.length)
  have habove := h.above
  refine ⟨_, _, (State.placeSegment_fixes _ i c l g h.last h.unknown h.aligned h.above h.held h.capacity).trans
    (State.placeRest_unplaced _ i _ l g hfinal (hcommitted.trans_lt h.above) (hcap.symm ▸ h.capacity)
      (by rw [hcommitted, hw]; exact hout)), tookLast_unplaced h.ring (by omega) _, ?_, by simp, by simp, fun _ => ?_⟩
  · rw [hcounts]
    rfl
  · rw [State.afterFinal_eq]
    exact ⟨rfl, rfl⟩

theorem FixesLast.placed (h : FixesLast c g) (hfits : LastPieceFits s c g) (hcan : CanonicalForm s) :
    ∃ Y d, ((s.taken l rest).setCtx i c).placeSegment i c l g = Y.setCtx i d ∧
      TookLast s ((s.taken l rest).afterFinal i c (g.offset + g.length)) l i c g true Y d ∧ LastBytes s c g true Y d := by
  obtain ⟨hfinal, hcommitted, hw, hcap, -⟩ := c.ended_fields (g.offset + g.length)
  obtain ⟨r, slot, hfit⟩ := hfits.fitsLast h.ring
  have hpos : g.length ≠ 0 := by
    have := hfit.chunk.nonempty
    omega
  have hold : c.heldOfLast g = heldOf g.piece r.ranges := by rw [Context.heldOfLast, hfit.record]; rfl
  generalize hA : (s.taken l rest).afterFinal i c (g.offset + g.length) = A
  have hbuffer : A.buffer = s.buffer ∧ A.words = s.words := by
    rw [← hA, State.afterFinal_eq]
    exact ⟨rfl, rfl⟩
  have hstores : A.StoresWF := by
    obtain ⟨freed, hgave⟩ := (s.taken l rest).afterFinal_gaveUp i c (g.offset + g.length) hcan rfl rfl
    rw [hA] at hgave
    unfold State.StoresWF
    rw [hbuffer.1, hbuffer.2]
    exact ⟨hcan.1, hcan.2.2.1, hgave.uses, hgave.marks⟩
  obtain ⟨Z, d, hrest, hfills⟩ := State.placeRest_placed A i (c.ended (g.offset + g.length)) l g hfinal
    (hcommitted.trans_le hfit.low) (by rw [hcommitted, hw]; exact hfit.high) (hcap.symm ▸ h.capacity) hfit.chunk
    ⟨hfit.ended_record h.ring, hfit.ended_slot, fun _ => by rw [ChunkRecord.ended_ranges]; exact hfit.fits⟩ hstores
    ((hfit.sound.congr (hfit.freshAddress h.ring)).of_words hbuffer.2)
  obtain ⟨hcounts, haccepted⟩ := hfit.counts hfills
  have hplaced := State.placeSegment_fixes (s.taken l rest) i c l g h.last h.unknown h.aligned h.above h.held h.capacity
  rw [hA] at hplaced
  refine ⟨_, _, hplaced.trans hrest, .of_fills hfit h.ring hA hfills, ?_, fun _ => ?_, fun _ => ?_, by simp⟩
  · rw [if_neg hpos, if_pos rfl, hold]
    exact hcounts
  · rw [hold]
    exact haccepted
  · refine (hfills.bytes.congr fun z hz hzf => (hfit.freshAddress h.ring z hz hzf).symm).of_buffer hbuffer.1.symm ?_
    exact State.raiseWhen_buffer _ _ _

end

/-- Settles O2: a bare LAST that repeats F; a new F, with no byte to place or with a piece of the final chunk. -/
theorem lastFlagFixesTheFinalEnd : Obligations.LastFlagFixesTheFinalEnd := by
  intro s l rest g i c h hs hcan hring hlast f booked
  have hlane : ((s.taken l rest).lane l).state = (s.lane l).state := by
    rw [State.taken, State.lane_setLane_self]; rfl
  refine ⟨fun hfinal hbare => ?_, fun hfinal haligned habove hheld hcap hcases => ?_⟩
  · have hplaced := State.placeSegment_bareRepeat (s.taken l rest) i c l g hlast hfinal hbare
    rw [hlane] at hplaced
    have hexec := nextSegment_exec_receiving h hs hplaced rfl
    refine ⟨_, _, hexec.trans (congrArg _ (hs.poolTest_quiet rfl rfl rfl)), laneTook_taken rfl,
      otherEntries_setCtx hs.2.1 rfl i _, holds_setCtx _ i _, ?_, flagsTested_flagsTested rfl rfl, rfl⟩
    rw [Context.booked, Option.any_none, Bool.or_false]
    rfl
  intro k places ranges done old warns
  have hlastF : FixesLast c g := ⟨hlast, hfinal, haligned, habove, hheld, hcap, hring⟩
  obtain ⟨Y, d, hplaced, htook, hlastBytes⟩ : ∃ Y d, ((s.taken l rest).setCtx i c).placeSegment i c l g = Y.setCtx i d ∧
      TookLast s ((s.taken l rest).afterFinal i c f) l i c g places Y d ∧ LastBytes s c g places Y d := by
    by_cases hout : g.length = 0 ∨ c.committed + 65536 * c.w ≤ g.offset
    · have hnot : places = false := decide_eq_false (by omega)
      rw [hnot]
      exact hlastF.unplaced hout
    · have hdoes : places = true := decide_eq_true (by omega)
      rw [hdoes]
      exact hlastF.placed (by tauto) hcan
  obtain ⟨freed, hgave⟩ := (s.taken l rest).afterFinal_gaveUp i c f hcan rfl rfl
  have hAeq := (s.taken l rest).afterFinal_eq i c f
  have hAframe := (s.taken l rest).afterFinal_frame i c f
  have hAreserve := (s.taken l rest).afterFinal_reserve i c f
  have hAcounter := fun k hk => (s.taken l rest).counter_afterFinal i c f (k := k) hk
  rw [if_neg fun e => habove.ne' e.1] at hAreserve
  generalize (s.taken l rest).afterFinal i c f = A at htook hgave hAeq hAframe hAreserve hAcounter
  obtain ⟨hdevice, hcounters, htells, hcontext, hrecords, hqueue⟩ := htook
  obtain ⟨hcounts, haccepted, hbytes, hbuffer⟩ := hlastBytes
  have hstate : d.state = c.state ∧ d.streaming = c.streaming ∧ d.flushPending = c.flushPending := by
    rw [hcontext, c.ended_eq]
    exact ⟨rfl, rfl, rfl⟩
  obtain ⟨hstate, hstreaming, hflush⟩ := hstate
  let u := Y.setCtx i d.flagsTested
  have hYlanes : Y.lanes = (s.taken l rest).lanes := by rw [hdevice, hAeq]
  have hYtable : Y.table = s.table := by rw [hdevice, hAeq]; rfl
  have hYpool : Y.pool = A.pool := by rw [hdevice]
  have hupool : u.pool = { s.pool with freeList := u.pool.freeList, uses := u.pool.uses, marks := u.pool.marks } := by
    have hApool := congrArg State.pool hAeq
    rw [hAreserve] at hApool
    refine Eq.trans (b := A.pool) hYpool (hApool.trans ?_)
    rw [show u.pool = A.pool from hYpool]
    rfl
  refine ⟨u, d.flagsTested, nextSegment_exec_receiving h hs hplaced hstate, laneTook_taken hYlanes,
    otherEntries_setCtx hs.2.1 hYtable i _, holds_setCtx _ i _, ?_, haccepted, flagsTested_flagsTested hstreaming hflush,
    hrecords, hqueue, ?_, hbytes, hbuffer, fun j hj => ?_, fun hwarns hissued => ?_, fun hsilent => ?_, ?_⟩
  · rw [hcounts, c.ended_eq, c.ended_gaps] at hcontext
    exact congrArg (fun e : Context => { e with
      streaming := d.flagsTested.streaming, flushPending := d.flagsTested.flushPending }) hcontext
  · exact (hgave.congr rfl rfl hYpool (hcounters _ (by simp))).slotsGivenUp
  · simp only [List.mem_cons, List.not_mem_nil, or_false, not_or] at hj
    exact (State.counter_setCtx _ _ _ _).trans ((hcounters j (by simpa using hj.2)).trans (hAcounter j hj.1))
  · have htold : (places && decide (c.earlyWarningPoint < g.offset + g.length) && !c.earlyWarningIssued) = true := by
      rw [hissued, Bool.not_false, Bool.and_true]; exact hwarns
    rw [htold] at htells
    exact ⟨htells.events, htells.errors⟩
  · have htold : (places && decide (c.earlyWarningPoint < g.offset + g.length) && !c.earlyWarningIssued) = false := by
      rcases hsilent with hsilent | hsilent
      · exact Bool.and_eq_false_imp.mpr fun hw => absurd (hw.symm.trans hsilent) (by simp)
      · rw [hsilent]; simp
    rw [htold] at htells
    exact ⟨htells.events, htells.errors⟩
  · have hYframe : SegmentFrame A Y := ⟨by rw [hdevice]⟩
    have hframe : SegmentFrame s u :=
      (((s.taken_frame l rest).trans hAframe).trans hYframe).trans (State.setCtx_frame _ _ _)
    exact hframe.rest.trans (by rw [hupool])

end Sys2Proof.Machine
end

section
/-! # A piece that asks for a slot: the end of its segment, the segments of one piece (R69 to R71, R74 to R76, R83) -/

namespace Sys2Proof.Machine

/-! ## The end of a segment whose pieces may be dropped -/

/-- The stream after a segment of which pieces up to `y` were merged when it is `accepted`, some bytes being lost; its
drain flags are not tested yet. -/
def Context.concluded (d : Context) (now : Nat) (l : LaneId) (active accepted : Bool) (y : Nat) (lost : List DropReason) :
    Context :=
  { d with
    counts := d.counts.charge lost
    lastArrival := if accepted then now else d.lastArrival
    idleReported := d.idleReported && !accepted
    replyLane := if accepted && active then some l else d.replyLane
    earlyWarningIssued := d.earlyWarningIssued || (accepted && decide (d.earlyWarningPoint < y)) }

/-- The device after it. -/
def State.concluded (Z : State) (i : StreamIndex) (d : Context) (accepted : Bool) (y : Nat) (lost : List DropReason) :
    State :=
  if accepted then Z.tellWarning i d (some y) else lost.head?.elim Z Z.countDrop

section
variable (Z : State) (i : StreamIndex) (d : Context) (l : LaneId) (accepted : Bool) (y : Nat) (lost : List DropReason)

theorem Context.concluded_dropped (now : Nat) (active : Bool) :
    d.concluded now l active false y lost = { d with counts := d.counts.charge lost } := by
  rw [Context.concluded, Bool.not_false, Bool.and_true, Bool.false_and, Bool.false_and, Bool.or_false]
  rfl

theorem State.finishSegment_setCtx (hlost : accepted = false → lost ≠ []) :
    (Z.setCtx i d).finishSegment i l accepted (if accepted then some y else none) lost =
      (Z.concluded i d accepted y lost).setCtx i
        (d.concluded Z.time l (decide ((Z.lane l).state = .active)) accepted y lost) := by
  cases accepted with
  | true =>
    rw [if_pos rfl, State.finishSegment_accepted, Context.booked, Option.any_some, Context.concluded, Bool.not_true,
      Bool.and_false, Bool.true_and, Bool.true_and]
    simp only [decide_eq_true_eq]
    rfl
  | false =>
    obtain ⟨r, rest, rfl⟩ := List.exists_cons_of_ne_nil (hlost rfl)
    rw [if_neg Bool.false_ne_true, State.finishSegment_dropped, Context.concluded_dropped]
    rfl

theorem State.concluded_rest : Z.concluded i d accepted y lost = { Z with
    live := (Z.concluded i d accepted y lost).live
    events := (Z.concluded i d accepted y lost).events
    errors := (Z.concluded i d accepted y lost).errors } := by
  cases accepted with
  | true => exact Z.raiseWhen_rest _ _
  | false => cases lost <;> rfl

@[simp] theorem State.concluded_pool : (Z.concluded i d accepted y lost).pool = Z.pool := by rw [State.concluded_rest]
@[simp] theorem State.concluded_lanes : (Z.concluded i d accepted y lost).lanes = Z.lanes := by rw [State.concluded_rest]
@[simp] theorem State.concluded_table : (Z.concluded i d accepted y lost).table = Z.table := by rw [State.concluded_rest]

/-- An early warning, and no other event. -/
theorem State.concluded_says : SaysAs (Z.raiseWhen ((accepted && decide (d.earlyWarningPoint < y)) && !d.earlyWarningIssued)
    (.earlyWarning i d.tag d.earlyWarningPoint y)) (Z.concluded i d accepted y lost) := by
  cases accepted with
  | true => exact ⟨rfl, rfl, rfl, rfl⟩
  | false => cases lost <;> exact ⟨rfl, rfl, rfl, rfl⟩

theorem State.concluded_accepted (h : accepted = true) :
    CountersKept Z (Z.concluded i d accepted y lost) [.eventsLost] := by
  subst h
  exact fun k hk => State.counter_raiseWhen _ _ _ (by simpa using hk)

theorem State.concluded_dropped (h : accepted = false) {reason : DropReason} (hreason : lost.head? = some reason) :
    Counted Z (Z.concluded i d accepted y lost) (.drop reason) 1 := by
  subst h
  rw [State.concluded, if_neg Bool.false_ne_true, hreason]
  exact fun k => Z.counter_count _ _ _

end

/-- A segment of whose pieces, none beyond the window, those merged end at `y`. -/
theorem State.placeWithin_concluded {X Z : State} {i : StreamIndex} {c d : Context} {l : LaneId} {g : Segment}
    {accepted : Bool} {x y : Nat} {lost : List DropReason}
    (h : (X.setCtx i (c.enters (x - g.offset) false (g.offset + g.length))).placePieces i g.offset g.payload
      (piecesOf x (g.offset + g.length)) = ⟨Z.setCtx i d, if accepted then some y else none, lost⟩)
    (hlost : accepted = false → lost ≠ []) : X.placeWithin i c l g false x (g.offset + g.length) =
      (Z.concluded i d accepted y lost).setCtx i
        (d.concluded Z.time l (decide ((Z.lane l).state = .active)) accepted y lost) := by
  have htail : decide (g.offset + g.length < g.offset + g.length) = false := decide_eq_false (lt_irrefl _)
  have hmerged : (if accepted then some y else none).isSome = accepted := by cases accepted <;> rfl
  rw [State.placeWithin, htail, State.enters_false, h, if_neg Bool.false_ne_true, List.append_nil, Bool.false_or, hmerged,
    State.finishSegment_setCtx _ _ _ _ _ _ _ hlost]

end Sys2Proof.Machine
end

section
/-! # The segments of one piece that asks for a slot, or is dropped (R69, R71, R76, R83; O19) -/

namespace Sys2Proof.Machine

section
variable {s : State} {l : LaneId} {rest : List (List Byte)} {g : Segment} {i : StreamIndex} {c : Context} {r : ChunkRecord}

/-- The handling of a segment of one piece, from the outcome of that piece. -/
theorem OnePiece.placeSegment_concluded {Z : State} {d : Context} {reason : Option DropReason} (h : OnePiece g c r)
    (X : State) (hplaced : (X.setCtx i (c.enters 0 false (g.offset + g.length))).placePiece i g.offset
      (g.offset + g.length) g.payload = (Z.setCtx i d, reason)) :
    (X.setCtx i c).placeSegment i c l g =
      (Z.concluded i d reason.isNone (g.offset + g.length) reason.toList).setCtx i
        (d.concluded Z.time l (decide ((Z.lane l).state = .active)) reason.isNone (g.offset + g.length) reason.toList) := by
  rw [h.placeSegment]
  refine State.placeWithin_concluded ?_ fun hnone => by cases reason <;> simp_all
  rw [piecesOf_one h.inChunk, Nat.sub_self]
  cases reason with
  | none => rw [State.placePieces_merged (by rw [Nat.sub_self, List.drop_zero]; exact hplaced)]; rfl
  | some reason => rw [State.placePieces_lost (by rw [Nat.sub_self, List.drop_zero]; exact hplaced)]; rfl

/-- What a merged piece does to the pool; lanes and table it leaves alone, whatever words it touches. -/
theorem State.placePiece_takes {X : State} {k x y : Nat} {slot : Slot} {bytes : List Byte} (hk : x / 65536 = k)
    (hr : c.window[c.posOf k]? = some r)
    (hslot : r.slotFor (decide (k = c.head)) X.pool.freeList X.pool.reserve = some slot) (htakes : r.takesBytes = true)
    (hfits : (insertRange (localPiece k x y) r.ranges).length ≤ 8) :
    ∃ Y : State, (X.setCtx i c).placePiece i x y bytes = (Y.setCtx i (c.absorb k r slot (localPiece k x y)), none) ∧
      Y.lanes = X.lanes ∧ Y.table = X.table ∧
      Y.pool = { (X.granting i (c.posOf k) r (decide (k = c.head)) slot).pool with marks := Y.pool.marks } := by
  have hwrite := (X.granting i (c.posOf k) r (decide (k = c.head)) slot).writePiece_eq slot (localPiece k x y) r.ranges
    bytes i r.index
  have hgrant := X.granting_eq i (c.posOf k) r (decide (k = c.head)) slot
  refine ⟨_, State.placePiece_merges hk hr hslot htakes hfits, ?_, ?_, ?_⟩
  · refine (congrArg State.lanes hwrite).trans ?_
    rw [hgrant]
  · refine (congrArg State.table hwrite).trans ?_
    rw [hgrant]
  · exact congrArg State.pool hwrite

/-- A piece that is granted the head of the free list. -/
theorem OnePiece.granted {slot : Slot} {tail : List Slot} (h : NextSegment s l rest g i c) (hs : Serving s)
    (hcan : CanonicalForm s) (hone : OnePiece g c r) (hnone : r.slot = none) (hempty : r.state = .empty)
    (hranges : r.ranges = []) (hfree : s.pool.freeList = slot :: tail)
    (hgrant : g.offset / 65536 = c.head ∨ 1 ≤ s.pool.spare) :
    ∃ u d, exec (.segmentTake l) s = .next u.poolTest ∧ LaneTook s u l rest ∧ OtherEntries s u i ∧ Holds u i d ∧
      OneRecord c d (c.posOf (g.offset / 65536)) { r with
        slot := some slot, ranges := [g.piece]
        state := if decide ([g.piece] = [(⟨0, chunkLength c.final (g.offset / 65536)⟩ : Range)]) then .queued
          else .filling } ∧
      u.pool.freeList = tail ∧
      u.pool.reserve = (if g.offset / 65536 = c.head then s.pool.reserve - 1 else s.pool.reserve) ∧
      u.pool.use slot = .assigned i (c.posOf (g.offset / 65536)) ∧
      ∀ x, x ≠ slot → u.pool.use x = s.pool.use x := by
  obtain ⟨-, -, -, -, -, hr⟩ := id hone
  have htakes : r.takesBytes = true := ChunkRecord.takesBytes_iff.mpr (.inl hempty)
  have hmerged : insertRange g.piece r.ranges = [g.piece] := by rw [hranges]; rfl
  have hslot : r.slotFor (decide (g.offset / 65536 = c.head)) s.pool.freeList s.pool.reserve = some slot := by
    rw [ChunkRecord.slotFor_of_none hnone, if_pos, hfree]
    · rfl
    · refine hgrant.imp (fun hk => decide_eq_true hk) fun hspare => ?_
      unfold Pool.spare Pool.free at hspare
      omega
  obtain ⟨Y, hplaced, hlanes, htable, hpool⟩ := State.placePiece_takes (X := s.taken l rest) (i := i)
    (c := c.enters 0 false (g.offset + g.length)) (y := g.offset + g.length) (bytes := g.payload) rfl hr hslot htakes
    (by rw [← Segment.piece_eq, hmerged]; simp)
  have hall := hone.placeSegment_concluded (l := l) _ hplaced
  rw [← Segment.piece_eq] at hall
  rw [State.granting_none hnone] at hpool
  have hupool : (Y.concluded i ((c.enters 0 false (g.offset + g.length)).absorb (g.offset / 65536) r slot g.piece) true
      (g.offset + g.length) []).pool = { s.pool with
        freeList := tail, uses := cellPut .free s.pool.uses slot (.assigned i (c.posOf (g.offset / 65536)))
        reserve := if decide (g.offset / 65536 = c.head) then s.pool.reserve - 1 else s.pool.reserve
        marks := Y.pool.marks } := by
    have htail : (s.taken l rest).pool.freeList.tail = tail := congrArg List.tail hfree
    rw [State.concluded_pool, hpool, State.granted, htail]
    rfl
  refine ⟨_, _, nextSegment_exec_receiving h hs hall rfl, laneTook_taken ?_, otherEntries_setCtx hs.2.1 ?_ i _,
    holds_setCtx _ i _, ⟨?_, fun p hp => ?_⟩, ?_, ?_, ?_, fun x hx => ?_⟩
  · exact (State.concluded_lanes _ _ _ _ _ _).trans hlanes
  · exact (State.concluded_table _ _ _ _ _ _).trans htable
  · refine (List.getElem?_set_self (List.getElem?_eq_some_iff.mp hr).1).trans (congrArg some ?_)
    rw [ChunkRecord.absorb, if_pos htakes, hmerged]
    simp only [decide_eq_true_eq]
    rfl
  · exact List.getElem?_set_ne hp.symm
  · exact congrArg Pool.freeList hupool
  · refine (congrArg Pool.reserve hupool).trans ?_
    simp only [decide_eq_true_eq]
  · have huse := congrArg (·.use slot) hupool
    exact huse.trans ((cellGet_cellPut hcan.2.2.2.1 _ _ _).trans (if_pos rfl))
  · have huse := congrArg (·.use x) hupool
    exact huse.trans ((cellGet_cellPut hcan.2.2.2.1 _ _ _).trans (if_neg hx))

/-- A piece that is dropped. -/
theorem OnePiece.dropped {reason : DropReason} (h : NextSegment s l rest g i c) (hs : Serving s) (hone : OnePiece g c r)
    (hreason : (reason = .noSlot ∧ r.slot = none ∧ g.offset / 65536 ≠ c.head ∧ s.pool.spare = 0) ∨
      (reason = .fragmentLimit ∧ r.slot.isSome = true ∧ (r.state = .empty ∨ r.state = .filling) ∧
        8 < (insertRange g.piece r.ranges).length)) :
    ∃ t d, exec (.segmentTake l) s = .next t ∧ LaneTook s t l rest ∧ OtherEntries s t i ∧ Holds t i d ∧
      d = { c with
        counts := { c.counts.drop reason with oldBytes := d.counts.oldBytes }
        streaming := d.streaming, flushPending := d.flushPending } ∧
      (c.counts.oldBytes ≤ 2 ^ 64 - 1 → d.counts.oldBytes = c.counts.oldBytes) ∧
      FlagsTested c d ∧ Counted s t (.drop reason) 1 ∧
      t = { s with lanes := t.lanes, table := t.table, live := t.live } := by
  obtain ⟨-, -, -, -, -, hr⟩ := id hone
  have hplaced : ((s.taken l rest).setCtx i (c.enters 0 false (g.offset + g.length))).placePiece i g.offset
      (g.offset + g.length) g.payload =
      ((s.taken l rest).setCtx i (c.enters 0 false (g.offset + g.length)), some reason) := by
    rcases hreason with ⟨rfl, hnone, hnotHead, hspare⟩ | ⟨rfl, hheld, htakes, hmany⟩
    · refine State.placePiece_noSlot rfl hr ?_
      rw [ChunkRecord.slotFor_of_none hnone, if_neg]
      rintro (hhead | hfree)
      · exact hnotHead (of_decide_eq_true hhead)
      · unfold Pool.spare Pool.free at hspare
        exact absurd hfree (by show ¬s.pool.reserve < s.pool.freeList.length; omega)
    · rw [Segment.piece_eq] at hmany
      exact State.placePiece_fragmentLimit rfl hr hheld (ChunkRecord.takesBytes_iff.mpr htakes) hmany
  have hall := hone.placeSegment_concluded (l := l) _ hplaced
  have hd : (c.enters 0 false (g.offset + g.length)).concluded (s.taken l rest).time l
      (decide (((s.taken l rest).lane l).state = .active)) false (g.offset + g.length) [reason] =
      { c with counts := { c.counts.drop reason with oldBytes := satAdd64 c.counts.oldBytes 0 } } := by
    rw [Context.concluded_dropped, Context.enters_false, ← StreamCounters.drop_withOld]
    rfl
  have hexec := nextSegment_exec_receiving h hs (hall.trans (congrArg (State.setCtx _ i) hd)) rfl
  exact ⟨_, _, hexec.trans (congrArg _ (hs.poolTest_quiet rfl rfl rfl)), laneTook_taken rfl,
    otherEntries_setCtx hs.2.1 rfl i _, holds_setCtx _ i _, rfl, fun hold => min_eq_left hold,
    flagsTested_flagsTested rfl rfl, State.concluded_dropped _ _ _ _ _ _ rfl rfl, rfl⟩

end

end Sys2Proof.Machine
end

section
/-! # A piece that is merged or dropped (R69 to R73, R83) -/

namespace Sys2Proof.Machine

/-! ## The grant (R83) -/

/-- The slot that a record without one is granted. -/
def ChunkRecord.grant (r : ChunkRecord) (slot : Option Slot) : Option Slot := if r.slot.isNone then slot else none

/-- The pool after a request that was `granted` a slot, or was not. -/
def Pool.grant (p : Pool) (i : StreamIndex) (pos : Nat) (head : Bool) (granted : Option Slot) : Pool :=
  granted.elim p fun slot => { p with
    freeList := p.freeList.tail, uses := cellPut .free p.uses slot (.assigned i pos)
    reserve := if head then p.reserve - 1 else p.reserve }

section
variable {r : ChunkRecord} {p : Pool} {i : StreamIndex} {pos : Nat} {head : Bool} {granted : Option Slot}

theorem ChunkRecord.grant_none : r.grant none = none := ite_self none

theorem ChunkRecord.grant_isSome (slot : Option Slot) : (r.grant slot).isSome = (r.slot.isNone && slot.isSome) := by
  unfold ChunkRecord.grant
  cases r.slot.isNone <;> rfl

theorem State.granting_pool (X : State) (slot : Slot) :
    (X.granting i pos r head slot).pool = X.pool.grant i pos head (r.grant (some slot)) := by
  unfold State.granting ChunkRecord.grant
  cases r.slot <;> rfl

theorem Pool.grant_freeList : (p.grant i pos head granted).freeList =
    if granted.isSome then p.freeList.tail else p.freeList := by cases granted <;> rfl

theorem Pool.grant_reserve : (p.grant i pos head granted).reserve =
    if granted.isSome && head then p.reserve - 1 else p.reserve := by cases granted <;> rfl

theorem Pool.grant_uses : CellsWF .free p.uses → CellsWF .free (p.grant i pos head granted).uses := by
  cases granted with
  | none => exact id
  | some slot => exact fun h => cellPut_wf h _ _

theorem Pool.use_grant (h : CellsWF .free p.uses) (slot : Slot) : (p.grant i pos head granted).use slot =
    if granted = some slot then .assigned i pos else p.use slot := by
  cases granted with
  | none => rfl
  | some z =>
    refine (cellGet_cellPut h z slot _).trans ?_
    simp only [Option.some.injEq, eq_comm]
    rfl

end

/-! ## The piece -/

/-- From `X` and `c` to `Y` and `d` the stream offsets x to y - 1 of a segment came to the record `r` of chunk `k`, for
which `slot` was to be had. -/
structure Asked (X Y : State) (i : StreamIndex) (c d c' : Context) (g : Segment) (k : Nat) (r : ChunkRecord)
    (slot : Option Slot) (head : Bool) (piece : Range) (x y : Nat) : Prop where
  device : Y = { X with
    live := Y.live, buffer := Y.buffer, words := Y.words
    pool := X.pool.grant i (c.posOf k) head (r.grant slot)
    verifyQueue := X.verifyQueue ++
      if (r.taking slot piece (chunkLength c.final k)).state = .queued then [⟨i, c.posOf k⟩] else [] }
  counters : CountersKept X Y [.correctedErrors]
  stores : Y.StoresWF
  placed : r.refuses slot piece = none → BytesPlaced X Y c' g x y
  kept : r.refuses slot piece ≠ none → Y.buffer = X.buffer ∧ ∀ n, Y.counter n = X.counter n
  words : ∀ v, (∀ z, slot = some z → v / 8192 ≠ z.val) → cellGet .sound Y.words v = cellGet .sound X.words v
  context : d = { c with
    window := c.window.set (c.posOf k) (r.taking slot piece (chunkLength c.final k))
    counts := if r.refuses slot piece = none
      then c.counts.absorb true (piece.stop - piece.start) (heldOf piece r.ranges) else c.counts }

section
variable {X : State} {i : StreamIndex} {c c' : Context} {g : Segment} {k x y : Nat} {r : ChunkRecord} {slot : Option Slot}
  {head : Bool} {piece : Range} {reason : DropReason}

/-- A dropped piece leaves device and stream as they were. -/
theorem Asked.dropped (hX : X.StoresWF) (hr : c.window[c.posOf k]? = some r) (htakes : r.takesBytes = true)
    (hrefuses : r.refuses slot piece = some reason) (hgrant : r.grant slot = none) :
    Asked X X i c c c' g k r slot head piece x y := by
  have htaking : ∀ len, r.taking slot piece len = r := fun len => by
    rw [ChunkRecord.taking, hrefuses, if_neg (by simp)]
  have hqueued : r.state ≠ .queued := by
    rcases ChunkRecord.takesBytes_iff.mp htakes with h | h <;> rw [h] <;> simp
  refine ⟨?_, fun _ _ => rfl, hX, fun h => absurd (hrefuses.symm.trans h) (by simp), fun _ => ⟨rfl, fun _ => rfl⟩,
    fun _ _ => rfl, ?_⟩
  · rw [hgrant, htaking, if_neg hqueued, List.append_nil]
    rfl
  · obtain ⟨hlt, hget⟩ := List.getElem?_eq_some_iff.mp hr
    rw [htaking, hrefuses, if_neg (by simp), ← hget, List.set_getElem_self]

theorem State.placePiece_asked (h : InChunk k x y) (ho : g.offset ≤ x) (hr : c.window[c.posOf k]? = some r)
    (htakes : r.takesBytes = true) (hempty : r.slot = none → r.ranges = [])
    (hslot : r.slotFor (decide (k = c.head)) X.pool.freeList X.pool.reserve = slot) (hw : c'.w = c.w)
    (hr' : c'.window[c.posOf k]? = some { r with slot := slot }) (hX : X.StoresWF)
    (hsound : r.refuses slot (localPiece k x y) = none → WordsSound X c' x y) :
    ∃ Y d, (X.setCtx i c).placePiece i x y (g.payload.drop (x - g.offset)) =
        (Y.setCtx i d, r.refuses slot (localPiece k x y)) ∧
      Asked X Y i c d c' g k r slot (decide (k = c.head)) (localPiece k x y) x y := by
  cases slot with
  | none =>
    exact ⟨X, c, State.placePiece_noSlot h.div hr hslot, .dropped hX hr htakes rfl r.grant_none⟩
  | some slot =>
    by_cases hfits : (insertRange (localPiece k x y) r.ranges).length ≤ 8
    · have hmerged : r.refuses (some slot) (localPiece k x y) = none := by
        rw [ChunkRecord.refuses, if_neg (by simp), if_neg (not_lt.mpr hfits)]
      obtain ⟨Y, hplaced, habsorbed⟩ := State.placePiece_absorbs (g := g) (i := i) h ho hr hslot (fun _ => hfits)
        (fun hnot => absurd (hnot.symm.trans htakes) (by simp)) hw hr' hX (hsound hmerged)
      obtain ⟨hstored, hbytes, hwords⟩ := habsorbed
      have hstores := hstored.stores (State.granting_stores hX)
      have htaking : ∀ len, r.taking (some slot) (localPiece k x y) len = r.absorb slot (localPiece k x y) len := by
        intro len
        rw [ChunkRecord.taking, if_pos hmerged, ChunkRecord.absorb, if_pos htakes]
      have hqueued : ∀ len, ((r.absorb slot (localPiece k x y) len).state = .queued) =
          (r.completes (localPiece k x y) len = true) := fun len => by
        rw [ChunkRecord.absorb, if_pos htakes, ChunkRecord.completes, htakes, Bool.true_and, decide_eq_true_eq]
        simp
      rw [hmerged]
      refine ⟨_, _, hplaced, ?_, ?_, hstores, fun _ => ?_, fun hnot => absurd hmerged hnot, fun v hv => ?_, ?_⟩
      · have hrest := hstored.rest
        rw [State.granting_eq] at hrest
        rw [htaking, ← State.granting_pool]
        simp only [hqueued]
        rw [State.enqueue, hrest]
      · intro j hj
        refine (hstored.counters j hj).trans ?_
        rw [State.granting_eq]
        rfl
      · exact hbytes.of_buffer (by rw [State.granting_eq]) rfl
      · exact (hwords v (hv slot rfl)).trans (by rw [State.granting_eq])
      · rw [if_pos hmerged, htaking, Context.absorb, htakes]
    · have hrefuses : r.refuses (some slot) (localPiece k x y) = some .fragmentLimit := by
        rw [ChunkRecord.refuses, if_neg (by simp), if_pos (not_le.mp hfits)]
      obtain ⟨held, hheld⟩ := Option.ne_none_iff_exists'.mp fun hnone => hfits (by
        rw [hempty hnone]; exact Nat.le_of_ble_eq_true rfl)
      rw [hrefuses]
      exact ⟨X, c, State.placePiece_fragmentLimit h.div hr (by rw [hheld]; rfl) htakes (not_le.mp hfits),
        .dropped hX hr htakes hrefuses (by rw [ChunkRecord.grant, hheld]; rfl)⟩

end

end Sys2Proof.Machine
end

section
/-! # A segment of two pieces (R67 to R76, R83; O19) -/

namespace Sys2Proof.Machine

section
variable {X : State} {i : StreamIndex} {c : Context} {g : Segment} {a b : ChunkRecord} {slotA slotB : Option Slot}

/-- The chunk boundary above a segment's first byte. -/
def Segment.boundary (g : Segment) : Nat := 65536 * (g.offset / 65536 + 1)

/-- The pieces of a segment that crosses that boundary. -/
def Segment.lowPiece (g : Segment) : Range := ⟨g.offset % 65536, 65536⟩
def Segment.upPiece (g : Segment) : Range := ⟨0, g.offset + g.length - 65536 * (g.offset / 65536 + 1)⟩

theorem TwoPieces.lowChunk (h : TwoPieces g c a b) : InChunk (g.offset / 65536) g.offset g.boundary := by
  obtain ⟨-, -, -, hnext, -⟩ := h
  unfold Segment.boundary
  exact ⟨by omega, by omega, le_rfl⟩

theorem TwoPieces.upChunk (h : TwoPieces g c a b) : InChunk (g.offset / 65536 + 1) g.boundary (g.offset + g.length) := by
  obtain ⟨-, -, -, hnext, -⟩ := h
  unfold Segment.boundary
  exact ⟨le_rfl, by omega, by omega⟩

theorem Segment.lowPiece_eq (g : Segment) : g.lowPiece = localPiece (g.offset / 65536) g.offset g.boundary := by
  have hstart : g.offset % 65536 = g.offset - 65536 * (g.offset / 65536) := by omega
  have hstop : 65536 = 65536 * (g.offset / 65536 + 1) - 65536 * (g.offset / 65536) := by omega
  rw [Segment.lowPiece, localPiece, Segment.boundary, ← hstop, hstart]

theorem Segment.upPiece_eq (g : Segment) :
    g.upPiece = localPiece (g.offset / 65536 + 1) g.boundary (g.offset + g.length) := by
  rw [Segment.upPiece, localPiece, Segment.boundary, Nat.sub_self]

/-- The stream with the slots that its two records hold or are granted. -/
def Context.slotted (c : Context) (k : Nat) (a b : ChunkRecord) (slotA slotB : Option Slot) : Context :=
  { c with
    window := (c.window.set (c.posOf k) { a with slot := slotA }).set (c.posOf (k + 1)) { b with slot := slotB } }

theorem TwoPieces.slotted_low (h : TwoPieces g c a b) :
    (c.slotted (g.offset / 65536) a b slotA slotB).window[c.posOf (g.offset / 65536)]? = some { a with slot := slotA } := by
  obtain ⟨-, -, -, -, hpos, ha, -⟩ := h
  refine (List.getElem?_set_ne hpos.symm).trans (List.getElem?_set_self (List.getElem?_eq_some_iff.mp ha).1)

theorem TwoPieces.slotted_up (h : TwoPieces g c a b) :
    (c.slotted (g.offset / 65536) a b slotA slotB).window[c.posOf (g.offset / 65536 + 1)]? =
      some { b with slot := slotB } := by
  obtain ⟨-, -, -, -, -, -, hb, -⟩ := h
  exact List.getElem?_set_self (by rw [List.length_set]; exact (List.getElem?_eq_some_iff.mp hb).1)

/-- The slots of the two pieces: the lower asks first. -/
structure SlotsAsked (X : State) (i : StreamIndex) (c : Context) (k : Nat) (a b : ChunkRecord) (slotA slotB : Option Slot) :
    Prop where
  low : a.slotFor (decide (k = c.head)) X.pool.freeList X.pool.reserve = slotA
  up : b.slotFor false (X.pool.grant i (c.posOf k) (decide (k = c.head)) (a.grant slotA)).freeList
    (X.pool.grant i (c.posOf k) (decide (k = c.head)) (a.grant slotA)).reserve = slotB
  different : slotA = none ∨ slotA ≠ slotB

/-- Where the bytes merged begin and end. -/
def Segment.mergedFrom (g : Segment) (a : ChunkRecord) (slotA : Option Slot) : Nat :=
  if decide (a.refuses slotA g.lowPiece = none) then g.offset else g.boundary
def Segment.mergedTo (g : Segment) (b : ChunkRecord) (slotB : Option Slot) : Nat :=
  if decide (b.refuses slotB g.upPiece = none) then g.offset + g.length else g.boundary

/-- The words of a slot's bytes are not those of another slot. -/
theorem bufferAddress_slot_ne {slot other : Slot} (h : slot ≠ other) (y : Nat) :
    bufferAddress slot (y % 65536) / 8 / 8192 ≠ other.val := by
  have := Fin.val_ne_of_ne h
  rw [bufferAddress_word, bufferWord]
  unfold Config.chunkSize Config.wordBytes
  omega

theorem ChunkRecord.slot_of_refuses {r : ChunkRecord} {slot : Option Slot} {piece : Range}
    (h : r.refuses slot piece = none) : ∃ z, slot = some z :=
  Option.ne_none_iff_exists'.mp fun hnone => by
    rw [ChunkRecord.refuses, if_pos hnone] at h
    exact absurd h (by simp)

theorem TwoPieces.asked (h : TwoPieces g c a b) (hslots : SlotsAsked X i c (g.offset / 65536) a b slotA slotB)
    (hX : X.StoresWF)
    (hsound : WordsSound X (c.slotted (g.offset / 65536) a b slotA slotB) (g.mergedFrom a slotA) (g.mergedTo b slotB))
    (e : Context) (he : e = { c with counts := e.counts }) :
    ∃ Y d Z d', (X.setCtx i e).placePiece i g.offset g.boundary (g.payload.drop (g.offset - g.offset)) =
        (Y.setCtx i d, a.refuses slotA g.lowPiece) ∧
      (Y.setCtx i d).placePiece i g.boundary (g.offset + g.length) (g.payload.drop (g.boundary - g.offset)) =
        (Z.setCtx i d', b.refuses slotB g.upPiece) ∧
      Asked X Y i e d (c.slotted (g.offset / 65536) a b slotA slotB) g (g.offset / 65536) a slotA
        (decide (g.offset / 65536 = c.head)) g.lowPiece g.offset g.boundary ∧
      Asked Y Z i d d' (c.slotted (g.offset / 65536) a b slotA slotB) g (g.offset / 65536 + 1) b slotB false g.upPiece
        g.boundary (g.offset + g.length) := by
  have hlow := h.lowChunk
  have hup := h.upChunk
  have hslottedLow := h.slotted_low (slotA := slotA) (slotB := slotB)
  have hslottedUp := h.slotted_up (slotA := slotA) (slotB := slotB)
  obtain ⟨-, hcommitted, -, -, hpos, ha, hb, htakesA, htakesB, -, -, hemptyA, hemptyB⟩ := h
  obtain ⟨hA, hB, hdifferent⟩ := hslots
  have hkept : e.window = c.window ∧ e.w = c.w ∧ e.committed = c.committed := by rw [he]; exact ⟨rfl, rfl, rfl⟩
  obtain ⟨hwindow, hw, hec⟩ := hkept
  have hposOf : ∀ k, e.posOf k = c.posOf k := fun k => by rw [Context.posOf, hw]; rfl
  have hhead : e.head = c.head := by rw [Context.head, hec]; rfl
  have hfrom : g.mergedFrom a slotA ≤ g.boundary := by
    have := hlow.nonempty
    unfold Segment.mergedFrom
    split_ifs <;> omega
  have hto : g.boundary ≤ g.mergedTo b slotB := by
    have := hup.nonempty
    unfold Segment.mergedTo
    split_ifs <;> omega
  obtain ⟨Y, d, hfirst, haskedA⟩ := State.placePiece_asked (X := X) (i := i) (c := e) (g := g)
    (c' := c.slotted (g.offset / 65536) a b slotA slotB) (slot := slotA) hlow le_rfl
    (by rw [hposOf, hwindow]; exact ha) htakesA (fun hnone => (hemptyA hnone).2) (by rw [hhead]; exact hA) hw.symm
    (by rw [hposOf]; exact hslottedLow) hX fun hmerged => by
      rw [← Segment.lowPiece_eq] at hmerged
      exact hsound.mono (by rw [Segment.mergedFrom, if_pos (decide_eq_true hmerged)]) hto
  rw [← Segment.lowPiece_eq, hhead] at haskedA
  rw [← Segment.lowPiece_eq] at hfirst
  have hdkept : d.w = c.w ∧ d.committed = c.committed := by
    rw [haskedA.context]
    exact ⟨hw, hec⟩
  have hdposOf : ∀ k, d.posOf k = c.posOf k := fun k => by rw [Context.posOf, hdkept.1]; rfl
  have hdhead : decide (g.offset / 65536 + 1 = d.head) = false := by
    rw [decide_eq_false_iff_not, Context.head, hdkept.2, Config.chunkSize]
    omega
  have hdb : d.window[d.posOf (g.offset / 65536 + 1)]? = some b := by
    rw [hdposOf, haskedA.context, hposOf]
    refine (List.getElem?_set_ne hpos).trans ?_
    rw [hwindow]
    exact hb
  have hYpool : Y.pool =
      X.pool.grant i (c.posOf (g.offset / 65536)) (decide (g.offset / 65536 = c.head)) (a.grant slotA) := by
    rw [haskedA.device, hposOf]
  obtain ⟨Z, d', hsecond, haskedB⟩ := State.placePiece_asked (X := Y) (i := i) (c := d) (g := g)
    (c' := c.slotted (g.offset / 65536) a b slotA slotB) (slot := slotB) hup
    hlow.nonempty.le hdb htakesB (fun hnone => (hemptyB hnone).2) (by rw [hdhead, hYpool]; exact hB) hdkept.1.symm
    (by rw [hdposOf]; exact hslottedUp) haskedA.stores fun hmerged => by
      rw [← Segment.upPiece_eq] at hmerged
      intro z w hz hzto hfresh
      rw [haskedA.words _ fun low hlowSlot => ?_]
      · exact hsound z w (hfrom.trans hz) (hzto.trans_eq (if_pos (decide_eq_true hmerged)).symm) hfresh
      · obtain ⟨up, hupSlot⟩ := ChunkRecord.slot_of_refuses hmerged
        have hdiv : z / 65536 = g.offset / 65536 + 1 := by
          have := hup.low
          have := hup.high
          omega
        rw [Context.freshAddress_slot hfresh (by rw [hdiv]; exact hslottedUp) hupSlot]
        refine bufferAddress_slot_ne ?_ _
        rintro rfl
        rcases hdifferent with hnone | hne
        · exact absurd (hlowSlot.symm.trans hnone) (by simp)
        · exact hne (hlowSlot.trans hupSlot.symm)
  rw [← Segment.upPiece_eq, hdhead] at haskedB
  rw [← Segment.upPiece_eq] at hsecond
  exact ⟨Y, d, Z, d', hfirst, hsecond, haskedA, haskedB⟩

/-! ## Both pieces -/

/-- The reasons of the pieces dropped. -/
def lostOf (ra rb : Option DropReason) : List DropReason := [ra, rb].filterMap id

theorem State.placePieces_two {Y Z : State} {o : Nat} {payload : List Byte} {p q : Nat × Nat} {ra rb : Option DropReason}
    (hp : X.placePiece i p.1 p.2 (payload.drop (p.1 - o)) = (Y, ra))
    (hq : Y.placePiece i q.1 q.2 (payload.drop (q.1 - o)) = (Z, rb)) :
    X.placePieces i o payload [p, q] = ⟨Z, if decide (ra = none) || decide (rb = none)
      then some (if decide (rb = none) then q.2 else p.2) else none, lostOf ra rb⟩ := by
  cases ra with
  | none =>
    rw [State.placePieces_merged hp]
    cases rb with
    | none => rw [State.placePieces_merged hq]; rfl
    | some rb => rw [State.placePieces_lost hq]; rfl
  | some ra =>
    rw [State.placePieces_lost hp]
    cases rb with
    | none => rw [State.placePieces_merged hq]; rfl
    | some rb => rw [State.placePieces_lost hq]; rfl

theorem lostOf_ne_nil {ra rb : Option DropReason} (h : (decide (ra = none) || decide (rb = none)) = false) :
    lostOf ra rb ≠ [] := by
  cases ra with
  | none => exact absurd h (by simp)
  | some ra => cases rb <;> simp [lostOf]

/-- Some piece of the segment is merged. -/
def Segment.accepts (g : Segment) (a b : ChunkRecord) (slotA slotB : Option Slot) : Bool :=
  decide (a.refuses slotA g.lowPiece = none) || decide (b.refuses slotB g.upPiece = none)

def Segment.loses (g : Segment) (a b : ChunkRecord) (slotA slotB : Option Slot) : List DropReason :=
  lostOf (a.refuses slotA g.lowPiece) (b.refuses slotB g.upPiece)

/-- The bytes of the pieces merged, and those of them that were held. -/
def Segment.mergedBytes (g : Segment) (a b : ChunkRecord) (slotA slotB : Option Slot) : Nat :=
  (if decide (a.refuses slotA g.lowPiece = none) then 65536 - g.lowPiece.start else 0) +
    if decide (b.refuses slotB g.upPiece = none) then g.upPiece.stop else 0

def Segment.mergedHeld (g : Segment) (a b : ChunkRecord) (slotA slotB : Option Slot) : Nat :=
  (if decide (a.refuses slotA g.lowPiece = none) then heldOf g.lowPiece a.ranges else 0) +
    if decide (b.refuses slotB g.upPiece = none) then heldOf g.upPiece b.ranges else 0

/-- The byte counts after two pieces, each merged or not. -/
theorem StreamCounters.absorb_two (n : StreamCounters) {p q : Prop} [Decidable p] [Decidable q]
    {lenA lenB heldA heldB : Nat} (hA : heldA ≤ lenA) (hB : heldB ≤ lenB) :
    (if q then (if p then n.absorb true lenA heldA else n).absorb true lenB heldB
      else if p then n.absorb true lenA heldA else n) = { n with
      acceptedBytes := if decide p || decide q then satAdd64 n.acceptedBytes
        ((if decide p then lenA else 0) + (if decide q then lenB else 0) -
          ((if decide p then heldA else 0) + if decide q then heldB else 0)) else n.acceptedBytes
      duplicateBytes := if decide p || decide q then satAdd64 n.duplicateBytes
        ((if decide p then heldA else 0) + if decide q then heldB else 0) else n.duplicateBytes } := by
  have hboth : lenA + lenB - (heldA + heldB) = (lenA - heldA) + (lenB - heldB) := by omega
  by_cases hp : p
  · by_cases hq : q
    · simp only [hp, hq, if_true, decide_true, Bool.or_self, hboth, ← satAdd64_satAdd64]
      rfl
    · simp only [hp, hq, if_true, if_false, decide_true, decide_false, Bool.or_false, Bool.false_eq_true, Nat.add_zero]
      rfl
  · by_cases hq : q
    · simp only [hp, hq, if_true, if_false, decide_true, decide_false, Bool.false_or, Bool.false_eq_true, Nat.zero_add]
      rfl
    · simp only [hp, hq, if_false, decide_false, Bool.or_self, Bool.false_eq_true]

/-- The window after both pieces. -/
def Context.windowAfter (c : Context) (g : Segment) (a b : ChunkRecord) (slotA slotB : Option Slot) : List ChunkRecord :=
  (c.window.set (c.posOf (g.offset / 65536)) (a.taking slotA g.lowPiece (chunkLength c.final (g.offset / 65536)))).set
    (c.posOf (g.offset / 65536 + 1)) (b.taking slotB g.upPiece (chunkLength c.final (g.offset / 65536 + 1)))

/-- From `X` and `c` to `Z` and `d` both pieces of a segment were merged or dropped. -/
structure AskedTwo (X Z : State) (i : StreamIndex) (c d : Context) (g : Segment) (a b : ChunkRecord)
    (slotA slotB : Option Slot) : Prop where
  device : Z = { X with
    live := Z.live, buffer := Z.buffer, words := Z.words
    pool := (X.pool.grant i (c.posOf (g.offset / 65536)) (decide (g.offset / 65536 = c.head)) (a.grant slotA)).grant i
      (c.posOf (g.offset / 65536 + 1)) false (b.grant slotB)
    verifyQueue := X.verifyQueue ++
      (if (a.taking slotA g.lowPiece (chunkLength c.final (g.offset / 65536))).state = .queued
        then [⟨i, c.posOf (g.offset / 65536)⟩] else []) ++
      (if (b.taking slotB g.upPiece (chunkLength c.final (g.offset / 65536 + 1))).state = .queued
        then [⟨i, c.posOf (g.offset / 65536 + 1)⟩] else []) }
  counters : CountersKept X Z [.correctedErrors]
  unchanged : g.accepts a b slotA slotB = false → ∀ n, Z.counter n = X.counter n
  bytes : BytesPlaced X Z (c.slotted (g.offset / 65536) a b slotA slotB) g (g.mergedFrom a slotA) (g.mergedTo b slotB)
  context : d = { c with
    window := c.windowAfter g a b slotA slotB
    counts := { c.counts with
      acceptedBytes := if g.accepts a b slotA slotB then
        satAdd64 c.counts.acceptedBytes (g.mergedBytes a b slotA slotB - g.mergedHeld a b slotA slotB)
        else c.counts.acceptedBytes
      duplicateBytes := if g.accepts a b slotA slotB then
        satAdd64 c.counts.duplicateBytes (g.mergedHeld a b slotA slotB) else c.counts.duplicateBytes } }

/-- The bytes of the pieces merged, which go to different slots. -/
theorem TwoPieces.bytes {Y Z : State} {d d' : Context} (h : TwoPieces g c a b) (hdifferent : slotA = none ∨ slotA ≠ slotB)
    (hA : Asked X Y i c d (c.slotted (g.offset / 65536) a b slotA slotB) g (g.offset / 65536) a slotA
      (decide (g.offset / 65536 = c.head)) g.lowPiece g.offset g.boundary)
    (hB : Asked Y Z i d d' (c.slotted (g.offset / 65536) a b slotA slotB) g (g.offset / 65536 + 1) b slotB false g.upPiece
      g.boundary (g.offset + g.length)) :
    BytesPlaced X Z (c.slotted (g.offset / 65536) a b slotA slotB) g (g.mergedFrom a slotA) (g.mergedTo b slotB) := by
  have hlow := h.lowChunk
  have hup := h.upChunk
  unfold Segment.mergedFrom Segment.mergedTo
  by_cases hmA : a.refuses slotA g.lowPiece = none
  · rw [if_pos (decide_eq_true hmA)]
    by_cases hmB : b.refuses slotB g.upPiece = none
    · rw [if_pos (decide_eq_true hmB)]
      obtain ⟨low, rfl⟩ := ChunkRecord.slot_of_refuses hmA
      obtain ⟨up, rfl⟩ := ChunkRecord.slot_of_refuses hmB
      have hne : low ≠ up := fun e => hdifferent.elim (by simp) fun hne => hne (congrArg some e)
      refine (hA.placed hmA).append (hB.placed hmB) hlow.nonempty.le hup.nonempty.le fun z z' _ hz hzb hz' hzto hfresh => ?_
      have hdiv : z / 65536 = g.offset / 65536 ∧ z' / 65536 = g.offset / 65536 + 1 := by
        have := hlow.high
        have := hup.low
        have := hup.high
        omega
      exact Context.freshAddress_disjoint (by rw [hdiv.1]; exact h.slotted_low) rfl (by rw [hdiv.2]; exact h.slotted_up) rfl
        hne hfresh
    · rw [if_neg (by simpa using hmB)]
      exact (hA.placed hmA).of_buffer rfl (hB.kept hmB).1
  · rw [if_neg (by simpa using hmA)]
    by_cases hmB : b.refuses slotB g.upPiece = none
    · rw [if_pos (decide_eq_true hmB)]
      exact (hB.placed hmB).of_buffer (hA.kept hmA).1.symm rfl
    · rw [if_neg (by simpa using hmB)]
      have hnone : BytesPlaced X X (c.slotted (g.offset / 65536) a b slotA slotB) g g.boundary g.boundary :=
        bytesPlaced_none fun z hz hzb => absurd hzb (not_lt.mpr hz)
      exact hnone.of_buffer rfl ((hB.kept hmB).1.trans (hA.kept hmA).1)

theorem TwoPieces.askedTwo {Y Z : State} {d d' : Context} (h : TwoPieces g c a b)
    (hslots : SlotsAsked X i c (g.offset / 65536) a b slotA slotB)
    (hA : Asked X Y i c d (c.slotted (g.offset / 65536) a b slotA slotB) g (g.offset / 65536) a slotA
      (decide (g.offset / 65536 = c.head)) g.lowPiece g.offset g.boundary)
    (hB : Asked Y Z i d d' (c.slotted (g.offset / 65536) a b slotA slotB) g (g.offset / 65536 + 1) b slotB false g.upPiece
      g.boundary (g.offset + g.length)) : AskedTwo X Z i c d' g a b slotA slotB := by
  have hcontextA := hA.context
  have hcontextB := hB.context
  rw [hcontextA] at hcontextB
  obtain ⟨-, -, -, -, -, -, -, -, -, hwfA, hwfB, -, -⟩ := id h
  refine ⟨?_, fun n hn => (hB.counters n hn).trans (hA.counters n hn), fun hnot n => ?_, ?_, ?_⟩
  · have hdevice := hB.device
    rw [hA.device, hcontextA] at hdevice
    exact hdevice
  · obtain ⟨hrefA, hrefB⟩ := Bool.or_eq_false_iff.mp hnot
    exact ((hB.kept (of_decide_eq_false hrefB)).2 n).trans ((hA.kept (of_decide_eq_false hrefA)).2 n)
  · exact h.bytes hslots.different hA hB
  · have hcounts := c.counts.absorb_two (p := a.refuses slotA g.lowPiece = none) (q := b.refuses slotB g.upPiece = none)
      (heldOf_le (piece := g.lowPiece) hwfA) (heldOf_le (piece := g.upPiece) hwfB)
    have hlengths : g.lowPiece.stop - g.lowPiece.start = 65536 - g.lowPiece.start ∧
        g.upPiece.stop - g.upPiece.start = g.upPiece.stop := ⟨by rw [Segment.lowPiece], Nat.sub_zero _⟩
    rw [hcontextB]
    rw [hlengths.1, hlengths.2] at hcounts ⊢
    exact congrArg (fun n => ({ c with window := c.windowAfter g a b slotA slotB, counts := n } : Context)) hcounts

section
variable (h : TwoPieces g c a b)
include h

theorem TwoPieces.windowAfter_low : (c.windowAfter g a b slotA slotB)[c.posOf (g.offset / 65536)]? =
    some (a.taking slotA g.lowPiece (chunkLength c.final (g.offset / 65536))) := by
  obtain ⟨-, -, -, -, hpos, ha, -⟩ := h
  exact (List.getElem?_set_ne hpos.symm).trans (List.getElem?_set_self (List.getElem?_eq_some_iff.mp ha).1)

theorem TwoPieces.windowAfter_up : (c.windowAfter g a b slotA slotB)[c.posOf (g.offset / 65536 + 1)]? =
    some (b.taking slotB g.upPiece (chunkLength c.final (g.offset / 65536 + 1))) := by
  obtain ⟨-, -, -, -, -, -, hb, -⟩ := h
  exact List.getElem?_set_self (by rw [List.length_set]; exact (List.getElem?_eq_some_iff.mp hb).1)

end

theorem Context.windowAfter_other (c : Context) {p : Nat} (hp : p ≠ c.posOf (g.offset / 65536))
    (hq : p ≠ c.posOf (g.offset / 65536 + 1)) : (c.windowAfter g a b slotA slotB)[p]? = c.window[p]? :=
  (List.getElem?_set_ne hq.symm).trans (List.getElem?_set_ne hp.symm)

end

end Sys2Proof.Machine
end

section
/-! # Pieces that ask for a slot: the segment of two pieces as a whole (O19) -/

namespace Sys2Proof.Machine

/-! ## The pool after two requests -/

theorem ChunkRecord.grant_eq_some {r : ChunkRecord} {slot : Option Slot} {z : Slot} :
    r.grant slot = some z ↔ (r.slot.isNone && slot.isSome) = true ∧ slot = some z := by
  unfold ChunkRecord.grant
  cases r.slot <;> cases slot <;> simp

theorem Pool.grant_grant (p : Pool) (i : StreamIndex) (pos next : Nat) (head : Bool) (low up : Option Slot) :
    (p.grant i pos head low).grant i next false up = { p with
      freeList := p.freeList.drop ((if low.isSome then 1 else 0) + if up.isSome then 1 else 0)
      reserve := if low.isSome && head then p.reserve - 1 else p.reserve
      uses := ((p.grant i pos head low).grant i next false up).uses } := by
  have htwo : p.freeList.tail.tail = p.freeList.drop 2 := by rw [← List.drop_one, ← List.drop_one, List.drop_drop]
  cases low <;> cases up <;> simp [Pool.grant, htwo]

/-! ## The segment -/

section
variable {X : State} {i : StreamIndex} {c : Context} {g : Segment} {a b : ChunkRecord} {slotA slotB : Option Slot}

theorem TwoPieces.placeSegment (h : TwoPieces g c a b) (X : State) (i : StreamIndex) (l : LaneId) :
    (X.setCtx i c).placeSegment i c l g = X.placeWithin i c l g false g.offset (g.offset + g.length) := by
  have hlow := h.lowChunk.nonempty
  have hup := h.upChunk.nonempty
  obtain ⟨hlast, hcommitted, hwindow, -⟩ := h
  have hx : max g.offset c.committed = g.offset := max_eq_left hcommitted
  have hy : min (g.offset + g.length) c.windowEnd = g.offset + g.length := min_eq_left hwindow
  rw [State.placeSegment_within _ _ _ _ _ (by omega) (by simp [hlast]) (by rw [hx, hy]; omega), hx, hy, hlast]

/-- The stream before a segment whole inside the window. -/
def Context.oldCounted (c : Context) : Context :=
  { c with counts := { c.counts with oldBytes := satAdd64 c.counts.oldBytes 0 } }

theorem TwoPieces.concluded (h : TwoPieces g c a b) (l : LaneId)
    (hslots : SlotsAsked X i c (g.offset / 65536) a b slotA slotB) (hX : X.StoresWF)
    (hsound : WordsSound X (c.slotted (g.offset / 65536) a b slotA slotB) (g.mergedFrom a slotA) (g.mergedTo b slotB)) :
    ∃ Z d, (X.setCtx i c).placeSegment i c l g =
        (Z.concluded i d (g.accepts a b slotA slotB) (g.mergedTo b slotB) (g.loses a b slotA slotB)).setCtx i
          (d.concluded Z.time l (decide ((Z.lane l).state = .active)) (g.accepts a b slotA slotB) (g.mergedTo b slotB)
            (g.loses a b slotA slotB)) ∧
      AskedTwo X Z i c.oldCounted d g a b slotA slotB := by
  have h' : TwoPieces g c.oldCounted a b := h
  have hslots' : SlotsAsked X i c.oldCounted (g.offset / 65536) a b slotA slotB := ⟨hslots.low, hslots.up, hslots.different⟩
  obtain ⟨Y, d, Z, d', hfirst, hsecond, hA, hB⟩ := h'.asked hslots' hX hsound c.oldCounted rfl
  refine ⟨Z, d', ?_, h'.askedTwo hslots' hA hB⟩
  rw [h.placeSegment]
  refine State.placeWithin_concluded ?_ lostOf_ne_nil
  rw [Nat.sub_self, Context.enters_false, piecesOf_two h.lowChunk h.upChunk.nonempty]
  exact State.placePieces_two hfirst hsecond

/-- The stream after both pieces and the bookkeeping of the segment. -/
theorem AskedTwo.concluded_eq {Z : State} {d : Context} (h : AskedTwo X Z i c.oldCounted d g a b slotA slotB) (now : Nat)
    (l : LaneId) (active : Bool) :
    d.concluded now l active (g.accepts a b slotA slotB) (g.mergedTo b slotB) (g.loses a b slotA slotB) = { c with
      counts := { c.counts.charge (g.loses a b slotA slotB) with
        acceptedBytes := if g.accepts a b slotA slotB then
          satAdd64 c.counts.acceptedBytes (g.mergedBytes a b slotA slotB - g.mergedHeld a b slotA slotB)
          else c.counts.acceptedBytes
        duplicateBytes := if g.accepts a b slotA slotB then
          satAdd64 c.counts.duplicateBytes (g.mergedHeld a b slotA slotB) else c.counts.duplicateBytes
        oldBytes := satAdd64 c.counts.oldBytes 0 }
      lastArrival := if g.accepts a b slotA slotB then now else c.lastArrival
      idleReported := c.idleReported && !g.accepts a b slotA slotB
      replyLane := if g.accepts a b slotA slotB && active then some l else c.replyLane
      earlyWarningIssued := c.earlyWarningIssued ||
        (g.accepts a b slotA slotB && decide (c.earlyWarningPoint < g.mergedTo b slotB))
      window := c.windowAfter g a b slotA slotB } := by
  rw [h.context, ← StreamCounters.charge_bytes]
  rfl

end

/-- Settles O19: one piece granted or dropped; two pieces, the lower asking first. -/
theorem pieceAsksForASlot : Obligations.PieceAsksForASlot := by
  intro s l rest g i c h hs hcan k
  refine ⟨fun r hone => ⟨fun slot tail hnone hempty hranges hfree hgrant =>
    hone.granted h hs hcan hnone hempty hranges hfree hgrant, fun reason hreason => hone.dropped h hs hreason⟩, ?_⟩
  intro a b htwo _ low up slotA grantA reserve slotB grantB mergedA mergedB accepted lost bytes held x y slotted lower upper
    warns hdifferent hsound
  have hstores : s.StoresWF := ((canonicalForm_iff s).mp hcan).2
  have hslots : SlotsAsked (s.taken l rest) i c (g.offset / 65536) a b slotA slotB := by
    refine ⟨rfl, ?_, hdifferent⟩
    rw [Pool.grant_freeList, Pool.grant_reserve, ChunkRecord.grant_isSome]
    rfl
  obtain ⟨Z, d, hplaced, htwoAsked⟩ := htwo.concluded (X := s.taken l rest) l hslots hstores hsound
  obtain ⟨hdevice, hcounters, hunchanged, hbytes, hcontext⟩ := id htwoAsked
  have hZtime : Z.time = s.time := by rw [hdevice]; rfl
  have hZlane : (Z.lane l).state = (s.lane l).state := by
    have hZ : Z.lane l = (s.taken l rest).lane l := by rw [hdevice]; rfl
    rw [hZ, State.taken, State.lane_setLane_self]
    rfl
  rw [hZtime, hZlane] at hplaced
  generalize hW : Z.concluded i d (g.accepts a b slotA slotB) (g.mergedTo b slotB) (g.loses a b slotA slotB) = W at hplaced
  generalize hd : d.concluded s.time l (decide ((s.lane l).state = .active)) (g.accepts a b slotA slotB)
    (g.mergedTo b slotB) (g.loses a b slotA slotB) = e at hplaced
  have hkept : g.accepts a b slotA slotB = true → CountersKept Z W [.eventsLost] := fun haccepts => by
    rw [← hW]; exact State.concluded_accepted _ _ _ _ _ _ haccepts
  have hdropped : g.accepts a b slotA slotB = false → ∀ reason, (g.loses a b slotA slotB).head? = some reason →
      Counted Z W (.drop reason) 1 := fun haccepts reason hreason => by
    rw [← hW]; exact State.concluded_dropped _ _ _ _ _ _ haccepts hreason
  have hsays : SaysAs (Z.raiseWhen (warns && !c.earlyWarningIssued) (.earlyWarning i c.tag c.earlyWarningPoint y)) W := by
    have hconcluded := Z.concluded_says i d (g.accepts a b slotA slotB) (g.mergedTo b slotB) (g.loses a b slotA slotB)
    rw [hW, hcontext] at hconcluded
    exact hconcluded
  have he := hd.symm.trans (htwoAsked.concluded_eq s.time l _)
  have hwindow : e.window = c.windowAfter g a b slotA slotB := by rw [he]
  have hstate : e.state = c.state ∧ e.streaming = c.streaming ∧ e.flushPending = c.flushPending := by
    rw [he]
    exact ⟨rfl, rfl, rfl⟩
  rw [← hwindow] at he
  have hWrest : W = { Z with live := W.live, events := W.events, errors := W.errors } := by
    rw [← hW]
    exact State.concluded_rest _ _ _ _ _ _
  have hWlanes : W.lanes = (s.taken l rest).lanes := by rw [hWrest, hdevice]
  have hWtable : W.table = s.table := by rw [hWrest, hdevice]; rfl
  have hWbuffer : W.buffer = Z.buffer := by rw [hWrest]
  have hWqueue : W.verifyQueue = Z.verifyQueue := by rw [hWrest]
  have hWpool : W.pool = (s.pool.grant i (c.posOf k) (decide (k = c.head)) (a.grant slotA)).grant i (c.posOf (k + 1)) false
      (b.grant slotB) := by
    rw [hWrest, hdevice]
    rfl
  refine ⟨W.setCtx i e.flagsTested, e.flagsTested, nextSegment_exec_receiving h hs hplaced hstate.1, laneTook_taken hWlanes,
    otherEntries_setCtx hs.2.1 hWtable i _, holds_setCtx _ i _, hbytes.of_buffer rfl hWbuffer, ?_, ?_,
    fun p hp hq => ?_, ?_, ?_, fun z => ?_, ?_, flagsTested_flagsTested hstate.2.1 hstate.2.2,
    fun haccepted n hn => ?_, fun hnot reason hreason n => ?_, ?_, ?_⟩
  · exact (congrArg (·[c.posOf k]?) hwindow).trans htwo.windowAfter_low
  · exact (congrArg (·[c.posOf (k + 1)]?) hwindow).trans htwo.windowAfter_up
  · exact (congrArg (·[p]?) hwindow).trans (c.windowAfter_other hp hq)
  · refine hWqueue.trans ?_
    rw [hdevice]
    rfl
  · refine hWpool.trans ((Pool.grant_grant _ _ _ _ _ _ _).trans ?_)
    rw [ChunkRecord.grant_isSome, ChunkRecord.grant_isSome, ← hWpool]
    rfl
  · refine (congrArg (·.use z) hWpool).trans ?_
    simp only [Pool.use_grant (Pool.grant_uses hstores.2.2.1), Pool.use_grant hstores.2.2.1, ChunkRecord.grant_eq_some]
    rfl
  · exact congrArg (fun x : Context => { x with
      streaming := e.flagsTested.streaming, flushPending := e.flagsTested.flushPending }) he
  · simp only [List.mem_cons, List.not_mem_nil, or_false, not_or] at hn
    exact (hkept haccepted n (by simpa using hn.2)).trans (hcounters n (by simpa using hn.1))
  · refine (hdropped hnot reason hreason n).trans ?_
    rw [hunchanged hnot]
    rfl
  · have hZsays : SaysAs s Z := by rw [hdevice]; exact ⟨rfl, rfl, rfl, rfl⟩
    have hsaid := (hZsays.raiseWhen (warns && !c.earlyWarningIssued)
      (.earlyWarning i c.tag c.earlyWarningPoint y)).trans hsays
    exact ⟨hsaid.events, hsaid.errors⟩
  · have hZframe : SegmentFrame (s.taken l rest) Z := ⟨by rw [hdevice]⟩
    have hWframe : SegmentFrame Z W := ⟨by rw [hWrest]⟩
    exact ((((s.taken_frame l rest).trans hZframe).trans hWframe).trans (State.setCtx_frame _ i e.flagsTested)).rest

end Sys2Proof.Machine
end

section
/-! # The pool state and the watermarks (R86, R87; O59)

A command that may change spare, the pool state or a watermark ends with the watermark test, and the test leaves the pool
state in agreement with the figures. Every other command leaves the three alone, or leaves the device out of READY. -/

namespace Sys2Proof.Machine

/-! ## The watermark test (R86) -/

/-- What the test leaves agrees with the watermarks, whatever the pool state was. -/
theorem Pool.tested_follows (p : Pool) {low high : Nat} (h : low < high) :
    (p.tested low high = .ok → low ≤ p.spare) ∧ (p.tested low high = .low → p.spare < high) := by
  unfold Pool.tested
  cases p.state with
  | ok =>
    by_cases hspare : p.spare < low
    · simp [hspare]; omega
    · simp [hspare]; omega
  | low =>
    by_cases hspare : high ≤ p.spare
    · simp [hspare]; omega
    · simp [hspare]; omega

theorem State.poolTest_pool {s : State} (h : s.device = .ready) :
    s.poolTest.pool = { s.pool with state := s.pool.tested s.settings.low s.settings.high } := by
  unfold State.poolTest
  dsimp only
  split_ifs with hchange
  · simp
  · have hsame : s.pool.tested s.settings.low s.settings.high = s.pool.state := by simpa [h] using hchange
    rw [hsame]

theorem State.poolTest_follows {s : State} (h : s.settings.low < s.settings.high) : PoolFollowsSpare s.poolTest := by
  intro hready
  rw [State.poolTest_device] at hready
  rw [State.poolTest_pool hready, State.poolTest_settings]
  exact Pool.tested_follows s.pool h

/-! ## How a command ends -/

/-- A command's outcome: the state it leaves, if any, keeps the pool state in agreement with the watermarks. -/
def FollowsInto (s : State) (o : Host.Outcome State Fault Refusal) : Prop :=
  ∀ t, o = .next t → s.settings.InRange → PoolFollowsSpare s → PoolFollowsSpare t

/-- The watermark test ends the event, under settings in range. -/
theorem FollowsInto.tested {s u : State} (h : s.settings.InRange → u.settings.InRange) :
    FollowsInto s (.next u.poolTest) := by
  intro t ht hrange _
  rw [← Host.Outcome.next.inj ht]
  exact State.poolTest_follows (h hrange).2.1

theorem FollowsInto.of_settings {s u : State} (h : u.settings = s.settings) : FollowsInto s (.next u.poolTest) :=
  .tested fun hrange => h ▸ hrange

/-- All that the agreement speaks of. -/
def State.gauge (s : State) : DeviceState × Settings × Pool := (s.device, s.settings, s.pool)

theorem PoolFollowsSpare.of_gauge {s t : State} (h : t.gauge = s.gauge) (hs : PoolFollowsSpare s) : PoolFollowsSpare t := by
  simp only [State.gauge, Prod.mk.injEq] at h
  obtain ⟨hdevice, hsettings, hpool⟩ := h
  rw [PoolFollowsSpare, hdevice, hsettings, hpool]
  exact hs

theorem FollowsInto.of_gauge {s t : State} (h : t.gauge = s.gauge) : FollowsInto s (.next t) :=
  fun _ hu _ hs => Host.Outcome.next.inj hu ▸ hs.of_gauge h

/-- Outside READY the pool state follows nothing. -/
theorem FollowsInto.of_notReady {s t : State} (h : t.device ≠ .ready) : FollowsInto s (.next t) :=
  fun _ hu _ _ hready => absurd (Host.Outcome.next.inj hu ▸ hready) h

theorem FollowsInto.refl (s : State) : FollowsInto s (.next s) := .of_gauge rfl

theorem State.raise_gauge (s : State) (e : Event) : (s.raise e).gauge = s.gauge := by simp [State.gauge]

/-- A host command is taken, or nothing is done (R162). -/
theorem FollowsInto.takeWhen {s : State} {accepts : Nat → Bool} {body : State → List Byte → State}
    (h : ∀ rest record, FollowsInto (s.dequeued rest) (.next (body (s.dequeued rest) record))) :
    FollowsInto s (.next (s.takeWhen accepts body)) := by
  unfold State.takeWhen
  split
  · exact .refl s
  · split
    · exact h _ _
    · exact .refl s

/-- A command answered NOT_READY outside READY ends with the watermark test in READY. -/
theorem FollowsInto.takeCommand {s : State} {code : Nat} {body : State → List Byte → State}
    (h : ∀ t record, t.settings.InRange → (body t record).settings.InRange) :
    FollowsInto s (.next (s.takeCommand code body)) := by
  refine .takeWhen fun rest record => ?_
  split
  · exact .tested (h _ record)
  · exact .of_gauge rfl

theorem Responds.settings {s t : State} (h : Responds s t) : t.settings = s.settings := by
  obtain ⟨u, record, status, data, hu, rfl⟩ := h
  exact hu.settings

theorem FollowsInto.of_responds {s : State} {code : Nat} {body : State → List Byte → State}
    (h : ∀ t record, Responds t (body t record)) : FollowsInto s (.next (s.takeCommand code body)) :=
  .takeCommand fun t record hrange => (h t record).settings ▸ hrange

/-! ## The settings (R171) -/

theorem State.laneActive_settings (s : State) (l : LaneId) (v : Lane) (cause : LaneCause) :
    (s.laneActive l v cause).settings = s.settings := by
  unfold State.laneActive
  exact (State.redirect_orderly _ _ _ _).settings.trans ((State.raise_settings _ _).trans (s.setLane_settings _ _))

theorem State.laneQuiesced_settings (s : State) (l : LaneId) : (s.laneQuiesced l).settings = s.settings := by
  unfold State.laneQuiesced
  exact (State.redirect_orderly _ _ _ _).settings.trans ((State.raise_settings _ _).trans (s.setLane_settings _ _))

theorem State.linkLost_settings (s : State) (l : LaneId) (cause : LaneCause) :
    (s.linkLost l cause).settings = s.settings := by
  unfold State.linkLost
  dsimp only
  split_ifs
  · rfl
  · rw [State.raise_settings, (State.putBackAll_orderly _ _).settings, (State.redirect_orderly _ _ _ _).settings]
    rfl
  · rw [State.raise_settings, (State.putBackAll_orderly _ _).settings]
    rfl

theorem State.placeStreamOrCredit_settings (s : State) (l : LaneId) :
    (s.placeStreamOrCredit l).settings = s.settings := by
  unfold State.placeStreamOrCredit
  dsimp only
  have hturn := (s.turn_orderly (turnOrder (s.lane l).turn) (s.servable l)).settings
  generalize s.turn (turnOrder (s.lane l).turn) (s.servable l) = r at hturn ⊢
  rw [← hturn]
  split
  · unfold State.serveStream
    split
    · rfl
    · split <;> rfl
  · split <;> rfl

theorem State.takeHead_settings (s : State) : s.takeHead.settings = s.settings := by
  unfold State.takeHead
  dsimp only
  have hread := (s.checkRead_orderly ((s.offered.takeWhile fun o => !(s.entry o.stream).parityGood).map (·.stream))).settings
  generalize s.checkRead _ = t at hread ⊢
  rw [← hread]
  split
  · rfl
  · unfold State.takeOffer
    dsimp only
    rw [State.answerTake_settings, (State.settle_orderly _ _).settings, (State.modifyChunk_orderly _ _ _ _).settings]

theorem State.readRecord_settings (s : State) (q : ReadRequest) (d : DrainRecord) :
    (s.readRecord q d).settings = s.settings := by
  unfold State.readRecord State.readChunk
  split
  · split
    · split
      · rfl
      · exact (s.reportRead_orderly _ _ _ _).settings
    · rfl
  · rfl

theorem State.makeOffer_settings (s : State) (i : StreamIndex) : (s.makeOffer i).settings = s.settings := by
  unfold State.makeOffer
  split
  · rfl
  · split
    · rfl
    · dsimp only
      rw [(State.settle_orderly _ _).settings]
      split <;> rfl

theorem State.serveFirst_settings (s : State) (order : List StreamIndex) : (s.serveFirst order).settings = s.settings := by
  unfold State.serveFirst
  have hturn := (s.turn_orderly order s.offerableAt).settings
  generalize s.turn order s.offerableAt = r at hturn ⊢
  dsimp only
  rw [← hturn]
  split
  · exact State.makeOffer_settings _ _
  · rfl

theorem State.withdrawMap_settings (s : State) : s.withdrawMap.settings = s.settings := by
  have hless : ∀ t : State, Orderly t { t with drainMap := [] } := fun t =>
    t.lessDrain_orderly (List.nil_sublist _) (.refl _)
  unfold State.withdrawMap
  dsimp only
  refine Orderly.settings (Orderly.trans (Orderly.trans ?_ (hless _)) (State.settleAll_orderly _ _))
  exact (State.handleAll_orderly _ s).trans (State.withdrawEach_orderly _ _)

theorem State.withdrawAll_settings (s : State) : s.withdrawAll.settings = s.settings := by
  have hless : ∀ t : State, Orderly t { t with drainMap := [], offered := [] } := fun t =>
    t.lessDrain_orderly (List.nil_sublist _) (List.nil_sublist _)
  unfold State.withdrawAll
  dsimp only
  refine Orderly.settings (Orderly.trans (Orderly.trans ?_ (hless _)) (State.settleAll_orderly _ _))
  exact (State.handleAll_orderly _ s).trans (State.withdrawEach_orderly _ _)

theorem State.enterReady_settings (s : State) : s.enterReady.settings = s.settings := by
  have hlane : ∀ (t : State) (l : LaneId), (t.laneAtReady l).settings = t.settings := by
    intro t l
    unfold State.laneAtReady
    dsimp only
    split
    · exact t.laneActive_settings _ _ _
    · rfl
  have hlanes : ∀ (l : List LaneId) (t : State), (l.foldl State.laneAtReady t).settings = t.settings := by
    intro l
    induction l with
    | nil => exact fun _ => rfl
    | cons l rest ih => exact fun t => (ih _).trans (hlane t l)
  unfold State.enterReady
  dsimp only
  split
  · rw [State.raise_settings, hlanes]
  · rw [hlanes]

/-! ## The commands -/

section
variable (s : State)

theorem execPushSegment_follows (l : LaneId) (record : List Byte) : FollowsInto s (execPushSegment l record s) := by
  unfold execPushSegment
  dsimp only
  split
  · split
    · exact .of_gauge rfl
    · exact .refl s
  · split
    · exact .of_gauge rfl
    · exact .of_gauge rfl

theorem execLinkUp_follows (l : LaneId) : FollowsInto s (execLinkUp l s) := by
  unfold execLinkUp
  dsimp only
  split
  · exact .of_settings (s.laneActive_settings _ _ _)
  · exact .of_gauge rfl

theorem execNoticeTake_follows (l : LaneId) : FollowsInto s (execNoticeTake l s) := by
  unfold execNoticeTake
  split
  · exact .of_gauge rfl
  · exact .of_gauge rfl

theorem execSegmentTake_follows (l : LaneId) : FollowsInto s (execSegmentTake l s) := by
  unfold execSegmentTake
  dsimp only
  split
  · exact .refl s
  · exact .refl s
  · exact .of_settings (State.handleSegment_orderly _ _ _).settings

theorem execNoticePlacement_follows (l : LaneId) : FollowsInto s (execNoticePlacement l s) := by
  unfold execNoticePlacement
  dsimp only
  split
  · split
    · exact .of_gauge rfl
    · split
      · exact .of_settings (s.placeStreamOrCredit_settings l)
      · exact .refl s
  · exact .refl s

theorem execTake_follows : FollowsInto s (execTake s) := by
  unfold execTake
  split
  · exact .of_gauge rfl
  · exact .of_settings s.takeHead_settings

theorem execRead_follows (record : List Byte) : FollowsInto s (execRead record s) := by
  unfold execRead
  dsimp only
  split
  · exact .of_gauge rfl
  · exact .of_settings ((State.readRecord_settings _ _ _).trans (s.checkParity_orderly _).settings)

/-- The end of a drain map record ends with the watermark test (R125). -/
theorem State.endRecord_follows {u : State} (h : u.settings = s.settings) (d : DrainRecord) (status : CompletionStatus)
    (check : Word) : FollowsInto s (.next (u.endRecord d status check)) := by
  unfold State.endRecord
  refine .of_settings (Eq.trans (Orderly.settings (Orderly.trans (Orderly.trans ?_
    (State.applyCompletion_orderly _ _ _ _ _)) (State.settle_orderly _ _))) h)
  exact (u.checkParity_orderly _).trans (State.lessDrain_orderly _ List.filter_sublist (.refl _))

theorem execComplete_follows (record : List Byte) : FollowsInto s (execComplete record s) := by
  unfold execComplete
  dsimp only
  split
  · split
    · exact .of_gauge rfl
    · exact .refl s
  · exact s.endRecord_follows rfl _ _ _

theorem execDrainTimeout_follows (tag : Word) : FollowsInto s (execDrainTimeout tag s) := by
  unfold execDrainTimeout
  split
  · exact .refl s
  · split
    · exact s.endRecord_follows (s.count_settings _ _) _ _ _
    · exact .refl s

theorem execWriterSignal_follows (signal : WriterSignal) : FollowsInto s (execWriterSignal signal s) := by
  unfold execWriterSignal
  dsimp only
  split
  · exact .refl s
  · split
    · cases signal with
      | ready => exact .of_gauge (State.raise_gauge _ _)
      | offline => exact .of_settings ((State.withdrawMap_settings _).trans (State.raise_settings _ _))
    · exact .of_gauge rfl

theorem execPortReset_follows : FollowsInto s (execPortReset s) := by
  unfold execPortReset
  refine .of_settings ((State.withdrawAll_settings _).trans ?_)
  cases s.writerState with
  | ready => exact State.raise_settings _ _
  | offline => rfl

theorem execArbiterTurn_follows : FollowsInto s (execArbiterTurn s) := by
  unfold execArbiterTurn
  split
  · exact .of_settings (s.serveFirst_settings _)
  · exact .refl s

theorem execEngineTake_follows : FollowsInto s (execEngineTake s) := by
  unfold execEngineTake
  split
  · exact .refl s
  · split
    · split
      · exact .of_settings (State.startVerify_orderly _ _).settings
      · exact .of_settings (s.checkParity_orderly _).settings
    · exact .refl s

theorem execVerifyCompletion_follows : FollowsInto s (execVerifyCompletion s) := by
  unfold execVerifyCompletion
  split
  · exact .refl s
  · refine .of_settings ?_
    rw [(State.settle_orderly _ _).settings, (State.applyOutcome_orderly _ _ _ _).settings,
      (State.countVerification_orderly _ _).settings]
    exact ((s.reportRead_orderly _ _ _ _).trans (State.checkParity_orderly _ _)).settings

theorem execCommandWrite_follows (record : List Byte) : FollowsInto s (execCommandWrite record s) := by
  unfold execCommandWrite
  dsimp only
  split
  · exact .of_gauge rfl
  · split
    · exact .of_gauge rfl
    · exact .of_gauge (State.raise_gauge _ _)

theorem execResponseQueueRead_follows : FollowsInto s (execResponseQueueRead s) := by
  unfold execResponseQueueRead
  split
  · exact .of_gauge rfl
  · exact .of_gauge rfl

theorem execEventQueueRead_follows : FollowsInto s (execEventQueueRead s) := by
  unfold execEventQueueRead
  split
  · exact .of_gauge rfl
  · exact .of_gauge rfl

theorem State.laneCommand_settings (record : List Byte) (l : LaneId) (wanted : LaneState) :
    (s.laneCommand record l wanted).settings = s.settings := by
  unfold State.laneCommand
  dsimp only
  split
  · rfl
  · exact (State.respond_settings _ _ _ _).trans (s.laneQuiesced_settings l)
  · split
    · exact (State.respond_settings _ _ _ _).trans (s.laneActive_settings l _ _)
    · rfl
  · rfl
  · rfl

theorem execLane_follows : FollowsInto s (execLane s) := by
  refine .takeCommand fun t record hrange => ?_
  split
  · exact hrange
  · split
    · rw [State.laneCommand_settings]
      exact hrange
    · exact hrange

theorem execClearErrors_follows : FollowsInto s (execClearErrors s) := by
  unfold execClearErrors
  exact .takeCommand fun _ _ hrange => hrange

theorem execReset_follows (sample : ResetSample) : FollowsInto s (execReset sample s) :=
  .takeWhen fun _ _ => .of_notReady (by simp [State.restarted, State.reset])

theorem execBufferWalk_follows (bad : List Nat) : FollowsInto s (execBufferWalk bad s) := by
  unfold execBufferWalk
  split
  · refine .of_notReady ?_
    dsimp only
    split_ifs <;> simp
  · exact .refl s

theorem execStreamTableTest_follows (bad : List Nat) : FollowsInto s (execStreamTableTest bad s) := by
  unfold execStreamTableTest
  split
  · refine .of_notReady ?_
    dsimp only
    split_ifs <;> simp
  · exact .refl s

theorem execKnownAnswer_follows (flips : Word) : FollowsInto s (execKnownAnswer flips s) := by
  unfold execKnownAnswer
  split
  · split
    · exact .of_settings s.enterReady_settings
    · exact .of_notReady (by simp)
  · exact .refl s

theorem execScrub_follows : FollowsInto s (execScrub s) := by
  unfold execScrub
  split
  · exact .of_settings (s.checkParity_orderly _).settings
  · exact .refl s

theorem execIdleExpiry_follows (i : StreamIndex) : FollowsInto s (execIdleExpiry i s) := by
  unfold execIdleExpiry
  split
  · exact .of_settings (s.idleTest_orderly i).settings
  · exact .refl s

theorem execIntervalExpiry_follows : FollowsInto s (execIntervalExpiry s) := by
  unfold execIntervalExpiry
  split
  · exact .of_gauge (State.raise_gauge _ _)
  · exact .refl s

end

theorem exec_follows (x : Instr) (s : State) : FollowsInto s (exec x s) := by
  cases x with
  | pushSegment l record => exact execPushSegment_follows s l record
  | linkUp l => exact execLinkUp_follows s l
  | linkDown l => exact .of_settings (s.linkLost_settings l _)
  | laneReset l => exact .of_settings (s.linkLost_settings l _)
  | noticeTake l => exact execNoticeTake_follows s l
  | segmentTake l => exact execSegmentTake_follows s l
  | noticePlacement l => exact execNoticePlacement_follows s l
  | take => exact execTake_follows s
  | read record => exact execRead_follows s record
  | complete record => exact execComplete_follows s record
  | writerSignal signal => exact execWriterSignal_follows s signal
  | portReset => exact execPortReset_follows s
  | arbiterTurn => exact execArbiterTurn_follows s
  | drainTimeout tag => exact execDrainTimeout_follows s tag
  | engineTake => exact execEngineTake_follows s
  | verifyCompletion => exact execVerifyCompletion_follows s
  | commandWrite record => exact execCommandWrite_follows s record
  | openCmd => exact .of_responds State.openBody_responds
  | closeCmd => exact .of_responds State.closeBody_responds
  | abortCmd => exact .of_responds State.abortBody_responds
  | releaseCmd => exact .of_responds State.releaseBody_responds
  | salvageCmd => exact .of_responds State.salvageBody_responds
  | extendCmd => exact .of_responds State.extendBody_responds
  | flushCmd => exact .of_responds State.flushBody_responds
  | queryCmd => exact .of_responds State.queryBody_responds
  | laneCmd => exact execLane_follows s
  | configureCmd => exact .takeCommand fun _ record hrange => Settings.configure_inRange hrange record
  | countersCmd => exact .of_responds fun t _ => t.respond_responds _ _ _
  | clearErrorsCmd => exact execClearErrors_follows s
  | statusCmd => exact .takeWhen fun _ _ => .of_gauge rfl
  | resetCmd sample => exact execReset_follows s sample
  | unknownCommand => exact .takeWhen fun _ _ => .of_gauge rfl
  | responseQueueRead => exact execResponseQueueRead_follows s
  | eventQueueRead => exact execEventQueueRead_follows s
  | powerOnReset sample => exact .of_notReady (by simp [State.restarted, State.reset])
  | bufferWalk bad => exact execBufferWalk_follows s bad
  | streamTableTest bad => exact execStreamTableTest_follows s bad
  | knownAnswer flips => exact execKnownAnswer_follows s flips
  | scrub => exact execScrub_follows s
  | idleExpiry i => exact execIdleExpiry_follows s i
  | intervalExpiry => exact execIntervalExpiry_follows s

/-- An upset or the tick of the clock touches neither the pool nor the settings. -/
theorem State.idle_gauge (s : State) : s.idle.gauge = s.gauge := by
  unfold State.idle
  split
  · rename_i d rest _
    cases d <;> rfl
  · unfold State.tick
    split <;> rfl

/-- Settles O59: every command ends with the watermark test, or touches nothing that it speaks of, or leaves READY. -/
theorem stepKeepsPoolState : Obligations.StepKeepsPoolState := by
  intro s t hrange hfollows h
  unfold step at h
  split at h
  · rename_i x rest _
    exact exec_follows x { s with pending := rest } t h hrange hfollows
  · exact Host.Outcome.next.inj h ▸ hfollows.of_gauge s.idle_gauge

end Sys2Proof.Machine
end

section
/-! # Slots given up, and whose slots the pool records (R79, R80, R85, R91) -/

namespace Sys2Proof.Machine

/-! ## Slots given up -/

/-- From pool `p` to pool `q` the slots `gone`, all of stream `i`, have been given up; no other ASSIGNED slot has. -/
structure Pool.GivesUp (p q : Pool) (i : StreamIndex) (gone : Slot → Prop) : Prop where
  partition : q.Partition
  assigned : ∀ x j pos, q.use x = .assigned j pos ↔ ¬gone x ∧ p.use x = .assigned j pos
  mine : ∀ x, gone x → ∃ pos, p.use x = .assigned i pos

section
variable {p q u : Pool} {i : StreamIndex} {gone more : Slot → Prop}

theorem Pool.GivesUp.refl (h : p.Partition) : p.GivesUp p i fun _ => False :=
  ⟨h, fun _ _ _ => by simp, fun _ hx => hx.elim⟩

theorem Pool.GivesUp.trans (h : p.GivesUp q i gone) (g : q.GivesUp u i more) :
    p.GivesUp u i fun x => gone x ∨ more x where
  partition := g.partition
  assigned x j pos := by rw [g.assigned, h.assigned, not_or]; tauto
  mine x hx := by
    rcases hx with hx | hx
    · exact h.mine x hx
    · obtain ⟨pos, hpos⟩ := g.mine x hx
      exact ⟨pos, ((h.assigned x i pos).mp hpos).2⟩

theorem Pool.GivesUp.congr (h : p.GivesUp q i gone) (hgone : ∀ x, gone x ↔ more x) : p.GivesUp q i more := by
  rwa [show gone = more from funext fun x => propext (hgone x)] at h

/-- The slots of other streams stay. -/
theorem Pool.GivesUp.others (h : p.GivesUp q i gone) {j : StreamIndex} (hj : j ≠ i) (x : Slot) (pos : Nat) :
    q.use x = .assigned j pos ↔ p.use x = .assigned j pos := by
  rw [h.assigned]
  refine and_iff_right_of_imp fun hx hgone => ?_
  obtain ⟨pos', hx'⟩ := h.mine x hgone
  exact hj (SlotUse.assigned.inj (hx.symm.trans hx')).1

end

theorem State.giveUp_givesUp {s : State} (h : s.pool.Partition) {i : StreamIndex} {pos : Nat} {slot : Slot}
    (hslot : s.pool.use slot = .assigned i pos) (force : Bool) :
    s.pool.GivesUp (s.giveUp slot force).pool i fun x => x = slot where
  partition := State.giveUp_partition h (by simp [hslot]) (by simp [hslot]) force
  assigned x j pos := by
    rcases s.giveUp_cases slot force with ⟨-, -, -, heq⟩ | ⟨-, heq⟩
    · rw [heq]
      show (s.pool.retire slot).use x = _ ↔ _
      rw [Pool.retire_use h.2.2.1]
      split_ifs with hx <;> simp [hx]
    · rw [heq]
      show (s.pool.release slot).use x = _ ↔ _
      rw [Pool.release_use h.2.2.1]
      split_ifs with hx <;> simp [hx]
  mine x hx := ⟨pos, by rw [hx]; exact hslot⟩

/-- A slot of a chunk is retired while the limit allows it (R91). -/
theorem Pool.retire_givesUp {p : Pool} (h : p.Partition) {i : StreamIndex} {pos rise : Nat} {slot : Slot}
    (hslot : p.use slot = .assigned i pos) (hmay : p.mayRetire rise = true) :
    p.GivesUp (p.retire slot) i fun x => x = slot where
  partition := by
    rw [Pool.mayRetire, decide_eq_true_eq] at hmay
    exact Pool.retire_partition h (by simp [hslot]) (by simp [hslot]) hmay.1
  assigned x j pos := by
    rw [Pool.retire_use h.2.2.1]
    split_ifs with hx <;> simp [hx]
  mine x hx := ⟨pos, by rw [hx]; exact hslot⟩

theorem State.giveUpAt_givesUp {s : State} (h : s.pool.Partition) (i : StreamIndex) (pos : Nat) (force : Bool) :
    s.pool.GivesUp (s.giveUpAt i pos force).pool i fun x => s.pool.slotOf i pos = some x := by
  unfold State.giveUpAt
  split
  · rename_i slot hslot
    exact (State.giveUp_givesUp h (Pool.slotOf_use h.2.2.1 hslot) force).congr fun x => by
      rw [hslot, Option.some.injEq, eq_comm]
  · rename_i hslot
    exact (Pool.GivesUp.refl h).congr fun x => by simp [hslot]

theorem State.giveUpAll_givesUp {i : StreamIndex} (forced : Option Nat) (l : List (Slot × Nat)) :
    ∀ {s : State}, s.pool.Partition → (l.map Prod.fst).Nodup → (∀ x ∈ l, s.pool.use x.1 = .assigned i x.2) →
      s.pool.GivesUp (s.giveUpAll forced l).pool i fun x => x ∈ l.map Prod.fst := by
  induction l with
  | nil => exact fun h _ _ => (Pool.GivesUp.refl h).congr fun x => by simp
  | cons y l ih =>
    intro s h hnodup hall
    rw [List.map_cons, List.nodup_cons] at hnodup
    obtain ⟨hfresh, hnodup⟩ := hnodup
    have hfirst := State.giveUp_givesUp h (hall y (by simp)) (decide (forced = some y.2))
    have hrest := ih hfirst.partition hnodup fun x hx => by
      refine (hfirst.assigned _ _ _).mpr ⟨fun e => hfresh ?_, hall x (by simp [hx])⟩
      rw [← e]
      exact List.mem_map_of_mem hx
    exact (hfirst.trans hrest).congr fun x => by rw [List.map_cons, List.mem_cons]

/-! ## Whose slots the pool records -/

/-- The slots ASSIGNED to a stream are exactly those that `slots` has for its window positions. -/
def Pool.Owns (p : Pool) (i : StreamIndex) (slots : Nat → Option Slot) : Prop :=
  ∀ slot pos, p.use slot = .assigned i pos ↔ slots pos = some slot

/-- The slots of `slots` that are not at position `pos`. -/
def slotsBut (slots : Nat → Option Slot) (pos : Nat) : Nat → Option Slot := fun p => if p = pos then none else slots p

section
variable {p q : Pool} {i : StreamIndex} {slots : Nat → Option Slot}

theorem Pool.Owns.slotOf (h : p.Owns i slots) (hp : p.Partition) (pos : Nat) : p.slotOf i pos = slots pos := by
  refine Option.ext fun slot => ?_
  rw [Pool.slotOf_eq_some_iff hp.2.2.1, h]
  refine and_iff_left_of_imp fun hslot x hx => ?_
  rw [h, hslot] at hx
  exact le_of_eq (Option.some.inj hx)

/-- The slot of one position given up. -/
theorem Pool.Owns.givesUp {gone : Slot → Prop} {pos : Nat} (h : p.Owns i slots) (g : p.GivesUp q i gone)
    (hgone : ∀ slot, gone slot ↔ slots pos = some slot) : q.Owns i (slotsBut slots pos) := by
  intro slot pos'
  rw [g.assigned, h, hgone, slotsBut]
  split_ifs with hpos
  · simp [hpos]
  · refine and_iff_right_of_imp fun hslot hsame => hpos ?_
    exact (SlotUse.assigned.inj (((h slot pos').mpr hslot).symm.trans ((h slot pos).mpr hsame))).2

theorem Pool.Owns.giveUpAt {s : State} (h : s.pool.Owns i slots) (hp : s.pool.Partition) (pos : Nat) (force : Bool) :
    (s.giveUpAt i pos force).pool.Owns i (slotsBut slots pos) :=
  h.givesUp (State.giveUpAt_givesUp hp i pos force) fun slot => by rw [h.slotOf hp]

end

end Sys2Proof.Machine
end

section
/-! # The chunk records of a stream, as operations change them (R18, R52, R57, R61) -/

namespace Sys2Proof.Machine

/-- The slot recorded at a window position. -/
def Context.slotAt (c : Context) (p : Nat) : Option Slot := (c.window[p]?).bind (·.slot)

/-! ## One record -/

/-- `q` is what an operation may make of the record `r`: it describes the same chunk, has the slot or has lost it, and its
ranges stay in order. -/
structure ChunkRecord.Follows (r q : ChunkRecord) : Prop where
  index : q.index = r.index
  slot : q.slot = r.slot ∨ q.slot = none
  ranges : RangesWF r.ranges → RangesWF q.ranges

/-- The record has its slot still. -/
structure ChunkRecord.Keeps (r q : ChunkRecord) : Prop where
  index : q.index = r.index
  slot : q.slot = r.slot
  ranges : RangesWF r.ranges → RangesWF q.ranges

theorem ChunkRecord.Keeps.follows {r q : ChunkRecord} (h : r.Keeps q) : r.Follows q := ⟨h.index, .inl h.slot, h.ranges⟩

theorem ChunkRecord.Keeps.of_eq {r q : ChunkRecord} (h : (q.index, q.slot, q.ranges) = (r.index, r.slot, r.ranges)) :
    r.Keeps q := by
  simp only [Prod.mk.injEq] at h
  obtain ⟨hindex, hslot, hranges⟩ := h
  exact ⟨hindex, hslot, fun w => hranges ▸ w⟩

theorem ChunkRecord.Keeps.refl (r : ChunkRecord) : r.Keeps r := .of_eq rfl

theorem rangesWF_nil : RangesWF [] := ⟨by simp, .nil⟩

theorem ChunkRecord.keeps_emptied (r : ChunkRecord) : r.Keeps r.emptied := ⟨rfl, rfl, fun _ => rangesWF_nil⟩

theorem ChunkRecord.keeps_withdrawn (r : ChunkRecord) : r.Keeps r.withdrawn := .of_eq rfl

/-! ## One stream -/

/-- `d` is what an operation may make of the stream `c`: each record follows the one that was there, and a stream that is
receiving, or COMPLETE, was so before, with the same final end and committed offset. -/
structure Context.Follows (c d : Context) : Prop where
  w : d.w = c.w
  length : d.window.length = c.window.length
  records : ∀ (p : Nat) q, d.window[p]? = some q → ∃ r : ChunkRecord, c.window[p]? = some r ∧ r.Follows q
  receiving : d.state.receiving = true → c.state.receiving = true ∧ d.committed = c.committed ∧ d.final = c.final
  complete : d.state = .complete → c.state = .complete

theorem Context.Follows.sound {c d : Context} (h : c.Follows d) (hc : c.Sound) : d.Sound := by
  obtain ⟨hlength, hranges, hreceiving, hcomplete⟩ := hc
  have hmem : ∀ q ∈ d.window, ∃ r ∈ c.window, r.Follows q := fun q hq => by
    obtain ⟨p, hp⟩ := List.mem_iff_getElem?.mp hq
    obtain ⟨r, hr, hrq⟩ := h.records p q hp
    exact ⟨r, List.mem_of_getElem? hr, hrq⟩
  refine ⟨by rw [h.length, hlength, h.w], fun q hq => ?_, fun hrec => ?_, fun hcom q hq => ?_⟩
  · obtain ⟨r, hr, hrq⟩ := hmem q hq
    exact hrq.ranges (hranges r hr)
  · obtain ⟨hwas, hcommitted, hfinal⟩ := h.receiving hrec
    obtain ⟨haligned, hopen, hring, hbeyond⟩ := hreceiving hwas
    have hhead : d.head = c.head := by rw [Context.head, Context.head, hcommitted]
    refine ⟨by rw [hcommitted]; exact haligned, by rw [hcommitted, hfinal]; exact hopen, fun j hj => ?_, fun f hf q hq hfar => ?_⟩
    · have hpos : d.posOf (d.head + j) = c.posOf (c.head + j) := by rw [Context.posOf, Context.posOf, hhead, h.w]
      obtain ⟨r, hr, hindex⟩ := hring j (h.w ▸ hj)
      obtain ⟨hlt, -⟩ := List.getElem?_eq_some_iff.mp hr
      obtain ⟨q, hq⟩ : ∃ q, d.window[c.posOf (c.head + j)]? = some q := ⟨_, List.getElem?_eq_getElem (h.length ▸ hlt)⟩
      obtain ⟨r', hr', hrq⟩ := h.records _ q hq
      obtain rfl := Option.some.inj (hr.symm.trans hr')
      exact ⟨q, hpos ▸ hq, by rw [hrq.index, hindex, hhead]⟩
    · obtain ⟨r, hr, hrq⟩ := hmem q hq
      have hnone := hbeyond f (hfinal ▸ hf) r hr (hrq.index ▸ hfar)
      exact hrq.slot.elim (fun e => e.trans hnone) id
  · obtain ⟨r, hr, hrq⟩ := hmem q hq
    exact hrq.slot.elim (fun e => e.trans (hcomplete (h.complete hcom) r hr)) id

/-- `d` is a sound stream when `c` is, with the same slots at the same window positions. -/
structure Context.Tame (c d : Context) : Prop where
  sound : c.Sound → d.Sound
  slots : d.slotAt = c.slotAt

section
variable {c d e : Context}

theorem Context.Tame.trans (h : c.Tame d) (g : d.Tame e) : c.Tame e := ⟨g.sound ∘ h.sound, g.slots.trans h.slots⟩

/-- The same window, under a state that asks for no more. -/
theorem Context.Tame.of_window (h : (d.w, d.window) = (c.w, c.window))
    (hreceiving : d.state.receiving = true →
      c.state.receiving = true ∧ (d.committed, d.final) = (c.committed, c.final))
    (hcomplete : d.state = .complete → c.state = .complete) : c.Tame d := by
  simp only [Prod.mk.injEq] at h hreceiving
  obtain ⟨hw, hwindow⟩ := h
  refine ⟨Context.Follows.sound ⟨hw, by rw [hwindow], fun p q hq => ?_, hreceiving, hcomplete⟩, ?_⟩
  · exact ⟨q, hwindow ▸ hq, (ChunkRecord.Keeps.refl q).follows⟩
  · funext p
    rw [Context.slotAt, Context.slotAt, hwindow]

/-- The fields of a context that the agreement with the pool speaks of. -/
def Context.core (c : Context) : Nat × List ChunkRecord × StreamState × Nat × Option Nat :=
  (c.w, c.window, c.state, c.committed, c.final)

theorem Context.Tame.of_core (h : d.core = c.core) : c.Tame d := by
  simp only [Context.core, Prod.mk.injEq] at h
  obtain ⟨hw, hwindow, hstate, hcommitted, hfinal⟩ := h
  exact .of_window (by rw [hw, hwindow]) (fun hd => ⟨hstate ▸ hd, by rw [hcommitted, hfinal]⟩) fun hd => hstate ▸ hd

theorem Context.Tame.refl (c : Context) : c.Tame c := .of_core rfl

/-- A stream that stops: nothing is asked of ABORTED, SALVAGING and RELEASING. -/
theorem Context.Tame.of_stopped (h : (d.w, d.window) = (c.w, c.window))
    (hstate : d.state = .aborted ∨ d.state = .salvaging ∨ d.state = .releasing) : c.Tame d :=
  .of_window h (fun hd => by rcases hstate with e | e | e <;> simp [StreamState.receiving, e] at hd)
    fun hd => by rcases hstate with e | e | e <;> simp [e] at hd

/-- OPEN and HOLD (R102, R107). -/
theorem Context.Tame.of_receiving (h : (d.w, d.window, d.committed, d.final) = (c.w, c.window, c.committed, c.final))
    (hstate : d.state = .opened ∨ d.state = .hold) (hc : c.state.receiving = true) : c.Tame d := by
  simp only [Prod.mk.injEq] at h
  obtain ⟨hw, hwindow, hcommitted, hfinal⟩ := h
  exact .of_window (by rw [hw, hwindow]) (fun _ => ⟨hc, by rw [hcommitted, hfinal]⟩)
    fun hd => by rcases hstate with e | e <;> simp [e] at hd

/-- Each record changed by itself, at its position. -/
theorem Context.Follows.of_records (g : Nat → ChunkRecord → ChunkRecord) (hg : ∀ (p : Nat) r, c.window[p]? = some r → r.Follows (g p r))
    (hwindow : ∀ p : Nat, d.window[p]? = (c.window[p]?).map (g p)) (hlength : d.window.length = c.window.length)
    (h : d.core = { c with window := d.window }.core) : c.Follows d := by
  simp only [Context.core, Prod.mk.injEq] at h
  obtain ⟨hw, -, hstate, hcommitted, hfinal⟩ := h
  refine ⟨hw, hlength, fun p q hq => ?_, fun hd => ⟨hstate ▸ hd, hcommitted, hfinal⟩, fun hd => hstate ▸ hd⟩
  rw [hwindow] at hq
  obtain ⟨r, hr, rfl⟩ := Option.map_eq_some_iff.mp hq
  exact ⟨r, hr, hg p r hr⟩

/-- Each record keeps its slot. -/
theorem Context.Tame.of_records (g : Nat → ChunkRecord → ChunkRecord) (hg : ∀ (p : Nat) r, c.window[p]? = some r → r.Keeps (g p r))
    (hwindow : ∀ p : Nat, d.window[p]? = (c.window[p]?).map (g p)) (hlength : d.window.length = c.window.length)
    (h : d.core = { c with window := d.window }.core) : c.Tame d := by
  refine ⟨(Context.Follows.of_records g (fun p r hr => (hg p r hr).follows) hwindow hlength h).sound, ?_⟩
  funext p
  rw [Context.slotAt, Context.slotAt, hwindow]
  cases hr : c.window[p]? with
  | none => rfl
  | some r => exact (hg p r hr).slot

theorem Context.tame_modifyRecord (c : Context) (pos : Nat) {f : ChunkRecord → ChunkRecord}
    (hf : ∀ r, c.window[pos]? = some r → r.Keeps (f r)) : c.Tame (c.modifyChunk pos f) := by
  refine .of_records (fun p r => if pos = p then f r else r) (fun p r hr => ?_) (fun p => ?_) (List.length_modify _ _ _) rfl
  · split_ifs with hp
    · exact hf r (hp ▸ hr)
    · exact .refl r
  · exact List.getElem?_modify _ _ _ _

theorem Context.tame_modifyChunk (c : Context) (pos : Nat) {f : ChunkRecord → ChunkRecord}
    (hf : ∀ r : ChunkRecord, r.Keeps (f r)) : c.Tame (c.modifyChunk pos f) := c.tame_modifyRecord pos fun r _ => hf r

theorem Context.tame_emptyUnverified (c : Context) : c.Tame c.emptyUnverified := by
  refine .of_records (fun _ r => if r.state = .filling ∨ r.state = .queued then r.emptied else r) (fun p r _ => ?_)
    (fun p => List.getElem?_map) (List.length_map _) rfl
  split_ifs
  · exact r.keeps_emptied
  · exact .refl r

/-! ## A record loses its slot -/

theorem Context.follows_modifyChunk (c : Context) (pos : Nat) {f : ChunkRecord → ChunkRecord}
    (hf : ∀ r : ChunkRecord, r.Follows (f r)) : c.Follows (c.modifyChunk pos f) := by
  refine .of_records (fun p r => if pos = p then f r else r) (fun p r _ => ?_) (fun p => ?_) (List.length_modify _ _ _) rfl
  · split_ifs
    · exact hf r
    · exact (ChunkRecord.Keeps.refl r).follows
  · exact List.getElem?_modify _ _ _ _

theorem Context.slotAt_slotless (c : Context) (pos : Nat) {f : ChunkRecord → ChunkRecord} (hf : ∀ r, (f r).slot = none) :
    (c.modifyChunk pos f).slotAt = slotsBut c.slotAt pos := by
  funext p
  rw [Context.slotAt, slotsBut, Context.slotAt]
  refine (congrArg (Option.bind · ChunkRecord.slot) (List.getElem?_modify f pos c.window p)).trans ?_
  by_cases hp : pos = p
  · subst hp
    cases c.window[pos]? <;> simp [hf]
  · cases c.window[p]? <;> simp [hp, Ne.symm hp]

theorem ChunkRecord.follows_givenUp (r : ChunkRecord) : r.Follows r.givenUp := ⟨rfl, .inr rfl, fun _ => rangesWF_nil⟩

theorem ChunkRecord.follows_slotless (r : ChunkRecord) : r.Follows { r with slot := none } := ⟨rfl, .inr rfl, id⟩

end

end Sys2Proof.Machine
end

section
/-! # What an operation on one stream does to the pool and to the records (R79, R85, R156)

One relation for an operation on stream `i`: it keeps the partition of the slots, it touches neither the records nor the
slots of another stream, and stream `i` agrees with the pool afterwards when it did before. -/

namespace Sys2Proof.Machine

/-! ## The agreement of one stream with the pool -/

/-- The slots ASSIGNED to stream `i` are those its records hold, and its records are sound. -/
def State.Faithful (s : State) (i : StreamIndex) : Prop :=
  s.pool.Owns i (fun pos => (s.ctx? i).bind (·.slotAt pos)) ∧ ∀ c, s.ctx? i = some c → c.Sound

theorem State.faithful_iff {s : State} {i : StreamIndex} {c : Context} (hc : s.ctx? i = some c) :
    s.Faithful i ↔ s.pool.Owns i c.slotAt ∧ c.Sound := by
  simp [State.Faithful, hc]

/-- A stream that is not live has no slot. -/
theorem State.faithful_iff_of_free {s : State} {i : StreamIndex} (hc : s.ctx? i = none) :
    s.Faithful i ↔ ∀ slot pos, s.pool.use slot ≠ .assigned i pos := by
  simp [State.Faithful, Pool.Owns, hc]

/-! ## The relation -/

/-- An operation that touches nothing of the slots and the records but those of stream `i`. -/
structure OnlyAt (i : StreamIndex) (s t : State) : Prop where
  device : t.device = s.device
  partition : s.pool.Partition → t.pool.Partition
  uses : s.pool.Partition → ∀ j, j ≠ i → ∀ slot pos, t.pool.use slot = .assigned j pos ↔ s.pool.use slot = .assigned j pos
  table : s.TableWF → t.TableWF
  others : s.TableWF → ∀ j, j ≠ i → t.ctx? j = s.ctx? j
  free : s.TableWF → s.ctx? i = none → t.ctx? i = none

/-- Stream `i` agrees with the pool afterwards when it did before. -/
structure Tends (i : StreamIndex) (s t : State) : Prop extends OnlyAt i s t where
  faithful : s.TableWF → s.pool.Partition → s.Faithful i → t.Faithful i

section
variable {i : StreamIndex} {s t u : State}

theorem OnlyAt.trans (h : OnlyAt i s t) (g : OnlyAt i t u) : OnlyAt i s u where
  device := g.device.trans h.device
  partition p := g.partition (h.partition p)
  uses p j hj slot pos := (g.uses (h.partition p) j hj slot pos).trans (h.uses p j hj slot pos)
  table w := g.table (h.table w)
  others w j hj := (g.others (h.table w) j hj).trans (h.others w j hj)
  free w hc := g.free (h.table w) (h.free w hc)

theorem Tends.trans (h : Tends i s t) (g : Tends i t u) : Tends i s u where
  toOnlyAt := h.toOnlyAt.trans g.toOnlyAt
  faithful w p hf := g.faithful (h.table w) (h.partition p) (h.faithful w p hf)

/-- All that the relation speaks of. -/
def State.account (s : State) : DeviceState × List (StreamIndex × Entry) × List Slot × List (Slot × SlotUse) :=
  (s.device, s.table, s.pool.freeList, s.pool.uses)

theorem Pool.partition_congr {p q : Pool} (hfree : q.freeList = p.freeList) (huses : q.uses = p.uses) :
    q.Partition ↔ p.Partition := by
  simp only [Pool.Partition, Pool.use, Pool.retiredCount, hfree, huses]

theorem State.account_eq (h : t.account = s.account) : t.device = s.device ∧ (∀ j, t.ctx? j = s.ctx? j) ∧
    (s.TableWF → t.TableWF) ∧ (s.pool.Partition → t.pool.Partition) ∧ ∀ slot, t.pool.use slot = s.pool.use slot := by
  simp only [State.account, Prod.mk.injEq] at h
  obtain ⟨hdevice, htable, hfree, huses⟩ := h
  refine ⟨hdevice, fun j => ?_, fun w => ?_, (Pool.partition_congr hfree huses).mpr, fun slot => ?_⟩
  · rw [State.ctx?, State.ctx?, State.entry, State.entry, htable]
  · rw [State.TableWF, htable]; exact w
  · rw [Pool.use, Pool.use, huses]

/-- Whatever leaves the device state, the table and the slots' uses alone. -/
theorem Tends.of_account (h : t.account = s.account) : Tends i s t := by
  obtain ⟨hdevice, hctx, htable, hpartition, huse⟩ := State.account_eq h
  refine ⟨⟨hdevice, hpartition, fun _ j _ slot pos => by rw [huse], htable, fun _ j _ => hctx j, fun _ hc => by rw [hctx, hc]⟩,
    fun _ _ hf => ?_⟩
  simpa only [State.Faithful, Pool.Owns, huse, hctx] using hf

theorem Tends.refl : Tends i s s := .of_account rfl

/-- Slots of stream `i` given up. -/
theorem OnlyAt.of_givesUp (hdevice : t.device = s.device) (htable : t.table = s.table)
    (h : s.pool.Partition → ∃ gone, s.pool.GivesUp t.pool i gone) : OnlyAt i s t where
  device := hdevice
  partition p := (h p).elim fun _ g => g.partition
  uses p j hj slot pos := (h p).elim fun _ g => g.others hj slot pos
  table w := by rw [State.TableWF, htable]; exact w
  others _ j _ := by rw [State.ctx?, State.ctx?, State.entry, State.entry, htable]
  free _ hc := by rwa [State.ctx?, State.entry, htable]

/-! ## The context of the stream -/

theorem State.setEntry_onlyAt (s : State) (i : StreamIndex) (e : Entry) (h : s.ctx? i = none → e.ctx = none) :
    OnlyAt i s (s.setEntry i e) where
  device := rfl
  partition p := p
  uses _ _ _ _ _ := .rfl
  table w := State.setEntry_tableWF w i e
  others w j hj := by rw [State.ctx?, State.entry_setEntry w, if_neg hj, State.ctx?]
  free w hc := by rw [State.ctx?, State.entry_setEntry w, if_pos rfl, h hc]

theorem State.setCtx_onlyAt {c : Context} (hc : s.ctx? i = some c) (d : Context) : OnlyAt i s (s.setCtx i d) :=
  s.setEntry_onlyAt i _ fun hnone => absurd (hc.symm.trans hnone) (by simp)

theorem State.setCtx_tends {c d : Context} (hc : s.ctx? i = some c) (h : c.Tame d) : Tends i s (s.setCtx i d) where
  toOnlyAt := State.setCtx_onlyAt hc d
  faithful _ _ hf := by
    rw [State.faithful_iff hc] at hf
    rw [State.faithful_iff (s.ctx?_setCtx_self i d), h.slots]
    exact ⟨hf.1, h.sound hf.2⟩

theorem State.modifyCtx_onlyAt (s : State) (i : StreamIndex) (f : Context → Context) : OnlyAt i s (s.modifyCtx i f) := by
  unfold State.modifyCtx
  split
  · exact State.setCtx_onlyAt ‹_› _
  · exact Tends.refl.toOnlyAt

theorem State.modifyCtx_tends (s : State) (i : StreamIndex) {f : Context → Context}
    (h : ∀ c, s.ctx? i = some c → c.Tame (f c)) : Tends i s (s.modifyCtx i f) := by
  unfold State.modifyCtx
  split
  · rename_i c hc
    exact State.setCtx_tends hc (h c hc)
  · exact .refl

/-- A change of a context that leaves its core alone. -/
theorem State.adjustCtx_tends (s : State) (i : StreamIndex) {f : Context → Context} (h : ∀ c, (f c).core = c.core) :
    Tends i s (s.modifyCtx i f) := s.modifyCtx_tends i fun c _ => .of_core (h c)

theorem State.modifyChunk_tends (s : State) (i : StreamIndex) (pos : Nat) {f : ChunkRecord → ChunkRecord}
    (hf : ∀ r : ChunkRecord, r.Keeps (f r)) : Tends i s (s.modifyChunk i pos f) :=
  s.modifyCtx_tends i fun c _ => c.tame_modifyChunk pos hf

theorem State.modifyChunks_tends (i : StreamIndex) {f : ChunkRecord → ChunkRecord} (hf : ∀ r : ChunkRecord, r.Keeps (f r))
    (ps : List Nat) : ∀ s : State, Tends i s (ps.foldl (fun t p => t.modifyChunk i p f) s) := by
  induction ps with
  | nil => exact fun _ => .refl
  | cons p rest ih => exact fun s => (s.modifyChunk_tends i p hf).trans (ih _)

end

/-! ## Elementary updates -/

section
variable (s : State) (i : StreamIndex)

theorem State.raise_tends (e : Event) : Tends i s (s.raise e) := .of_account (by simp [State.account])

theorem State.count_tends (k : Counter) (n : Nat) : Tends i s (s.count k n) := .of_account rfl

theorem State.raiseReserve_tends (n : Nat) : Tends i s (s.raiseReserve n) := .of_account rfl

theorem State.lowerReserve_tends : Tends i s s.lowerReserve := .of_account rfl

theorem State.modifyLane_tends (l : LaneId) (f : Lane → Lane) : Tends i s (s.modifyLane l f) := .of_account rfl

theorem State.poolTest_tends : Tends i s s.poolTest := by
  unfold State.poolTest
  dsimp only
  split_ifs
  · exact .of_account (by simp [State.account])
  · exact .refl

theorem State.setQueue_tends (q : List ChunkName) : Tends i s { s with verifyQueue := q } := .of_account rfl

theorem State.setDrain_tends (m : List DrainRecord) (o : List Offer) :
    Tends i s { s with drainMap := m, offered := o } := .of_account rfl

end

/-! ## The Slot Pool -/

section
variable {i : StreamIndex} {s t : State} {c : Context}

theorem State.giveUpAt_onlyAt (s : State) (i : StreamIndex) (pos : Nat) (force : Bool) : OnlyAt i s (s.giveUpAt i pos force) :=
  .of_givesUp (by simp) (by simp) fun p => ⟨_, State.giveUpAt_givesUp p i pos force⟩

/-- The record at a window position loses its slot, and the pool takes the slot back. -/
theorem State.faithful_slotless {u : State} {pos : Nat} {gone : Slot → Prop} {f : ChunkRecord → ChunkRecord}
    (hc : s.ctx? i = some c) (hp : s.pool.Partition) (hf : s.Faithful i) (hslot : ∀ r, (f r).slot = none)
    (hfollows : ∀ r : ChunkRecord, r.Follows (f r)) (hu : u.ctx? i = some (c.modifyChunk pos f))
    (hgives : s.pool.GivesUp u.pool i gone) (hgone : ∀ slot, gone slot ↔ s.pool.slotOf i pos = some slot) : u.Faithful i := by
  obtain ⟨howns, hsound⟩ := (State.faithful_iff hc).mp hf
  refine (State.faithful_iff hu).mpr ⟨?_, (c.follows_modifyChunk pos hfollows).sound hsound⟩
  rw [c.slotAt_slotless pos hslot]
  exact howns.givesUp hgives fun slot => by rw [hgone, howns.slotOf hp]

/-- Retirement handling for a chunk (R91, R105, R129). -/
theorem State.retireFromChunk_tends (s : State) (i : StreamIndex) (pos : Nat) :
    Tends i s (s.retireFromChunk i pos) := by
  unfold State.retireFromChunk
  split
  · exact .refl
  · rename_i slot hslot
    generalize hrise : (if s.isReceivingHead i pos = true then 1 else 0) = rise
    dsimp only
    split_ifs with hmay
    · refine Tends.trans ?_ (State.raiseReserve_tends _ i rise)
      have hgives : s.pool.Partition → s.pool.GivesUp (s.retireSlot slot).pool i fun x => x = slot := fun p =>
        Pool.retire_givesUp p (Pool.slotOf_use p.2.2.1 hslot) hmay
      have hretired : OnlyAt i s (s.retireSlot slot) := .of_givesUp rfl rfl fun p => ⟨_, hgives p⟩
      refine ⟨hretired.trans (State.modifyCtx_onlyAt _ _ _), fun w p hf => ?_⟩
      cases hc : s.ctx? i with
      | none => exact absurd (Pool.slotOf_use p.2.2.1 hslot) ((State.faithful_iff_of_free hc).mp hf slot pos)
      | some c =>
        have hc' : (s.retireSlot slot).ctx? i = some c := hc
        rw [State.modifyCtx, hc']
        exact State.faithful_slotless hc p hf (fun _ => rfl) ChunkRecord.follows_slotless (State.ctx?_setCtx_self _ _ _)
          (hgives p) fun x => by rw [hslot, Option.some.injEq, eq_comm]
    · exact .refl

theorem State.retireGiven_tends (s : State) (i : StreamIndex) (r : Option Nat) : Tends i s (s.retireGiven i r) := by
  cases r
  · exact .refl
  · exact s.retireFromChunk_tends i _

/-! ## Withdrawal, release, the tests at an event's end -/

theorem State.withdrawOffers_tends (s : State) (i : StreamIndex) : Tends i s (s.withdrawOffers i) :=
  (State.modifyChunks_tends i ChunkRecord.keeps_withdrawn _ s).trans (.of_account rfl)

theorem State.clearQueue_tends (s : State) (i : StreamIndex) : Tends i s (s.clearQueue i) :=
  (State.modifyChunks_tends i ChunkRecord.keeps_emptied _ s).trans (.of_account rfl)

theorem State.enterReleasing_tends (s : State) (i : StreamIndex) (cause : Option Cause) :
    Tends i s (s.enterReleasing i cause) :=
  (s.modifyCtx_tends i (f := fun c => { c with state := .releasing, cause := cause, notices := .none })
    fun _ _ => .of_stopped rfl (.inr (.inr rfl))).trans (State.withdrawOffers_tends _ i)

/-- An entry that returns to FREE leaves nothing of its stream behind, whether its records agreed with the pool or not
(R156). -/
theorem State.toFree_frees (s : State) (i : StreamIndex) (c : Context) (forced : Option Nat) :
    OnlyAt i s (s.toFree i c forced) ∧
      (s.TableWF → s.pool.Partition → (s.toFree i c forced).ctx? i = none ∧ (s.toFree i c forced).Faithful i) := by
  have hlisted : s.pool.Partition → SlotsListed s i c (s.slotsInOrder i c) := fun p =>
    State.slotsInOrder_listed p.2.2.1 i c
  have hgives : s.pool.Partition → s.pool.GivesUp (s.giveUpAll forced (s.slotsInOrder i c)).pool i
      fun x => x ∈ (s.slotsInOrder i c).map Prod.fst := fun p =>
    State.giveUpAll_givesUp forced _ p (hlisted p).nodup fun x hx => ((hlisted p).mem x).mp hx
  have hgiven : OnlyAt i s (s.giveUpAll forced (s.slotsInOrder i c)) :=
    .of_givesUp (by rw [State.giveUpAll_eq]) (by rw [State.giveUpAll_eq]) fun p => ⟨_, hgives p⟩
  have hraised := hgiven.trans (State.raise_tends _ i (.streamReleased i c.tag c.cause c.committed)).toOnlyAt
  refine ⟨hraised.trans (State.setEntry_onlyAt _ i Entry.free fun _ => rfl), fun w p => ?_⟩
  have hnone : (s.toFree i c forced).ctx? i = none := by
    rw [State.ctx?, State.toFree, State.entry_freeEntry (hraised.table w), if_pos rfl]
    rfl
  refine ⟨hnone, (State.faithful_iff_of_free hnone).mpr fun slot pos hslot => ?_⟩
  have huse : ((s.giveUpAll forced (s.slotsInOrder i c)).pool).use slot = .assigned i pos := by
    simpa [State.toFree] using hslot
  obtain ⟨hkept, hwas⟩ := ((hgives p).assigned slot i pos).mp huse
  exact hkept (List.mem_map.mpr ⟨(slot, pos), ((hlisted p).mem _).mpr hwas, rfl⟩)

theorem State.toFree_tends (s : State) (i : StreamIndex) (c : Context) (forced : Option Nat) :
    Tends i s (s.toFree i c forced) :=
  ⟨(s.toFree_frees i c forced).1, fun w p _ => ((s.toFree_frees i c forced).2 w p).2⟩

/-- A chunk of a RELEASING stream leaves the engine or the drain map (R110, R130). -/
theorem State.endInFlight_tends (s : State) (i : StreamIndex) (pos : Nat) (force : Bool) :
    Tends i s (s.endInFlight i pos force) := by
  cases hc : s.ctx? i with
  | none =>
    have hsame : s.modifyChunk i pos ChunkRecord.givenUp = s := by rw [State.modifyChunk, State.modifyCtx, hc]
    rw [State.endInFlight, hsame, hc]
    exact .refl
  | some c =>
    have hset : s.modifyChunk i pos ChunkRecord.givenUp = s.setCtx i (c.modifyChunk pos ChunkRecord.givenUp) := by
      rw [State.modifyChunk, State.modifyCtx, hc]
    have hgiven : OnlyAt i s (s.setCtx i (c.modifyChunk pos ChunkRecord.givenUp)) := State.setCtx_onlyAt hc _
    rw [State.endInFlight, hset, State.ctx?_setCtx_self]
    dsimp only
    split
    · refine ⟨hgiven.trans (State.giveUpAt_onlyAt _ _ _ _), fun w p hf => ?_⟩
      refine State.faithful_slotless hc p hf (fun _ => rfl) ChunkRecord.follows_givenUp ?_
        (State.giveUpAt_givesUp (s := s.setCtx i (c.modifyChunk pos ChunkRecord.givenUp)) p i pos force) fun _ => .rfl
      rw [State.giveUpAt_setCtx, State.ctx?_setCtx_self]
    · exact ⟨hgiven.trans (State.toFree_frees _ i _ _).1, fun w p _ =>
        ((State.toFree_frees _ i _ _).2 (hgiven.table w) (hgiven.partition p)).2⟩

theorem State.testFree_tends (s : State) (i : StreamIndex) : Tends i s (s.testFree i) := by
  unfold State.testFree
  split
  · split_ifs
    · exact s.toFree_tends _ _ _
    · exact .refl
  · exact .refl

theorem State.settle_tends (s : State) (i : StreamIndex) : Tends i s (s.settle i) := by
  unfold State.settle
  refine (s.adjustCtx_tends i (f := Context.testDrainFlags) fun _ => by rfl).trans (Tends.trans ?_ (State.testFree_tends _ i))
  split
  · split_ifs
    · exact State.enterReleasing_tends _ _ _
    · exact .refl
  · exact .refl

/-! ## Parity errors -/

theorem State.detach_tends {s : State} {i : StreamIndex} {c : Context} (hc : s.ctx? i = some c) :
    Tends i s (s.detach i c) := by
  unfold State.detach
  refine Tends.trans ?_ (State.clearQueue_tends _ i)
  refine Tends.trans ?_ (State.withdrawOffers_tends _ i)
  refine (State.setCtx_tends hc (.of_stopped (d := { c with state := .releasing, cause := some .contextError, notices := .none })
    rfl (.inr (.inr rfl)))).trans ?_
  refine .of_account ?_
  split_ifs <;> simp [State.account, State.noteParity]

theorem State.handleParity_tends (s : State) (i : StreamIndex) : Tends i s (s.handleParity i) := by
  unfold State.handleParity
  split_ifs
  · exact .refl
  · split
    · rename_i hc
      refine Tends.trans ⟨State.setEntry_onlyAt _ i Entry.free fun _ => rfl, fun w _ hf => ?_⟩ (.of_account rfl)
      have hnone : (s.freeEntry i).ctx? i = none := by
        rw [State.ctx?, State.entry_freeEntry w, if_pos rfl]
        rfl
      exact (State.faithful_iff_of_free hnone).mpr ((State.faithful_iff_of_free hc).mp hf)
    · exact State.detach_tends ‹_›

theorem State.checkParity_tends (s : State) (i : StreamIndex) : Tends i s (s.checkParity i) := by
  unfold State.checkParity
  split_ifs
  · exact .refl
  · exact (s.handleParity_tends i).trans (State.settle_tends _ i)

end

end Sys2Proof.Machine
end

section
/-! # Abort and ordered commit keep records and pool in agreement (R81, R133, R134, R150) -/

namespace Sys2Proof.Machine

/-! ## Abort -/

theorem State.enterAborted_tends (s : State) (i : StreamIndex) (cause : Cause) (retiring : Option Nat) :
    Tends i s (s.enterAborted i cause retiring) := by
  unfold State.enterAborted
  split
  · exact .refl
  · rename_i c _
    dsimp only
    refine Tends.trans ?_ (State.raise_tends _ i _)
    refine Tends.trans ?_ (State.modifyCtx_tends _ i fun d _ => d.tame_emptyUnverified.trans (.of_core rfl))
    refine Tends.trans ?_ (State.clearQueue_tends _ i)
    refine Tends.trans ?_ (State.withdrawOffers_tends _ i)
    refine Tends.trans ?_ (State.poolTest_tends _ i)
    refine Tends.trans ?_ (State.retireGiven_tends _ i retiring)
    refine (s.modifyCtx_tends i (f := fun d => { d with state := .aborted, cause := some cause })
      fun d _ => .of_stopped rfl (.inl rfl)).trans ?_
    split_ifs
    · exact .of_account rfl
    · exact .refl

/-! ## One commit step -/

/-- Every record of a window that the ring describes stands in the ring. -/
theorem Context.RingWF.window_index {c : Context} (h : c.RingWF) (hlength : c.window.length = c.w) {p : Nat}
    {r : ChunkRecord} (hr : c.window[p]? = some r) : c.head ≤ r.index ∧ r.index < c.head + c.w ∧ p = c.posOf r.index := by
  obtain ⟨hp, -⟩ := List.getElem?_eq_some_iff.mp hr
  have hw : 0 < c.w := by omega
  obtain ⟨j, hj, hpos⟩ : ∃ j, j < c.w ∧ p = c.posOf (c.head + j) := by
    refine ⟨(p + (c.w - c.head % c.w)) % c.w, Nat.mod_lt _ hw, ?_⟩
    have hhead := Nat.mod_lt c.head hw
    rw [Context.posOf, Nat.add_mod_mod, show c.head + (p + (c.w - c.head % c.w)) =
      p + c.w * (c.head / c.w + 1) by have := Nat.div_add_mod c.head c.w; rw [Nat.mul_add]; omega,
      Nat.add_mul_mod_self_left, Nat.mod_eq_of_lt (by omega)]
  obtain ⟨q, hq, hindex⟩ := h j hj
  rw [hpos, hq] at hr
  obtain rfl := Option.some.inj hr
  exact ⟨by omega, by omega, by rw [hindex, hpos]⟩

/-- The records describe the window above a committed offset that ends a chunk, and hold no slot beyond the final end. -/
structure Context.Advancing (c : Context) : Prop where
  aligned : c.committed % 65536 = 0
  ring : c.RingWF
  beyond : ∀ f, c.final = some f → ∀ r ∈ c.window, f ≤ 65536 * r.index → r.slot = none

/-- The final chunk, shorter than 65,536 bytes, has committed. -/
structure Context.Ended (c : Context) : Prop where
  final : c.final = some c.committed
  slotless : ∀ r ∈ c.window, r.slot = none
  stops : c.headStored = false

/-- What commit steps keep of a stream that is not COMPLETE. -/
structure Context.Committing (c : Context) : Prop where
  length : c.window.length = c.w
  ranges : ∀ r ∈ c.window, RangesWF r.ranges
  incomplete : c.state ≠ .complete
  receiving : c.state.receiving = true → c.Advancing ∨ c.Ended

theorem Context.Sound.committing {c : Context} (h : c.Sound) (hstate : c.state ≠ .complete) : c.Committing := by
  obtain ⟨hlength, hranges, hreceiving, -⟩ := h
  refine ⟨hlength, hranges, hstate, fun hrec => .inl ?_⟩
  obtain ⟨haligned, -, hring, hbeyond⟩ := hreceiving hrec
  exact ⟨haligned, hring, hbeyond⟩

theorem Context.afterCommit_getElem? (c : Context) (p : Nat) : c.afterCommit.window[p]? =
    if c.posOf c.head = p then (if c.posOf c.head < c.window.length then some (.fresh (c.head + c.w)) else none)
    else c.window[p]? :=
  List.getElem?_set

theorem Context.slotAt_afterCommit (c : Context) : c.afterCommit.slotAt = slotsBut c.slotAt (c.posOf c.head) := by
  funext p
  rw [Context.slotAt, c.afterCommit_getElem?, slotsBut, Context.slotAt]
  by_cases hp : c.posOf c.head = p
  · rw [if_pos hp, if_pos hp.symm]
    split_ifs <;> rfl
  · rw [if_neg hp, if_neg (Ne.symm hp)]

/-- A record after a commit step is the one it was, at its position, or the fresh one. -/
theorem Context.afterCommit_record {c : Context} {p : Nat} {r : ChunkRecord} (h : c.afterCommit.window[p]? = some r) :
    (c.posOf c.head = p ∧ r = .fresh (c.head + c.w)) ∨ (c.posOf c.head ≠ p ∧ c.window[p]? = some r) := by
  rw [c.afterCommit_getElem?] at h
  split_ifs at h with hp
  · exact .inl ⟨hp, (Option.some.inj h).symm⟩
  · exact .inr ⟨hp, h⟩

/-- A step of one whole chunk leaves the records describing the window above it. -/
theorem Context.Advancing.afterCommit {c : Context} (h : c.Advancing) (hlength : c.window.length = c.w)
    (hnext : c.nextCommitted = c.committed + 65536) : c.afterCommit.Advancing := by
  have haligned := h.aligned
  have hhead : c.afterCommit.head = c.head + 1 := by
    show c.nextCommitted / 65536 = c.committed / 65536 + 1
    omega
  refine ⟨by show c.nextCommitted % 65536 = 0; omega, fun j hj => ?_, fun f hf r hr hfar => ?_⟩
  · have hj : j < c.w := hj
    rw [hhead, c.afterCommit_getElem?]
    have hposOf : c.afterCommit.posOf (c.head + 1 + j) = c.posOf (c.head + (j + 1)) := by
      rw [show c.head + (j + 1) = c.head + 1 + j by omega]; rfl
    rw [hposOf]
    by_cases hlast : j + 1 = c.w
    · have hwrap : c.posOf c.head = c.posOf (c.head + (j + 1)) := by
        rw [hlast, Context.posOf, Context.posOf, Nat.add_mod_right]
      have hlt : c.posOf c.head < c.window.length := hlength ▸ Nat.mod_lt _ (by omega)
      rw [if_pos hwrap, if_pos hlt]
      exact ⟨_, rfl, by show c.head + c.w = c.head + 1 + j; omega⟩
    · have hne : ¬c.posOf c.head = c.posOf (c.head + (j + 1)) := fun e =>
        absurd (Context.posOf_injective (j := 0) (by omega) (by omega) e) (by omega)
      rw [if_neg hne]
      obtain ⟨r, hr, hindex⟩ := h.ring (j + 1) (by omega)
      exact ⟨r, hr, by omega⟩
  · obtain ⟨p, hp⟩ := List.mem_iff_getElem?.mp hr
    rcases Context.afterCommit_record hp with ⟨-, rfl⟩ | ⟨-, hwas⟩
    · rfl
    · exact h.beyond f hf r (List.mem_of_getElem? hwas) hfar

/-- A final chunk shorter than 65,536 bytes has committed: no slot is left, and the fresh record stands at the head. -/
theorem Context.Advancing.ended {c : Context} {f : Nat} (h : c.Advancing) (hlength : c.window.length = c.w)
    (hfinal : c.final = some f) (hf : 0 < f) (hhead : c.head = finalIndex f) (hshort : f % 65536 ≠ 0) :
    c.afterCommit.Ended := by
  have hnext : c.nextCommitted = f := by rw [Context.nextCommitted, hfinal]; exact if_pos ⟨hf, hhead⟩
  have hindex : c.head = (f - 1) / 65536 := hhead
  refine ⟨hfinal.trans (congrArg some hnext.symm), fun r hr => ?_, ?_⟩
  · obtain ⟨p, hp⟩ := List.mem_iff_getElem?.mp hr
    rcases Context.afterCommit_record hp with ⟨-, rfl⟩ | ⟨hne, hwas⟩
    · rfl
    · obtain ⟨hlow, -, hpos⟩ := h.ring.window_index hlength hwas
      have hother : r.index ≠ c.head := fun e => hne (by rw [hpos, e])
      exact h.beyond f hfinal r (List.mem_of_getElem? hwas) (by omega)
  · have hsame : c.afterCommit.posOf c.afterCommit.head = c.posOf c.head := by
      show c.nextCommitted / 65536 % c.w = c.head % c.w
      rw [hnext, show f / 65536 = c.head by omega]
    rw [Context.headStored, hsame, c.afterCommit_getElem?, if_pos rfl]
    split_ifs <;> simp [ChunkRecord.fresh]

theorem Context.Committing.afterCommit {c : Context} (h : c.Committing) (hstored : c.headStored = true) :
    c.afterCommit.Committing := by
  refine ⟨(List.length_set ..).trans h.length, fun r hr => ?_, h.incomplete, fun hrec => ?_⟩
  · obtain ⟨p, hp⟩ := List.mem_iff_getElem?.mp hr
    rcases Context.afterCommit_record hp with ⟨-, rfl⟩ | ⟨-, hwas⟩
    · exact rangesWF_nil
    · exact h.ranges r (List.mem_of_getElem? hwas)
  · rcases h.receiving hrec with hadvancing | hended
    · have haligned := hadvancing.aligned
      cases hfinal : c.final with
      | none => exact .inl (hadvancing.afterCommit h.length (by rw [Context.nextCommitted, hfinal]; rfl))
      | some f =>
        by_cases hlast : 0 < f ∧ c.head = finalIndex f
        · by_cases hshort : f % 65536 = 0
          · refine .inl (hadvancing.afterCommit h.length ?_)
            have hnext : c.nextCommitted = f := by rw [Context.nextCommitted, hfinal]; exact if_pos hlast
            have hindex : c.committed / 65536 = (f - 1) / 65536 := hlast.2
            omega
          · exact .inr (hadvancing.ended h.length hfinal hlast.1 hlast.2 hshort)
        · refine .inl (hadvancing.afterCommit h.length ?_)
          rw [Context.nextCommitted, hfinal]
          exact if_neg hlast
    · exact absurd (hstored.symm.trans hended.stops) (by simp)

/-! ## Ordered commit -/

section
variable {i : StreamIndex} {s : State} {c : Context}

theorem State.commitStep_onlyAt (hc : s.ctx? i = some c) : OnlyAt i s (s.commitStep i c) := by
  unfold State.commitStep
  dsimp only
  refine (State.setCtx_onlyAt hc c.afterCommit).trans ?_
  refine OnlyAt.trans ?_ ((State.giveUpAt_onlyAt _ i _ false).trans (State.count_tends _ i _ _).toOnlyAt)
  split_ifs
  · exact (State.raiseReserve_tends _ i 1).toOnlyAt
  · exact Tends.refl.toOnlyAt

theorem State.commitStep_ctx? (s : State) (i : StreamIndex) (c : Context) :
    (s.commitStep i c).ctx? i = some c.afterCommit := by
  unfold State.commitStep
  dsimp only
  split_ifs <;> simp [State.ctx?, State.entry, State.setCtx, State.setEntry, cellGet_cellPut_self _ _ (live_ne_free _)]

theorem State.commitStep_owns (hp : s.pool.Partition) (howns : s.pool.Owns i c.slotAt) :
    (s.commitStep i c).pool.Owns i c.afterCommit.slotAt := by
  rw [c.slotAt_afterCommit]
  have hstep : ∀ t : State, t.pool.freeList = s.pool.freeList → t.pool.uses = s.pool.uses →
      (t.giveUpAt i (c.posOf c.head) false).pool.Owns i (slotsBut c.slotAt (c.posOf c.head)) := by
    intro t hfree huses
    refine Pool.Owns.giveUpAt (fun slot pos => ?_) ((Pool.partition_congr hfree huses).mpr hp) _ _
    rw [Pool.use, huses]
    exact howns slot pos
  unfold State.commitStep
  dsimp only
  split_ifs
  · exact hstep _ rfl rfl
  · exact hstep _ rfl rfl

theorem State.commitSteps_onlyAt (i : StreamIndex) (n : Nat) : ∀ s : State, OnlyAt i s (s.commitSteps i n) := by
  induction n with
  | zero => exact fun _ => Tends.refl.toOnlyAt
  | succ n ih =>
    intro s
    unfold State.commitSteps
    split
    · split_ifs
      · exact (State.commitStep_onlyAt ‹_›).trans (ih _)
      · exact Tends.refl.toOnlyAt
    · exact Tends.refl.toOnlyAt

theorem State.commitSteps_committing (i : StreamIndex) (n : Nat) : ∀ {s : State} {c : Context}, s.ctx? i = some c →
    s.pool.Partition → s.pool.Owns i c.slotAt → c.Committing →
    ∃ d, (s.commitSteps i n).ctx? i = some d ∧ (s.commitSteps i n).pool.Owns i d.slotAt ∧ d.Committing := by
  induction n with
  | zero => exact fun hc _ howns hcom => ⟨_, hc, howns, hcom⟩
  | succ n ih =>
    intro s c hc hp howns hcom
    rw [State.commitSteps, hc]
    dsimp only
    split_ifs with hstored
    · exact ih (s.commitStep_ctx? i c) ((State.commitStep_onlyAt hc).partition hp) (State.commitStep_owns hp howns)
        (hcom.afterCommit hstored)
    · exact ⟨c, hc, howns, hcom⟩

theorem State.completeStream_onlyAt (s : State) (i : StreamIndex) (c : Context) (f : Nat) :
    OnlyAt i s (s.completeStream i c f) := (s.modifyCtx_onlyAt i _).trans (State.raise_tends _ i _).toOnlyAt

/-- A stream without slots may become COMPLETE (R62, R133). -/
theorem State.completeStream_faithful (hc : s.ctx? i = some c) (howns : s.pool.Owns i c.slotAt)
    (hlength : c.window.length = c.w) (hranges : ∀ r ∈ c.window, RangesWF r.ranges) (hslots : ∀ r ∈ c.window, r.slot = none)
    (b : Context) (f : Nat) : (s.completeStream i b f).Faithful i := by
  have hctx : (s.completeStream i b f).ctx? i =
      some { c.notify fun n => n.dropRequests.addEnd with state := .complete } := by
    rw [State.completeStream, State.modifyCtx, hc]
    simp
  have hpool : (s.completeStream i b f).pool = s.pool := by simp [State.completeStream]
  exact (State.faithful_iff hctx).mpr
    ⟨hpool ▸ howns, hlength, hranges, fun h => Bool.noConfusion h, fun _ => hslots⟩

theorem State.testComplete_onlyAt (s : State) (i : StreamIndex) : OnlyAt i s (s.testComplete i) := by
  unfold State.testComplete
  split
  · split_ifs
    · exact State.completeStream_onlyAt _ _ _ _
    · exact Tends.refl.toOnlyAt
  · exact Tends.refl.toOnlyAt

/-- After the commit steps a receiving stream whose committed offset is F has no slot left. -/
theorem Context.Committing.slotless (h : c.Committing) (hrec : c.state.receiving = true)
    (hfinal : c.final = some c.committed) : ∀ r ∈ c.window, r.slot = none := by
  rcases h.receiving hrec with hadvancing | hended
  · intro r hr
    obtain ⟨p, hp⟩ := List.mem_iff_getElem?.mp hr
    obtain ⟨hlow, -⟩ := hadvancing.ring.window_index h.length hp
    have hhead : c.committed / 65536 ≤ r.index := hlow
    have haligned := hadvancing.aligned
    exact hadvancing.beyond _ hfinal r hr (by omega)
  · exact hended.slotless

theorem Context.Committing.sound (h : c.Committing) (hopen : ¬(c.state.receiving = true ∧ c.final = some c.committed)) :
    c.Sound := by
  refine ⟨h.length, h.ranges, fun hrec => ?_, fun hcom => absurd hcom h.incomplete⟩
  have hfinal : c.final ≠ some c.committed := fun e => hopen ⟨hrec, e⟩
  rcases h.receiving hrec with hadvancing | hended
  · exact ⟨hadvancing.aligned, hfinal, hadvancing.ring, hadvancing.beyond⟩
  · exact absurd hended.final hfinal

theorem State.testComplete_faithful (hc : s.ctx? i = some c) (howns : s.pool.Owns i c.slotAt) (hcom : c.Committing) :
    (s.testComplete i).Faithful i := by
  rw [State.testComplete, hc]
  dsimp only
  split_ifs with hdone
  · exact State.completeStream_faithful hc howns hcom.length hcom.ranges (hcom.slotless hdone.1 hdone.2) _ _
  · exact (State.faithful_iff hc).mpr ⟨howns, hcom.sound hdone⟩

theorem State.orderedCommit_tends (s : State) (i : StreamIndex) : Tends i s (s.orderedCommit i) := by
  unfold State.orderedCommit
  split
  · rename_i c hc
    split_ifs with hcommits
    · have hsteps := State.commitSteps_onlyAt i c.w s
      refine ⟨(hsteps.trans (State.modifyCtx_onlyAt _ i _)).trans (State.testComplete_onlyAt _ i), fun w p hf => ?_⟩
      obtain ⟨howns, hsound⟩ := (State.faithful_iff hc).mp hf
      have hstate : c.state ≠ .complete := by
        rintro hcomplete
        simp [hcomplete, StreamState.receiving] at hcommits
      obtain ⟨d, hd, hdowns, hcom⟩ := State.commitSteps_committing i c.w hc p howns (hsound.committing hstate)
      rw [State.modifyCtx, hd]
      exact State.testComplete_faithful (State.ctx?_setCtx_self _ _ _) (c := d.notify .addCommit) hdowns
        ⟨hcom.length, hcom.ranges, hcom.incomplete, fun hrec => (hcom.receiving hrec).imp
          (fun h => ⟨h.aligned, h.ring, h.beyond⟩) fun h => ⟨h.final, h.slotless, h.stops⟩⟩
    · exact .refl
  · exact .refl

end

end Sys2Proof.Machine
end

section
/-! # Placement keeps records and pool in agreement (R57, R61, R69 to R73) -/

namespace Sys2Proof.Machine

/-! ## Bookkeeping and counts -/

section
variable (s : State) (i : StreamIndex)

theorem State.bookkeep_tends (l : LaneId) (merged : Option Nat) : Tends i s (s.bookkeep i l merged) := by
  unfold State.bookkeep
  have h := s.adjustCtx_tends i (f := fun c =>
    { c with lastArrival := s.time, idleReported := false
             replyLane := if decide ((s.lane l).state = .active) then some l else c.replyLane }) fun _ => by rfl
  dsimp only
  generalize s.modifyCtx i _ = t at h ⊢
  refine h.trans ?_
  split
  · split
    · exact (State.adjustCtx_tends _ i fun _ => by rfl).trans (State.raise_tends _ i _)
    · exact .refl
  · exact .refl

theorem State.finishSegment_tends (l : LaneId) (accepted : Bool) (merged : Option Nat) (lost : List DropReason) :
    Tends i s (s.finishSegment i l accepted merged lost) := by
  unfold State.finishSegment
  dsimp only
  refine Tends.trans
    (s.adjustCtx_tends i (f := fun c => c.count fun n => lost.dedup.foldl StreamCounters.drop n) fun _ => by rfl) ?_
  split
  · exact State.bookkeep_tends _ i _ _
  · split
    · exact .of_account rfl
    · exact .refl

theorem State.addOld_tends (n : Nat) : Tends i s (s.addOld i n) := s.adjustCtx_tends i fun _ => by rfl

theorem State.noteBeyond_tends (cls : DropReason) (x : Nat) : Tends i s (s.noteBeyond i cls x) := by
  unfold State.noteBeyond
  split
  · split
    · exact (s.adjustCtx_tends i fun _ => by rfl).trans (State.raise_tends _ i _)
    · exact .refl
  · exact .refl

theorem State.dropStopped_tends : Tends i s (s.dropStopped i) :=
  (s.adjustCtx_tends i fun _ => by rfl).trans (State.count_tends _ i _ _)

end

/-! ## A new final end (R61, R62) -/

section
variable {s : State} {i : StreamIndex} {c : Context}

theorem State.queueFinalChunk_onlyAt (s : State) (i : StreamIndex) (f : Nat) : OnlyAt i s (s.queueFinalChunk i f) := by
  unfold State.queueFinalChunk
  split
  · exact Tends.refl.toOnlyAt
  · dsimp only
    split
    · exact (s.modifyCtx_onlyAt i _).trans (State.setQueue_tends _ i _).toOnlyAt
    · exact Tends.refl.toOnlyAt

theorem State.freeBeyond_onlyAt (i : StreamIndex) (l : List (Nat × ChunkRecord)) :
    ∀ s : State, OnlyAt i s (s.freeBeyond i l) := by
  induction l with
  | nil => exact fun _ => Tends.refl.toOnlyAt
  | cons x rest ih =>
    intro s
    unfold State.freeBeyond
    refine (s.modifyCtx_onlyAt i fun c =>
      (c.modifyChunk x.1 fun r => { r with slot := none }).notify fun n => n.removeGap x.1).trans (OnlyAt.trans ?_ (ih _))
    split
    · exact State.giveUpAt_onlyAt _ _ _ _
    · exact Tends.refl.toOnlyAt

theorem State.acceptFinal_onlyAt (s : State) (i : StreamIndex) (c : Context) (f : Nat) :
    OnlyAt i s (s.acceptFinal i c f) := by
  unfold State.acceptFinal
  dsimp only
  refine (s.modifyCtx_onlyAt i fun d => { d with final := some f }).trans ?_
  have htail : ∀ t : State, OnlyAt i t (((if f = c.committed ∧ c.headSlotless then t.lowerReserve else t).queueFinalChunk
      i f).freeBeyond i (c.ring.filter fun x => decide ((f + 65535) / Config.chunkSize ≤ x.2.index))) := by
    intro t
    refine OnlyAt.trans ?_ ((State.queueFinalChunk_onlyAt _ i f).trans (State.freeBeyond_onlyAt i _ _))
    split
    · exact (t.lowerReserve_tends i).toOnlyAt
    · exact Tends.refl.toOnlyAt
  split
  · exact (htail _).trans (State.completeStream_onlyAt _ _ _ _)
  · exact htail _

/-- The slots of several positions given up. -/
theorem Pool.Owns.givenUpAt (ps : List Nat) : ∀ {s : State} {slots : Nat → Option Slot}, s.pool.Owns i slots →
    s.pool.Partition → (s.givenUpAt i ps).pool.Owns i fun p => if p ∈ ps then none else slots p := by
  induction ps with
  | nil => exact fun h _ slot pos => by simpa [State.givenUpAt] using h slot pos
  | cons p ps ih =>
    intro s slots h hp
    have hrest := ih (h.giveUpAt hp p false) (State.giveUpAt_partition hp i p false)
    have hslots : (fun q => if q ∈ p :: ps then none else slots q) =
        fun q => if q ∈ ps then none else slotsBut slots p q := by
      funext q
      by_cases hq : q ∈ ps <;> by_cases hqp : q = p <;> simp [slotsBut, hq, hqp]
    rw [hslots]
    exact hrest

theorem Context.ended_window (c : Context) (f p : Nat) : ∃ g : ChunkRecord → ChunkRecord,
    (c.ended f).window[p]? = (c.window[p]?).map g ∧ ∀ r, (g r).index = r.index ∧ (g r).ranges = r.ranges ∧
      (g r).slot = if p ∈ (c.beyondFinal f).map Prod.fst then none else r.slot := by
  rw [Context.ended, Context.cleared_getElem?, Context.fixes_getElem?, Option.map_map]
  refine ⟨_, rfl, fun r => ?_⟩
  simp only [Function.comp_apply]
  split_ifs <;> simp

theorem Context.ended_record {f p : Nat} {q : ChunkRecord} (h : (c.ended f).window[p]? = some q) :
    ∃ r, c.window[p]? = some r ∧ q.index = r.index ∧ q.ranges = r.ranges ∧
      q.slot = if p ∈ (c.beyondFinal f).map Prod.fst then none else r.slot := by
  obtain ⟨g, hg, hrecord⟩ := c.ended_window f p
  obtain ⟨r, hr, rfl⟩ := Option.map_eq_some_iff.mp (hg.symm.trans h)
  exact ⟨r, hr, hrecord r⟩

theorem Context.ended_length (c : Context) (f : Nat) : (c.ended f).window.length = c.window.length := by
  rw [Context.ended, Context.cleared, List.length_mapIdx, Context.fixes]
  split_ifs
  · exact List.length_modify _ _ _
  · rfl

/-- The slots left are those of the positions that gave none up. -/
theorem Context.slotAt_ended (c : Context) (f : Nat) : (c.ended f).slotAt = fun p =>
    if p ∈ ((c.beyondFinal f).filter fun x => x.2.slot.isSome).map Prod.fst then none else c.slotAt p := by
  funext p
  obtain ⟨g, hg, hrecord⟩ := c.ended_window f p
  rw [Context.slotAt, Context.slotAt, hg]
  cases hr : c.window[p]? with
  | none => simp
  | some r =>
    have hslot : (g r).slot = _ := (hrecord r).2.2
    rw [Option.map_some, Option.bind_some, Option.bind_some, hslot]
    by_cases hbeyond : p ∈ (c.beyondFinal f).map Prod.fst
    · rw [if_pos hbeyond]
      obtain ⟨x, hx, rfl⟩ := List.mem_map.mp hbeyond
      obtain ⟨-, -, -, hx'⟩ := c.mem_ring.mp (List.mem_filter.mp hx).1
      obtain rfl := Option.some.inj (hr.symm.trans hx')
      cases hsome : x.2.slot with
      | none => simp
      | some slot =>
        rw [if_pos (List.mem_map.mpr ⟨x, List.mem_filter.mpr ⟨hx, by simp [hsome]⟩, rfl⟩)]
    · have hkept : p ∉ ((c.beyondFinal f).filter fun x => x.2.slot.isSome).map Prod.fst := fun hm =>
        hbeyond ((List.filter_sublist.map Prod.fst).subset hm)
      rw [if_neg hbeyond, if_neg hkept]

theorem Context.ended_ranges (h : ∀ r ∈ c.window, RangesWF r.ranges) (f : Nat) :
    ∀ r ∈ (c.ended f).window, RangesWF r.ranges := by
  intro q hq
  obtain ⟨p, hp⟩ := List.mem_iff_getElem?.mp hq
  obtain ⟨r, hr, -, hranges, -⟩ := Context.ended_record hp
  exact hranges ▸ h r (List.mem_of_getElem? hr)

/-- A record wholly beyond the new final end holds no slot. -/
theorem Context.ended_beyond (hring : c.RingWF) (hlength : c.window.length = c.w) {f : Nat} :
    ∀ r ∈ (c.ended f).window, f ≤ 65536 * r.index → r.slot = none := by
  intro q hq hfar
  obtain ⟨p, hp⟩ := List.mem_iff_getElem?.mp hq
  obtain ⟨r, hr, hindex, -, hslot⟩ := Context.ended_record hp
  obtain ⟨hlow, hhigh, hpos⟩ := hring.window_index hlength hr
  have hmem : (p, r) ∈ c.ring := hpos ▸ (hring.mem hlow hhigh (hpos ▸ hr)).1
  rw [hslot, if_pos (List.mem_map.mpr ⟨(p, r), Context.mem_beyondFinal.mpr ⟨hmem, hindex ▸ hfar⟩, rfl⟩)]

/-- A final end above the committed offset leaves a sound stream. -/
theorem Context.Sound.ended (h : c.Sound) (hrec : c.state.receiving = true) {f : Nat} (hf : f ≠ c.committed) :
    (c.ended f).Sound := by
  obtain ⟨hlength, hranges, hreceiving, -⟩ := h
  obtain ⟨haligned, -, hring, -⟩ := hreceiving hrec
  have hfields := c.ended_eq f
  have hstate : (c.ended f).state = c.state := by rw [hfields]
  have hw : (c.ended f).w = c.w := by rw [hfields]
  have hcommitted : (c.ended f).committed = c.committed := by rw [hfields]
  have hfinal : (c.ended f).final = some f := by rw [hfields]
  refine ⟨by rw [c.ended_length, hlength, hw], Context.ended_ranges hranges f, fun _ => ⟨hcommitted ▸ haligned, ?_, ?_, ?_⟩,
    fun hcom => ?_⟩
  · rw [hfinal, hcommitted, Ne, Option.some.injEq]
    exact hf
  · intro j hj
    obtain ⟨r, hr, hindex⟩ := hring j (hw ▸ hj)
    obtain ⟨g, hg, hrecord⟩ := c.ended_window f (c.posOf (c.head + j))
    rw [c.ended_posOf, Context.head, hcommitted]
    exact ⟨g r, by rw [← Context.head, hg, hr]; rfl, (hrecord r).1.trans hindex⟩
  · intro f' hf' r hr
    obtain rfl := Option.some.inj (hfinal.symm.trans hf')
    exact Context.ended_beyond hring hlength r hr
  · rw [hstate] at hcom
    simp [hcom, StreamState.receiving] at hrec

theorem State.acceptFinal_of_ctx? (hc : s.ctx? i = some c) (f : Nat) :
    s.acceptFinal i c f = (s.setCtx i c).acceptFinal i c f := by
  unfold State.acceptFinal
  rw [State.modifyCtx_setCtx, State.modifyCtx, hc]

/-- The final end of a stream in OPEN or HOLD is accepted. -/
theorem State.acceptFinal_tends (hc : s.ctx? i = some c) (hrec : c.state.receiving = true) (f : Nat) :
    Tends i s (s.acceptFinal i c f) := by
  refine ⟨s.acceptFinal_onlyAt i c f, fun w p hf => ?_⟩
  obtain ⟨howns, hsound⟩ := (State.faithful_iff hc).mp hf
  obtain ⟨hlength, hranges, hreceiving, -⟩ := id hsound
  obtain ⟨haligned, -, hring, -⟩ := hreceiving hrec
  have hpool : (s.afterFinal i c f).pool.Owns i (c.ended f).slotAt := by
    rw [c.slotAt_ended f, State.afterFinal]
    refine Pool.Owns.givenUpAt _ ?_ ?_
    · split_ifs <;> exact howns
    · split_ifs <;> exact p
  have hctx := State.ctx?_setCtx_self (s.afterFinal i c f) i (c.ended f)
  rw [State.acceptFinal_of_ctx? hc, State.acceptFinal_setCtx]
  split_ifs with hcommitted
  · refine State.completeStream_faithful hctx hpool ?_ (Context.ended_ranges hranges f) (fun r hr => ?_) c f
    · rw [c.ended_length, hlength, c.ended_eq]
    · obtain ⟨q, hq⟩ := List.mem_iff_getElem?.mp hr
      obtain ⟨r', hr', hindex, -⟩ := Context.ended_record hq
      obtain ⟨hlow, -⟩ := hring.window_index hlength hr'
      have hhead : c.committed / 65536 ≤ r'.index := hlow
      exact Context.ended_beyond hring hlength r hr (by omega)
  · exact (State.faithful_iff hctx).mpr ⟨hpool, hsound.ended hrec hcommitted⟩

end

/-! ## Where a piece may stand (R52, R64 to R68) -/

/-- The fields of a context that say where its pieces may stand. -/
def Context.reach (c : Context) : StreamState × Nat × Nat × Option Nat := (c.state, c.w, c.committed, c.final)

/-- A piece [x, y) that a receiving stream may place: within the window, below the final end. -/
structure Context.Places (c : Context) (x y : Nat) : Prop where
  receiving : c.state.receiving = true
  nonempty : x < y
  above : c.committed ≤ x
  within : x < c.committed + 65536 * c.w
  below : ∀ f, c.final = some f → x < f

theorem Context.Places.congr {c d : Context} {x y : Nat} (h : c.Places x y) (hreach : d.reach = c.reach) : d.Places x y := by
  simp only [Context.reach, Prod.mk.injEq] at hreach
  obtain ⟨hstate, hw, hcommitted, hfinal⟩ := hreach
  exact ⟨hstate ▸ h.receiving, h.nonempty, hcommitted ▸ h.above, by rw [hcommitted, hw]; exact h.within,
    fun f hf => h.below f (hfinal ▸ hf)⟩

/-- The stream's reach is as it was, and it is live when it was. -/
def SameReach (i : StreamIndex) (s t : State) : Prop :=
  ∀ d, t.ctx? i = some d → ∃ c, s.ctx? i = some c ∧ d.reach = c.reach

section
variable {s t u : State} {i : StreamIndex}

theorem SameReach.refl (i : StreamIndex) (s : State) : SameReach i s s := fun d hd => ⟨d, hd, rfl⟩

theorem SameReach.trans (h : SameReach i s t) (g : SameReach i t u) : SameReach i s u := by
  intro e he
  obtain ⟨d, hd, hed⟩ := g e he
  obtain ⟨c, hc, hdc⟩ := h d hd
  exact ⟨c, hc, hed.trans hdc⟩

theorem SameReach.of_table (h : t.table = s.table) : SameReach i s t := fun d hd =>
  ⟨d, by rw [State.ctx?, State.entry, ← h]; exact hd, rfl⟩

theorem State.setQueue_sameReach (s : State) (i : StreamIndex) (q : List ChunkName) :
    SameReach i s { s with verifyQueue := q } := .of_table rfl

theorem State.modifyCtx_sameReach (s : State) (i : StreamIndex) {f : Context → Context}
    (hf : ∀ c, (f c).reach = c.reach) : SameReach i s (s.modifyCtx i f) := by
  intro d hd
  rw [State.modifyCtx] at hd
  cases hc : s.ctx? i with
  | none =>
    rw [hc] at hd
    exact absurd (hc.symm.trans hd) (by simp)
  | some c =>
    rw [hc, State.ctx?_setCtx_self] at hd
    exact ⟨c, rfl, by rw [← Option.some.inj hd]; exact hf c⟩

theorem State.modifyChunk_sameReach (s : State) (i : StreamIndex) (pos : Nat) (f : ChunkRecord → ChunkRecord) :
    SameReach i s (s.modifyChunk i pos f) := s.modifyCtx_sameReach i fun _ => rfl

theorem State.raise_sameReach (s : State) (i : StreamIndex) (e : Event) : SameReach i s (s.raise e) :=
  .of_table (by simp)

theorem State.writePiece_account (s : State) (slot : Slot) (piece : Range) (held : List Range) (bytes : List Byte)
    (i : StreamIndex) (k : Nat) : (s.writePiece slot piece held bytes i k).account = s.account := by
  rw [State.writePiece_eq]
  rfl

end

/-! ## One piece (R69 to R73) -/

section
variable {s : State} {i : StreamIndex} {c : Context}

theorem State.mergeInto_sameReach (s : State) (i : StreamIndex) (pos : Nat) (r : ChunkRecord) (slot : Slot) (piece : Range)
    (bytes : List Byte) (len : Nat) : SameReach i s (s.mergeInto i pos r slot piece bytes len) := by
  unfold State.mergeInto
  have hwritten : SameReach i s (s.writePiece slot piece r.ranges bytes i r.index) :=
    .of_table (congrArg (fun a => a.2.1) (s.writePiece_account slot piece r.ranges bytes i r.index))
  dsimp only
  cases isComplete (insertRange piece r.ranges) len with
  | true => exact (hwritten.trans (State.modifyCtx_sameReach _ i fun _ => by rfl)).trans (State.setQueue_sameReach _ i _)
  | false => exact hwritten.trans (State.modifyCtx_sameReach _ i fun _ => by rfl)

theorem State.mergePiece_sameReach (s : State) (i : StreamIndex) (pos : Nat) (r : ChunkRecord) (slot : Slot)
    (piece : Range) (bytes : List Byte) (len : Nat) : SameReach i s (s.mergePiece i pos r slot piece bytes len).1 := by
  unfold State.mergePiece
  split
  · split
    · exact .refl i s
    · exact s.mergeInto_sameReach _ _ _ _ _ _ _
  · exact s.modifyCtx_sameReach i fun _ => rfl

theorem State.placePiece_sameReach (s : State) (i : StreamIndex) (x y : Nat) (bytes : List Byte) :
    SameReach i s (s.placePiece i x y bytes).1 := by
  unfold State.placePiece
  split
  · exact .refl i s
  · dsimp only
    split
    · exact .refl i s
    · split
      · exact s.mergePiece_sameReach _ _ _ _ _ _ _
      · split
        · exact .refl i s
        · rename_i g _
          have hgranted : SameReach i s { s with pool := g.2 } := .of_table rfl
          exact (hgranted.trans (State.modifyChunk_sameReach _ i _ _)).trans (State.mergePiece_sameReach _ _ _ _ _ _ _ _)

theorem State.noteBeyond_sameReach (s : State) (i : StreamIndex) (cls : DropReason) (x : Nat) :
    SameReach i s (s.noteBeyond i cls x) := by
  unfold State.noteBeyond
  split
  · split
    · exact (s.modifyCtx_sameReach i fun _ => by rfl).trans (State.raise_sameReach _ i _)
    · exact .refl i s
  · exact .refl i s

/-- A piece merged into the record that stands at its position. -/
theorem State.mergePiece_tends {pos : Nat} {r : ChunkRecord} {piece : Range} (hpiece : piece.start < piece.stop)
    (hr : ∀ c, s.ctx? i = some c → ∃ q, c.window[pos]? = some q ∧ q.ranges = r.ranges) (slot : Slot) (bytes : List Byte)
    (len : Nat) : Tends i s (s.mergePiece i pos r slot piece bytes len).1 := by
  unfold State.mergePiece
  split
  · split
    · exact .refl
    · unfold State.mergeInto
      have hwritten : Tends i s (s.writePiece slot piece r.ranges bytes i r.index) :=
        .of_account (s.writePiece_account slot piece r.ranges bytes i r.index)
      have htable : (s.writePiece slot piece r.ranges bytes i r.index).ctx? i = s.ctx? i :=
        (State.account_eq (s.writePiece_account slot piece r.ranges bytes i r.index)).2.1 i
      have hmerged : ∀ (st : ChunkState) (f : StreamCounters → StreamCounters), Tends i s
          ((s.writePiece slot piece r.ranges bytes i r.index).modifyCtx i fun c =>
            (c.modifyChunk pos fun x => { x with ranges := insertRange piece r.ranges, state := st }).count f) := by
        refine fun st f => hwritten.trans (State.modifyCtx_tends _ i fun c hc => ?_)
        obtain ⟨q, hq, hranges⟩ := hr c (htable ▸ hc)
        refine (c.tame_modifyRecord pos fun x hx => ?_).trans (.of_core (by rfl))
        obtain rfl := Option.some.inj (hq.symm.trans hx)
        exact ⟨rfl, rfl, fun hwf => insertRange_wf hpiece (hranges ▸ hwf)⟩
      dsimp only
      cases isComplete (insertRange piece r.ranges) len with
      | true => exact (hmerged _ _).trans (State.setQueue_tends _ i _)
      | false => exact hmerged _ _
  · exact s.adjustCtx_tends i fun _ => by rfl

/-- A grant assigns one FREE slot, and keeps the partition. -/
theorem Pool.request_grants {p : Pool} (h : p.Partition) {i : StreamIndex} {pos : Nat} {head : Bool} {g : Slot × Pool}
    (hg : p.request i pos head = some g) : g.2.Partition ∧ p.use g.1 = .free ∧
      ∀ x, g.2.use x = if x = g.1 then .assigned i pos else p.use x := by
  have hassign : ∀ {x : Slot × Pool}, p.assign i pos = some x → x.2.Partition ∧ p.use x.1 = .free ∧
      ∀ y, x.2.use y = if y = x.1 then .assigned i pos else p.use y := by
    intro x hx
    refine ⟨Pool.assign_partition h hx, ?_⟩
    unfold Pool.assign at hx
    split at hx
    · exact absurd hx (by simp)
    · rename_i slot rest hlist
      rw [← Option.some.inj hx]
      exact ⟨(h.2.1 slot).mp (by simp [hlist]), fun y => Pool.use_put h.2.2.1 slot y _⟩
  unfold Pool.request at hg
  split_ifs at hg
  · obtain ⟨x, hx, rfl⟩ := Option.map_eq_some_iff.mp hg
    obtain ⟨hpartition, hfree, huse⟩ := hassign hx
    exact ⟨(Pool.partition_congr rfl rfl).mpr hpartition, hfree, huse⟩
  · exact hassign hg

theorem Context.slotAt_modifyChunk (c : Context) (pos : Nat) (f : ChunkRecord → ChunkRecord) (p : Nat) :
    (c.modifyChunk pos f).slotAt p = if pos = p then (c.window[p]?).bind fun r => (f r).slot else c.slotAt p := by
  rw [Context.slotAt, Context.slotAt]
  refine (congrArg (Option.bind · ChunkRecord.slot) (List.getElem?_modify f pos c.window p)).trans ?_
  cases c.window[p]? <;> by_cases hp : pos = p <;> simp [hp]

/-- A slot granted to a record that a receiving stream may give one leaves the stream sound. -/
theorem Context.Sound.granted (h : c.Sound) {k : Nat} (hrec : c.state.receiving = true) (hlow : c.head ≤ k) (hhigh : k < c.head + c.w)
    (hbelow : ∀ f, c.final = some f → 65536 * k < f) (slot : Slot) :
    (c.modifyChunk (c.posOf k) fun q => { q with slot := some slot }).Sound := by
  obtain ⟨hlength, hranges, hreceiving, -⟩ := h
  obtain ⟨haligned, hopen, hring, hbeyond⟩ := hreceiving hrec
  have hget : ∀ (p : Nat) q, (c.modifyChunk (c.posOf k) fun q => { q with slot := some slot }).window[p]? = some q →
      ∃ q', c.window[p]? = some q' ∧ q.index = q'.index ∧ q.ranges = q'.ranges ∧ (c.posOf k ≠ p → q.slot = q'.slot) := by
    intro p q hq
    obtain ⟨q', hq', rfl⟩ := Option.map_eq_some_iff.mp ((List.getElem?_modify _ _ _ _).symm.trans hq)
    refine ⟨q', hq', ?_⟩
    by_cases hp : c.posOf k = p <;> simp [hp]
  refine ⟨(List.length_modify _ _ _).trans hlength, fun q hq => ?_, fun _ => ⟨haligned, hopen, fun j hj => ?_, ?_⟩, ?_⟩
  · obtain ⟨p, hp⟩ := List.mem_iff_getElem?.mp hq
    obtain ⟨q', hq', -, heq, -⟩ := hget p q hp
    exact heq ▸ hranges q' (List.mem_of_getElem? hq')
  · obtain ⟨q, hq, hindex⟩ := hring j hj
    show ∃ q, (c.window.modify (c.posOf k) fun q => { q with slot := some slot })[c.posOf (c.head + j)]? = some q ∧
      q.index = c.head + j
    refine ⟨if c.posOf k = c.posOf (c.head + j) then { q with slot := some slot } else q,
      by rw [List.getElem?_modify, hq]; rfl, ?_⟩
    split_ifs <;> exact hindex
  · intro f hf q hq hfar
    obtain ⟨p, hp⟩ := List.mem_iff_getElem?.mp hq
    obtain ⟨q', hq', hindex, -, hslot⟩ := hget p q hp
    by_cases hpos : c.posOf k = p
    · rw [← hpos] at hq'
      have hk := (hring.mem hlow hhigh hq').2
      have hunder := hbelow f hf
      omega
    · exact (hslot hpos).trans (hbeyond f hf q' (List.mem_of_getElem? hq') (hindex ▸ hfar))
  · intro hcomplete
    have hstate : c.state = .complete := hcomplete
    simp [hstate, StreamState.receiving] at hrec

/-- A slot granted to the record of a chunk that the window describes and that begins below the final end (R69, R83). -/
theorem State.granted_tends (hc : s.ctx? i = some c) {k : Nat} {r : ChunkRecord} {head : Bool} {g : Slot × Pool}
    (hg : s.pool.request i (c.posOf k) head = some g) (hr : c.window[c.posOf k]? = some r) (hslot : r.slot = none)
    (hk : c.Sound → c.state.receiving = true ∧ c.head ≤ k ∧ k < c.head + c.w ∧ ∀ f, c.final = some f → 65536 * k < f) :
    Tends i s ({ s with pool := g.2 }.modifyChunk i (c.posOf k) fun q => { q with slot := some g.1 }) := by
  have hassigned : OnlyAt i s { s with pool := g.2 } :=
    { device := rfl
      partition := fun p => (Pool.request_grants p hg).1
      uses := fun p j hj slot pos => by
        obtain ⟨-, hfree, huse⟩ := Pool.request_grants p hg
        show g.2.use slot = _ ↔ _
        rw [huse]
        split_ifs with hslot
        · rw [hslot, hfree]
          simp [Ne.symm hj]
        · rfl
      table := id
      others := fun _ _ _ => rfl
      free := fun _ h => h }
  refine ⟨hassigned.trans (State.modifyCtx_onlyAt _ i _), fun w p hf => ?_⟩
  obtain ⟨howns, hsound⟩ := (State.faithful_iff hc).mp hf
  obtain ⟨hrec, hlow, hhigh, hbelow⟩ := hk hsound
  obtain ⟨-, hfree, huse⟩ := Pool.request_grants p hg
  have hc' : State.ctx? { s with pool := g.2 } i = some c := hc
  rw [State.modifyChunk, State.modifyCtx, hc']
  refine (State.faithful_iff (State.ctx?_setCtx_self _ i _)).mpr ⟨fun slot pos => ?_, hsound.granted hrec hlow hhigh hbelow g.1⟩
  show g.2.use slot = _ ↔ _
  rw [huse, Context.slotAt_modifyChunk]
  have hheld : c.slotAt (c.posOf k) = none := by rw [Context.slotAt, hr, Option.bind_some, hslot]
  by_cases hpos : c.posOf k = pos
  · subst hpos
    rw [if_pos rfl, hr, Option.bind_some, Option.some.injEq]
    by_cases hnew : slot = g.1
    · simp [hnew]
    · rw [if_neg hnew, howns, hheld]
      simp [Ne.symm hnew]
  · rw [if_neg hpos, ← howns]
    by_cases hnew : slot = g.1
    · simp [hnew, hpos, hfree]
    · rw [if_neg hnew]

/-- One piece through the stages of R69 to R73. -/
theorem State.placePiece_tends {x y : Nat} (h : ∀ c, s.ctx? i = some c → c.Places x y) (bytes : List Byte) :
    Tends i s (s.placePiece i x y bytes).1 := by
  unfold State.placePiece
  split
  · exact .refl
  · rename_i c hc
    obtain ⟨hrec, hlt, habove, hwithin, hbelow⟩ := h c hc
    have hpiece : x - Config.chunkSize * (x / Config.chunkSize) < y - Config.chunkSize * (x / Config.chunkSize) := by
      simp only [Config.chunkSize]
      omega
    dsimp only
    split
    · exact .refl
    · rename_i r hr
      split
      · refine State.mergePiece_tends hpiece (fun d hd => ?_) _ _ _
        obtain rfl := Option.some.inj (hc.symm.trans hd)
        exact ⟨r, hr, rfl⟩
      · rename_i hslot
        split
        · exact .refl
        · rename_i g hg
          refine Tends.trans (State.granted_tends hc hg hr hslot fun hsound => ⟨hrec, ?_, ?_, fun f hf => ?_⟩)
            (State.mergePiece_tends hpiece (fun d hd => ?_) _ _ _)
          · exact Nat.div_le_div_right habove
          · obtain ⟨haligned, -⟩ := hsound.2.2.1 hrec
            simp only [Context.head, Config.chunkSize]
            omega
          · have := hbelow f hf
            simp only [Config.chunkSize]
            omega
          · have hc' : State.ctx? { s with pool := g.2 } i = some c := hc
            rw [State.modifyChunk, State.modifyCtx, hc', State.ctx?_setCtx_self] at hd
            obtain rfl := Option.some.inj hd
            exact ⟨{ r with slot := some g.1 }, (List.getElem?_modify _ _ _ _).trans (by simp [hr]), rfl⟩

theorem State.placePieces_tends (i : StreamIndex) (o : Nat) (payload : List Byte) (l : List (Nat × Nat)) :
    ∀ {s : State}, (∀ p ∈ l, ∀ c, s.ctx? i = some c → c.Places p.1 p.2) → Tends i s (s.placePieces i o payload l).state := by
  induction l with
  | nil => exact fun _ => .refl
  | cons p rest ih =>
    intro s hl
    have hfirst := State.placePiece_tends (hl p (by simp)) (payload.drop (p.1 - o))
    have hrest := ih (s := (s.placePiece i p.1 p.2 (payload.drop (p.1 - o))).1) fun q hq d hd => by
      obtain ⟨c, hc, hreach⟩ := s.placePiece_sameReach i p.1 p.2 (payload.drop (p.1 - o)) d hd
      exact (hl q (by simp [hq]) c hc).congr hreach
    have h := hfirst.trans hrest
    unfold State.placePieces
    dsimp only
    split
    · exact h
    · exact h

/-! ## A segment (R58 to R68) -/

/-- The pieces of a region begin and end in it, lower first. -/
theorem mem_piecesOf {x t : Nat} {p : Nat × Nat} (h : p ∈ piecesOf x t) : x ≤ p.1 ∧ p.1 < p.2 ∧ p.2 ≤ t := by
  unfold piecesOf Config.chunkSize at h
  dsimp only at h
  by_cases hempty : t ≤ x
  · rw [if_pos hempty] at h
    exact absurd h List.not_mem_nil
  · rw [if_neg hempty] at h
    by_cases hone : t ≤ 65536 * (x / 65536 + 1)
    · rw [if_pos hone, List.mem_singleton] at h
      subst h
      exact ⟨le_rfl, by simp only; omega, le_rfl⟩
    · rw [if_neg hone, List.mem_cons, List.mem_singleton] at h
      rcases h with rfl | rfl
      · exact ⟨le_rfl, by simp only; omega, by simp only; omega⟩
      · exact ⟨by simp only; omega, by simp only; omega, le_rfl⟩

theorem Context.lt_windowEnd {x : Nat} (h : x < c.windowEnd) :
    x < c.committed + 65536 * c.w ∧ ∀ f, c.final = some f → x < f := by
  unfold Context.windowEnd Config.chunkSize at h
  cases hf : c.final with
  | none =>
    rw [hf] at h
    exact ⟨(lt_min_iff.mp h).1, fun f e => absurd e (by simp)⟩
  | some f =>
    rw [hf] at h
    refine ⟨(lt_min_iff.mp (lt_min_iff.mp h).1).1, fun f' e => ?_⟩
    rw [← Option.some.inj e]
    exact (lt_min_iff.mp h).2

theorem State.placeBytes_tends (hc : s.ctx? i = some c) (hrec : c.state.receiving = true) (l : LaneId) (g : Segment)
    (lastAccepted : Bool) : Tends i s (s.placeBytes i c l g lastAccepted) := by
  unfold State.placeBytes
  dsimp only
  split
  · exact ((s.addOld_tends i _).trans (State.adjustCtx_tends _ i fun _ => by rfl)).trans (State.count_tends _ i _ _)
  · split
    · exact (s.noteBeyond_tends i _ _).trans (State.finishSegment_tends _ i _ _ _ _)
    · refine Tends.trans ?_ (State.finishSegment_tends _ i _ _ _ _)
      have hold := s.addOld_tends i (max g.offset c.committed - g.offset)
      have hreach : SameReach i s (s.addOld i (max g.offset c.committed - g.offset)) :=
        s.modifyCtx_sameReach i fun _ => by rfl
      have hplaces : ∀ t : State, SameReach i s t → ∀ p ∈ piecesOf (max g.offset c.committed) (min (g.offset + g.length)
          c.windowEnd), ∀ d, t.ctx? i = some d → d.Places p.1 p.2 := by
        intro t ht p hp d hd
        obtain ⟨b, hb, hdb⟩ := ht d hd
        obtain rfl := Option.some.inj (hc.symm.trans hb)
        obtain ⟨hlow, hlt, hhigh⟩ := mem_piecesOf hp
        obtain ⟨hwithin, hbelow⟩ := Context.lt_windowEnd (c := c) (x := p.1) (by omega)
        exact Context.Places.congr ⟨hrec, hlt, by omega, hwithin, hbelow⟩ hdb
      split
      · exact (hold.trans (State.noteBeyond_tends _ i _ _)).trans
          (State.placePieces_tends i _ _ _ (hplaces _ (hreach.trans (State.noteBeyond_sameReach _ i _ _))))
      · exact hold.trans (State.placePieces_tends i _ _ _ (hplaces _ hreach))

theorem State.placeRest_tends (hrec : ∀ c, s.ctx? i = some c → c.state.receiving = true) (l : LaneId) (g : Segment)
    (lastAccepted : Bool) : Tends i s (s.placeRest i l g lastAccepted) := by
  unfold State.placeRest
  split
  · exact .refl
  · split
    · exact s.finishSegment_tends i _ _ _ _
    · exact State.placeBytes_tends ‹_› (hrec _ ‹_›) _ _ _

/-- A final end above the committed offset leaves the stream in its state. -/
theorem State.acceptFinal_ctx? (hc : s.ctx? i = some c) {f : Nat} (hf : f ≠ c.committed) :
    (s.acceptFinal i c f).ctx? i = some (c.ended f) := by
  rw [State.acceptFinal_of_ctx? hc, State.acceptFinal_setCtx, if_neg hf]
  exact State.ctx?_setCtx_self _ _ _

theorem State.placeSegment_tends (hc : s.ctx? i = some c) (hrec : c.state.receiving = true) (l : LaneId) (g : Segment) :
    Tends i s (s.placeSegment i c l g) := by
  have hthis : ∀ d, s.ctx? i = some d → d.state.receiving = true := fun d hd => by
    rw [← Option.some.inj (hc.symm.trans hd)]
    exact hrec
  unfold State.placeSegment
  dsimp only
  split
  · split
    · split
      · exact s.finishSegment_tends i _ _ _ _
      · have h := State.acceptFinal_tends hc hrec (g.offset + g.length)
        split
        · exact (h.trans (State.addOld_tends _ i _)).trans (State.finishSegment_tends _ i _ _ _ _)
        · rename_i hcommitted
          refine h.trans (State.placeRest_tends (fun d hd => ?_) _ _ _)
          rw [State.acceptFinal_ctx? hc hcommitted] at hd
          rw [← Option.some.inj hd, c.ended_eq]
          exact hrec
    · split
      · exact State.placeRest_tends hthis _ _ _
      · exact s.finishSegment_tends i _ _ _ _
  · exact State.placeRest_tends hthis _ _ _

end

end Sys2Proof.Machine
end

section
/-! # Outcomes, completions and offers keep records and pool in agreement (R100 to R110, R118, R125 to R130) -/

namespace Sys2Proof.Machine

/-! ## Outcomes of a verification -/

section
variable (s : State) (i : StreamIndex)

theorem State.reportRead_tends (slot : Slot) (ws : List Nat) (j : StreamIndex) (k : Nat) :
    Tends i s (s.reportRead slot ws j k) := .of_account (by rw [State.reportRead_eq]; rfl)

theorem State.countVerification_tends (v : Verification) : Tends i s (s.countVerification v) := by
  rw [State.countVerification_eq]
  exact .of_account (by rfl)

end

section
variable {s : State} {i : StreamIndex} {c : Context}

theorem ChunkRecord.keeps_passed (r : ChunkRecord) (check : Option Word) : r.Keeps (r.passed check) := by
  cases check <;> exact .of_eq rfl

/-- A pass in HOLD returns the stream to OPEN (R102). -/
theorem State.resume_tends (hc : ∀ d, s.ctx? i = some d → d.state = c.state) : Tends i s (s.resume i c) := by
  unfold State.resume
  split
  · rename_i hhold
    refine (s.modifyCtx_tends i (f := fun d => { d with state := .opened, history := [], holdFailures := 0 })
      fun d hd => ?_).trans (State.raise_tends _ i _)
    exact .of_receiving rfl (.inl rfl) (by rw [hc d hd, hhold]; rfl)
  · exact .refl

theorem State.modifyCtx_state {f : Context → Context} (hc : s.ctx? i = some c) (hf : (f c).state = c.state) :
    ∀ d, (s.modifyCtx i f).ctx? i = some d → d.state = c.state := by
  intro d hd
  rw [State.modifyCtx, hc, State.ctx?_setCtx_self] at hd
  rw [← Option.some.inj hd]
  exact hf

theorem State.passReceiving_tends (hc : s.ctx? i = some c) (pos : Nat) (check : Word) :
    Tends i s (s.passReceiving i pos c check) :=
  (s.modifyCtx_tends i fun d _ =>
    (d.tame_modifyChunk pos fun r => r.keeps_passed (some check)).trans (.of_core (by rfl))).trans
    (State.resume_tends (State.modifyCtx_state hc (by rfl)))

theorem State.comparedReceiving_tends (hc : s.ctx? i = some c) (pos n : Nat) :
    Tends i s (s.comparedReceiving i pos n c) :=
  ((s.modifyCtx_tends i fun d _ =>
    (d.tame_modifyChunk pos fun r => r.keeps_passed none).trans (.of_core (by rfl))).trans
    (State.resume_tends (State.modifyCtx_state hc (by rfl)))).trans (State.orderedCommit_tends _ i)

theorem State.enterHold_tends (hc : ∀ d, s.ctx? i = some d → d.state.receiving = true) (b : Context) :
    Tends i s (s.enterHold i b) := by
  unfold State.enterHold
  dsimp only
  refine Tends.trans ?_ (State.raise_tends _ i _)
  refine Tends.trans ?_ (State.modifyCtx_tends _ i fun d _ => d.tame_emptyUnverified.trans (.of_core (by rfl)))
  refine Tends.trans ?_ (State.clearQueue_tends _ i)
  exact s.modifyCtx_tends i fun d hd => .of_receiving rfl (.inr rfl) (hc d hd)

theorem State.testThreshold_tends (hc : ∀ d, s.ctx? i = some d → d.state.receiving = true) (pos : Nat) (b : Context) :
    Tends i s (s.testThreshold i pos b) := by
  unfold State.testThreshold
  split
  · exact State.enterHold_tends hc b
  · exact s.adjustCtx_tends i fun _ => by rfl

theorem State.failInHold_tends (s : State) (i : StreamIndex) (c : Context) (r : Option Nat) :
    Tends i s (s.failInHold i c r) := by
  unfold State.failInHold
  dsimp only
  refine (s.adjustCtx_tends i (f := fun d => { d with holdFailures := d.holdFailures + 1 }) fun _ => by rfl).trans ?_
  split
  · exact (State.adjustCtx_tends _ i fun _ => by rfl).trans (State.retireGiven_tends _ _ _)
  · exact State.enterAborted_tends _ _ _ _

theorem State.failReceiving_tends (hc : s.ctx? i = some c) (hrec : c.state.receiving = true) (pos : Nat) (r : Option Nat) :
    Tends i s (s.failReceiving i pos c r) := by
  unfold State.failReceiving
  dsimp only
  generalize hd : Context.count _ _ = d
  have hset : Tends i s (s.setCtx i d) := State.setCtx_tends hc (by
    rw [← hd]
    exact (c.tame_modifyChunk pos (f := fun r => { r.emptied with failures := min ((c.window[pos]?).elim 0 (·.failures) + 1) 3 })
      fun _ => ⟨rfl, rfl, fun _ => rangesWF_nil⟩).trans (.of_core (by rfl)))
  have hstate : d.state.receiving = true := by rw [← hd]; exact hrec
  refine hset.trans ?_
  split
  · exact State.enterAborted_tends _ _ _ _
  · split
    · exact State.failInHold_tends _ _ _ _
    · refine (State.testThreshold_tends (fun e he => ?_) _ _).trans (State.retireGiven_tends _ _ _)
      rw [State.ctx?_setCtx_self] at he
      rw [← Option.some.inj he]
      exact hstate

theorem State.outcomeReceiving_tends (hc : s.ctx? i = some c) (hrec : c.state.receiving = true) (pos : Nat)
    (v : Verification) : Tends i s (s.outcomeReceiving i pos c v) := by
  cases v with
  | pass check => exact State.passReceiving_tends hc pos check
  | compared n => exact State.comparedReceiving_tends hc pos n
  | fail reason => exact State.failReceiving_tends hc hrec _ _

theorem State.outcomeStopped_tends (s : State) (i : StreamIndex) (pos : Nat) (v : Verification) :
    Tends i s (s.outcomeStopped i pos v) := by
  cases v with
  | pass check => exact s.modifyChunk_tends i pos fun r => r.keeps_passed (some check)
  | compared n =>
    exact (s.modifyCtx_tends i fun d _ =>
      (d.tame_modifyChunk pos fun r => r.keeps_passed none).trans (.of_core (by rfl))).trans (State.orderedCommit_tends _ i)
  | fail reason => exact (s.modifyChunk_tends i pos ChunkRecord.keeps_emptied).trans (State.retireGiven_tends _ _ _)

theorem State.applyOutcome_tends (s : State) (i : StreamIndex) (pos : Nat) (v : Verification) :
    Tends i s (s.applyOutcome i pos v) := by
  unfold State.applyOutcome
  split
  · exact .refl
  · rename_i c hc
    cases hstate : c.state with
    | opened => exact State.outcomeReceiving_tends hc (by rw [hstate]; rfl) _ _
    | hold => exact State.outcomeReceiving_tends hc (by rw [hstate]; rfl) _ _
    | aborted => exact s.outcomeStopped_tends _ _ _
    | salvaging => exact s.outcomeStopped_tends _ _ _
    | releasing => exact s.endInFlight_tends _ _ _
    | complete => exact .refl

theorem State.startVerify_tends (s : State) (q : ChunkName) : Tends q.stream s (s.startVerify q) := by
  unfold State.startVerify
  split
  · exact .refl
  · split
    · exact .refl
    · split
      · exact .refl
      · exact ((s.modifyChunk_tends q.stream q.pos (f := fun x => { x with state := .verifying }) fun _ => .of_eq rfl).trans (.of_account (by rfl))).trans
          (State.settle_tends _ _)

/-! ## Completions -/

theorem State.storeFailure_tends (s : State) (i : StreamIndex) (pos : Nat) (c : Context) (r : ChunkRecord) :
    Tends i s (s.storeFailure i pos c r) := by
  unfold State.storeFailure
  dsimp only
  refine (s.modifyChunk_tends i pos (f := fun x => { x with state := .verified }) fun _ => .of_eq (by rfl)).trans ?_
  split
  · exact .refl
  · cases c.state with
    | opened => exact State.enterAborted_tends _ _ _ _
    | hold => exact State.enterAborted_tends _ _ _ _
    | salvaging => exact State.enterReleasing_tends _ _ _
    | complete => exact .refl
    | aborted => exact .refl
    | releasing => exact .refl

theorem State.targetFull_tends (s : State) (i : StreamIndex) (pos : Nat) (c : Context) :
    Tends i s (s.targetFull i pos c) := by
  unfold State.targetFull
  dsimp only
  refine (s.modifyChunk_tends i pos (f := fun x => { x with state := .verified }) fun _ => .of_eq (by rfl)).trans ?_
  cases c.state with
  | opened => exact State.enterAborted_tends _ _ _ _
  | hold => exact State.enterAborted_tends _ _ _ _
  | salvaging => exact State.enterReleasing_tends _ _ _
  | complete => exact .refl
  | aborted => exact .refl
  | releasing => exact .refl

theorem State.poisonedFailure_tends (s : State) (i : StreamIndex) (pos n : Nat) (c : Context) :
    Tends i s (s.poisonedFailure i pos n c) := by
  unfold State.poisonedFailure
  dsimp only
  refine Tends.trans
    (s.adjustCtx_tends i (f := fun d => d.count fun k => { k with failures := satAdd k.failures 1 }) fun _ => by rfl) ?_
  split
  · exact State.enterAborted_tends _ _ _ _
  · exact (State.modifyCtx_tends _ i fun d _ =>
      (d.tame_modifyChunk pos (f := fun x => { x with failures := n + 1 }) fun _ => .of_eq rfl).trans (.of_core (by rfl))).trans (State.retireFromChunk_tends _ _ _)

theorem State.poisonedCompletion_tends (s : State) (i : StreamIndex) (pos : Nat) (c : Context) (r : ChunkRecord) :
    Tends i s (s.poisonedCompletion i pos c r) := by
  unfold State.poisonedCompletion
  dsimp only
  refine (s.modifyChunk_tends i pos (f := ChunkRecord.poisoned) fun _ => ⟨rfl, rfl, fun _ => rangesWF_nil⟩).trans ?_
  split
  · exact State.poisonedFailure_tends _ _ _ _ _
  · exact State.retireFromChunk_tends _ _ _

theorem State.completeLive_tends (s : State) (i : StreamIndex) (pos : Nat) (c : Context) (r : ChunkRecord)
    (st : CompletionStatus) (check : Word) : Tends i s (s.completeLive i pos c r st check) := by
  cases st with
  | stored =>
    simp only [State.completeLive]
    split
    · exact (s.modifyChunk_tends i pos fun _ => .of_eq (by rfl)).trans (State.orderedCommit_tends _ _)
    · exact s.storeFailure_tends _ _ _ _
  | writeFailed => exact s.storeFailure_tends _ _ _ _
  | targetFull => exact s.targetFull_tends _ _ _
  | poisoned => exact s.poisonedCompletion_tends _ _ _ _

theorem State.applyCompletion_tends (s : State) (i : StreamIndex) (pos : Nat) (st : CompletionStatus) (check : Word) :
    Tends i s (s.applyCompletion i pos st check) := by
  unfold State.applyCompletion
  split
  · exact .refl
  · split
    · exact s.endInFlight_tends _ _ _
    · exact .refl
    · exact s.completeLive_tends _ _ _ _ _ _
    · exact .refl

theorem State.endRecord_tends (s : State) (d : DrainRecord) (st : CompletionStatus) (check : Word) :
    Tends d.stream s (s.endRecord d st check) := by
  unfold State.endRecord
  dsimp only
  refine Tends.trans ?_ (State.poolTest_tends _ _)
  refine Tends.trans ?_ (State.settle_tends _ _)
  refine Tends.trans ?_ (State.applyCompletion_tends _ _ _ _ _)
  exact (s.checkParity_tends d.stream).trans (.of_account (by rfl))

theorem State.readRecord_tends (s : State) (i : StreamIndex) (q : ReadRequest) (d : DrainRecord) :
    Tends i s (s.readRecord q d) := by
  unfold State.readRecord State.readChunk
  split
  · split
    · split
      · exact .of_account (by rfl)
      · exact (s.reportRead_tends i _ _ _ _).trans (.of_account (by rfl))
    · exact .of_account (by rfl)
  · exact .of_account (by rfl)

/-! ## Notices and offers -/

theorem State.serveStream_tends (s : State) (l : LaneId) (i : StreamIndex) : Tends i s (s.serveStream l i) := by
  unfold State.serveStream
  split
  · exact .refl
  · rename_i c hc
    split
    · exact .refl
    · exact (State.setCtx_tends hc (.of_core (by rfl))).trans (State.modifyLane_tends _ i _ _)

theorem State.takeOffer_tends (s : State) (o : Offer) (rest : List Offer) : Tends o.stream s (s.takeOffer o rest) := by
  unfold State.takeOffer
  dsimp only
  have hanswer : ∀ (u : State) (bytes : List Byte), Tends o.stream u (u.answerTake bytes) := fun _ _ => .of_account (by rfl)
  refine Tends.trans ?_ (hanswer _ _)
  refine Tends.trans ?_ (State.settle_tends _ _)
  exact (State.setDrain_tends _ _ _ _).trans (State.modifyChunk_tends _ _ _ fun _ => .of_eq (by rfl))

theorem State.makeOffer_tends (s : State) (i : StreamIndex) : Tends i s (s.makeOffer i) := by
  unfold State.makeOffer
  split
  · exact .refl
  · rename_i c hc
    split
    · exact .refl
    · rename_i x _
      dsimp only
      refine Tends.trans ?_ (State.settle_tends _ i)
      have h : ∀ t : State, t.account = s.account → ∀ d : Context, c.Tame d → Tends i s (t.setCtx i d) := by
        intro t ht d hd
        exact (Tends.of_account ht).trans (State.setCtx_tends (((State.account_eq ht).2.1 i).trans hc) hd)
      have hoffered : ∀ (f : StreamCounters → StreamCounters), c.Tame
          { (c.modifyChunk x.1 fun r => { r with state := .offered, offers := r.offers + 1 }).count f with
            streaming := true } := fun f =>
        (c.tame_modifyChunk x.1 (f := fun r => { r with state := .offered, offers := r.offers + 1 }) fun _ => .of_eq rfl).trans (.of_core (by rfl))
      cases decide (1 ≤ x.2.offers) with
      | true => exact Tends.trans (h _ (by rfl) _ (hoffered _)) (State.count_tends _ _ _ _)
      | false => exact h _ (by rfl) _ (hoffered _)

end

end Sys2Proof.Machine
end

section
/-! # Events on many streams keep records and pool in agreement (R33 to R35, R119, R121, R122, R146, R147) -/

namespace Sys2Proof.Machine

/-! ## The agreement of the device -/

/-- The pool is partitioned and agrees with the records of every stream outside `D`; no entry is live outside READY. -/
structure State.AgreesBut (s : State) (D : StreamIndex → Prop) : Prop where
  table : s.TableWF
  partition : s.pool.Partition
  faithful : ∀ i, ¬D i → s.Faithful i
  unready : s.device ≠ .ready → ∀ i, s.ctx? i = none

/-- The agreement without exception. -/
abbrev State.Agrees (s : State) : Prop := s.AgreesBut fun _ => False

theorem recordsSound_iff {s : State} : RecordsSound s ↔
    (∀ i, s.Faithful i) ∧ (s.device ≠ .ready → ∀ i, s.ctx? i = none) := by
  have hslots : ∀ i slot pos, ((s.ctx? i).bind (·.slotAt pos) = some slot ↔
      ∃ c r, s.ctx? i = some c ∧ c.window[pos]? = some r ∧ r.slot = some slot) := by
    intro i slot pos
    simp only [Option.bind_eq_some_iff, Context.slotAt]
    exact ⟨fun ⟨c, hc, r, hr, h⟩ => ⟨c, r, hc, hr, h⟩, fun ⟨c, r, hc, hr, h⟩ => ⟨c, hc, r, hr, h⟩⟩
  simp only [RecordsSound, State.Faithful, Pool.Owns, hslots]
  exact ⟨fun ⟨h, hsound, hunready⟩ => ⟨fun i => ⟨fun slot pos => h slot i pos, hsound i⟩, hunready⟩,
    fun ⟨h, hunready⟩ => ⟨fun slot i pos => (h i).1 slot pos, fun i => (h i).2, hunready⟩⟩

section
variable {s t u : State} {i : StreamIndex} {D E : StreamIndex → Prop}

/-- An operation on stream `i` leaves the agreement of the other streams. -/
theorem OnlyAt.agreesBut (h : OnlyAt i s t) (hs : s.AgreesBut D) (hE : ∀ j, j ≠ i → D j → E j)
    (hi : ¬E i → t.Faithful i) : t.AgreesBut E where
  table := h.table hs.table
  partition := h.partition hs.partition
  faithful j hj := by
    by_cases hji : j = i
    · exact hji ▸ hi (hji ▸ hj)
    · have hf := hs.faithful j fun hD => hj (hE j hji hD)
      simpa only [State.Faithful, Pool.Owns, h.uses hs.partition j hji, h.others hs.table j hji] using hf
  unready hd j := by
    have hnone := hs.unready (h.device ▸ hd)
    by_cases hji : j = i
    · exact hji ▸ h.free hs.table (hnone i)
    · rw [h.others hs.table j hji]
      exact hnone j

theorem Tends.agreesBut (h : Tends i s t) (hs : s.AgreesBut D) : t.AgreesBut D :=
  h.toOnlyAt.agreesBut hs (fun _ _ => id) fun hi => h.faithful hs.table hs.partition (hs.faithful i hi)

/-- What every event keeps: the partition of the slots, and the agreement of the records with the pool. -/
structure Kept (s t : State) : Prop where
  partition : s.pool.Partition → t.pool.Partition
  agrees : s.Agrees → t.Agrees

theorem Kept.trans (h : Kept s t) (g : Kept t u) : Kept s u := ⟨g.partition ∘ h.partition, g.agrees ∘ h.agrees⟩

theorem Tends.kept (h : Tends i s t) : Kept s t := ⟨h.partition, h.agreesBut⟩

theorem Kept.of_account (h : t.account = s.account) : Kept s t := (Tends.of_account (i := 0) h).kept

theorem Kept.refl (s : State) : Kept s s := .of_account rfl

end

/-! ## Parity errors and lookups -/

theorem State.handleAll_kept (l : List StreamIndex) : ∀ s : State, Kept s (s.handleAll l) := by
  induction l with
  | nil => exact .refl
  | cons i rest ih => exact fun s => (s.handleParity_tends i).kept.trans (ih _)

theorem State.checkAll_kept (l : List StreamIndex) : ∀ s : State, Kept s (s.checkAll l) := by
  induction l with
  | nil => exact .refl
  | cons i rest ih => exact fun s => (s.checkParity_tends i).kept.trans (ih _)

theorem State.checkRead_kept (s : State) (read : List StreamIndex) : Kept s (s.checkRead read) := by
  unfold State.checkRead
  exact State.checkAll_kept _ s

theorem State.turn_kept (s : State) (order : List StreamIndex) (serves : StreamIndex → Bool) :
    Kept s (s.turn order serves).1 := by
  unfold State.turn
  dsimp only
  exact s.checkRead_kept _

theorem State.lookup_kept (s : State) (tag : Nat) : Kept s (s.lookup tag).1 := by
  unfold State.lookup
  dsimp only
  split_ifs
  · split <;> exact .refl s
  · exact (s.checkParity_tends _).kept.trans (State.checkParity_tends _ _).kept

/-! ## Segments and notices -/

theorem State.routeSegment_kept (s : State) (l : LaneId) (g : Segment) : Kept s (s.routeSegment l g) := by
  have h := s.lookup_kept g.tag
  unfold State.routeSegment
  dsimp only
  split
  · exact h.trans (.of_account (by rfl))
  · exact h.trans (.of_account (by rfl))
  · rename_i i c hfound
    split
    · rename_i hrec
      exact h.trans ((State.placeSegment_tends (State.ctx?_of_lookup hfound) hrec l g).trans (State.settle_tends _ i)).kept
    · exact h.trans (State.dropStopped_tends _ i).kept

theorem State.handleSegment_kept (s : State) (l : LaneId) (record : List Byte) : Kept s (s.handleSegment l record) := by
  unfold State.handleSegment
  split
  · exact .of_account (by rfl)
  · split
    · exact .of_account (by rfl)
    · exact s.routeSegment_kept _ _

theorem State.placeStreamOrCredit_kept (s : State) (l : LaneId) : Kept s (s.placeStreamOrCredit l) := by
  have h := s.turn_kept (turnOrder (s.lane l).turn) (s.servable l)
  unfold State.placeStreamOrCredit
  generalize s.turn (turnOrder (s.lane l).turn) (s.servable l) = r at h ⊢
  refine h.trans ?_
  dsimp only
  split
  · exact (State.serveStream_tends _ _ _).kept
  · split
    · exact .of_account (by rfl)
    · exact .refl _

/-! ## Lanes -/

theorem State.redirect_kept (old new : Option LaneId) (l : List StreamIndex) : ∀ s : State, Kept s (s.redirect old new l) := by
  induction l with
  | nil => exact .refl
  | cons i rest ih =>
    refine fun s => ((s.checkParity_tends i).trans (State.adjustCtx_tends _ i fun c => ?_)).kept.trans (ih _)
    split_ifs <;> rfl

theorem Context.putBack_core (c : Context) (n : Notice) : (c.putBack n).core = c.core := by
  cases n with
  | commit | pool | credit => rfl
  | gap | resync | ended | stop => simp only [Context.putBack]; split_ifs <;> rfl

theorem State.putBackOne_kept (s : State) (r : NoticeRecord) : Kept s (s.putBackOne r) := by
  unfold State.putBackOne
  split
  · refine (s.adjustCtx_tends _ fun c => ?_).kept
    split_ifs
    · exact c.putBack_core _
    · rfl
  · exact .refl s

theorem State.putBackEach_kept (l : List NoticeRecord) : ∀ s : State, Kept s (s.putBackEach l) := by
  induction l with
  | nil => exact .refl
  | cons r rest ih => exact fun s => (s.putBackOne_kept r).trans (ih _)

theorem State.laneActive_kept (s : State) (l : LaneId) (v : Lane) (cause : LaneCause) : Kept s (s.laneActive l v cause) :=
  (Kept.of_account (by simp [State.account])).trans (State.redirect_kept _ _ _ _)

theorem State.laneQuiesced_kept (s : State) (l : LaneId) : Kept s (s.laneQuiesced l) :=
  (Kept.of_account (by simp [State.account])).trans (State.redirect_kept _ _ _ _)

theorem State.raise_kept (s : State) (e : Event) : Kept s (s.raise e) := (s.raise_tends 0 e).kept

theorem State.poolTest_kept (s : State) : Kept s s.poolTest := (s.poolTest_tends 0).kept

theorem State.linkLost_kept (s : State) (l : LaneId) (cause : LaneCause) : Kept s (s.linkLost l cause) := by
  unfold State.linkLost
  dsimp only
  split
  · exact .of_account (by rfl)
  · refine Kept.trans ?_ (((State.checkRead_kept _ _).trans (State.putBackEach_kept _ _)).trans (State.raise_kept _ _))
    refine Kept.trans (t := (s.count (.drop .laneLost) (s.lane l).ingress.length).setLane l (s.lane l).lost)
      (.of_account (by rfl)) ?_
    split
    · exact State.redirect_kept _ _ _ _
    · exact .refl _

/-! ## The idle test, the drain port -/

theorem State.idleTest_kept (s : State) (i : StreamIndex) : Kept s (s.idleTest i) := by
  unfold State.idleTest
  split
  · exact .refl s
  · rename_i c hc
    split_ifs
    · exact ((State.setCtx_tends hc (.of_core (by rfl))).trans (State.raise_tends _ i _)).kept
    · exact (s.checkParity_tends i).kept
    · exact .refl s

theorem State.idleTests_kept (l : List StreamIndex) : ∀ s : State, Kept s (s.idleTests l) := by
  induction l with
  | nil => exact .refl
  | cons i rest ih => exact fun s => (s.idleTest_kept i).trans (ih _)

theorem State.takeHead_kept (s : State) : Kept s s.takeHead := by
  have h := s.checkRead_kept ((s.offered.takeWhile fun o => !(s.entry o.stream).parityGood).map (·.stream))
  unfold State.takeHead
  dsimp only
  generalize s.checkRead _ = t at h ⊢
  refine h.trans ?_
  split
  · exact .of_account (by rfl)
  · exact (State.takeOffer_tends _ _ _).kept

theorem State.serveFirst_kept (s : State) (order : List StreamIndex) : Kept s (s.serveFirst order) := by
  have h := s.turn_kept order s.offerableAt
  unfold State.serveFirst
  generalize s.turn order s.offerableAt = r at h ⊢
  refine h.trans ?_
  dsimp only
  split
  · exact (State.makeOffer_tends _ _).kept
  · exact .refl _

/-! ## Withdrawals (R119, R121, R122)

A withdrawal of a RELEASING stream that the engine does not hold may give up slots that the records still have, for the
stream returns to FREE when the withdrawals end. Until then the agreement leaves these streams out. -/

/-- Stream `i` is among `streams`, RELEASING, and not in the check engine. -/
def State.Leaving (s : State) (streams : List StreamIndex) (i : StreamIndex) : Prop :=
  i ∈ streams ∧ (∃ c, s.ctx? i = some c ∧ c.state = .releasing) ∧ (s.engine.any fun o => decide (o.stream = i)) = false

section
variable {s : State} {streams : List StreamIndex}

/-- The slots a withdrawal gives up are slots of the stream, each named once. -/
theorem State.slotsWithdrawn_sublist (s : State) (c : Context) (q : ChunkName) (rest : List ChunkName) :
    (s.slotsWithdrawn c q rest).Sublist (s.slotsInOrder q.stream c) := by
  unfold State.slotsWithdrawn
  dsimp only
  split_ifs
  · exact List.filter_sublist
  · exact List.filter_sublist
  · exact .refl _

theorem State.slotsWithdrawn_givesUp {t : State} {c : Context} {q : ChunkName} {rest : List ChunkName}
    (hpool : t.pool = s.pool) (hp : s.pool.Partition) :
    s.pool.GivesUp (t.giveUpAll none (s.slotsWithdrawn c q rest)).pool q.stream
      fun x => x ∈ (s.slotsWithdrawn c q rest).map Prod.fst := by
  have hlisted := State.slotsInOrder_listed hp.2.2.1 q.stream c
  have hsub := s.slotsWithdrawn_sublist c q rest
  rw [← hpool] at hp ⊢
  refine State.giveUpAll_givesUp none _ hp (hlisted.nodup.sublist (hsub.map Prod.fst)) fun x hx => ?_
  rw [hpool]
  exact (hlisted.mem x).mp (hsub.subset hx)

theorem State.withdrawOne_onlyAt (s : State) (q : ChunkName) (rest : List ChunkName) :
    OnlyAt q.stream s (s.withdrawOne q rest) := by
  unfold State.withdrawOne
  split
  · exact Tends.refl.toOnlyAt
  · rename_i c hc
    have hmodified : ∀ f, OnlyAt q.stream s (s.modifyChunk q.stream q.pos f) := fun _ => State.modifyCtx_onlyAt _ _ _
    split
    · refine (hmodified _).trans (.of_givesUp (by rw [State.giveUpAll_eq]) (by rw [State.giveUpAll_eq]) fun p => ?_)
      have hpool : (s.modifyChunk q.stream q.pos ChunkRecord.withdrawnGivenUp).pool = s.pool := by
        simp [State.modifyChunk]
      rw [hpool] at p ⊢
      exact ⟨_, State.slotsWithdrawn_givesUp hpool p⟩
    · exact hmodified _

/-- The stream's entry after a withdrawal is RELEASING when it was. -/
theorem State.withdrawOne_ctx? (s : State) (q : ChunkName) (rest : List ChunkName) :
    (s.withdrawOne q rest).ctx? q.stream = (s.ctx? q.stream).map fun c => c.modifyChunk q.pos
      (if c.state = .releasing then ChunkRecord.withdrawnGivenUp else ChunkRecord.withdrawn) := by
  unfold State.withdrawOne
  split
  · rename_i hc
    rw [hc]; rfl
  · rename_i c hc
    rw [hc]
    have hmodified : ∀ f, (s.modifyChunk q.stream q.pos f).ctx? q.stream = some (c.modifyChunk q.pos f) := fun f => by
      rw [State.modifyChunk, State.modifyCtx, hc, State.ctx?_setCtx_self]
    split_ifs with hreleasing
    · rw [State.ctx?, State.entry, State.giveUpAll_eq]
      rw [Option.map_some, if_pos hreleasing]
      exact hmodified _
    · rw [Option.map_some, if_neg hreleasing]
      exact hmodified _

theorem State.withdrawOne_engine (s : State) (q : ChunkName) (rest : List ChunkName) :
    (s.withdrawOne q rest).engine = s.engine := by rw [(s.withdrawOne_op q rest).rest]

theorem ChunkRecord.follows_withdrawnGivenUp (r : ChunkRecord) : r.Follows r.withdrawnGivenUp :=
  ⟨rfl, .inr rfl, fun _ => rangesWF_nil⟩

/-- A withdrawal of a stream that stays: it is not RELEASING, or the engine holds it and one slot alone is given up. -/
theorem State.withdrawOne_faithful {q : ChunkName} {rest : List ChunkName} (hw : s.TableWF) (hp : s.pool.Partition)
    (hf : s.Faithful q.stream)
    (hstays : ∀ c, s.ctx? q.stream = some c → c.state = .releasing → (s.engine.any fun o => decide (o.stream = q.stream)) = true) :
    (s.withdrawOne q rest).Faithful q.stream := by
  cases hc : s.ctx? q.stream with
  | none => rwa [State.withdrawOne, hc]
  | some c =>
    by_cases hreleasing : c.state = .releasing
    · have hengine := hstays c hc hreleasing
      have hafter := s.withdrawOne_ctx? q rest
      rw [hc, Option.map_some, if_pos hreleasing] at hafter
      have hpool : (s.modifyChunk q.stream q.pos ChunkRecord.withdrawnGivenUp).pool = s.pool := by
        simp [State.modifyChunk]
      have hgives := State.slotsWithdrawn_givesUp (c := c) (q := q) (rest := rest) hpool hp
      have hsame : (s.withdrawOne q rest).pool = ((s.modifyChunk q.stream q.pos ChunkRecord.withdrawnGivenUp).giveUpAll none
          (s.slotsWithdrawn c q rest)).pool := by
        rw [State.withdrawOne, hc]
        dsimp only
        rw [if_pos hreleasing]
      refine State.faithful_slotless hc hp hf (fun _ => rfl) ChunkRecord.follows_withdrawnGivenUp hafter
        (hsame ▸ hgives) fun slot => ?_
      obtain ⟨howns, -⟩ := (State.faithful_iff hc).mp hf
      have hlisted := State.slotsInOrder_listed hp.2.2.1 q.stream c
      rw [howns.slotOf hp, ← howns, State.slotsWithdrawn, if_pos hengine, List.mem_map]
      constructor
      · rintro ⟨x, hx, rfl⟩
        obtain ⟨hx, hpos⟩ := List.mem_filter.mp hx
        rw [decide_eq_true_eq] at hpos
        exact hpos ▸ (hlisted.mem x).mp hx
      · exact fun hslot => ⟨(slot, q.pos), List.mem_filter.mpr ⟨(hlisted.mem _).mpr hslot, by simp⟩, rfl⟩
    · rw [State.withdrawOne, hc]
      dsimp only
      rw [if_neg hreleasing]
      exact (s.modifyChunk_tends q.stream q.pos ChunkRecord.keeps_withdrawn).faithful hw hp hf

theorem State.withdrawOne_leaving (s : State) (q : ChunkName) (rest : List ChunkName) (hw : s.TableWF) (i : StreamIndex) :
    (s.withdrawOne q rest).Leaving streams i ↔ s.Leaving streams i := by
  have hctx : (∃ c, (s.withdrawOne q rest).ctx? i = some c ∧ c.state = .releasing) ↔
      ∃ c, s.ctx? i = some c ∧ c.state = .releasing := by
    by_cases hi : i = q.stream
    · subst hi
      rw [s.withdrawOne_ctx?]
      cases s.ctx? q.stream with
      | none => simp
      | some c => simp [Context.modifyChunk]
    · rw [(s.withdrawOne_onlyAt q rest).others hw i hi]
  simp only [State.Leaving, hctx, s.withdrawOne_engine]

theorem State.withdrawOne_agrees {q : ChunkName} (hq : q.stream ∈ streams) (rest : List ChunkName)
    (hs : s.AgreesBut (s.Leaving streams)) :
    (s.withdrawOne q rest).AgreesBut ((s.withdrawOne q rest).Leaving streams) := by
  have hleaving := fun i => s.withdrawOne_leaving (streams := streams) q rest hs.table i
  refine (s.withdrawOne_onlyAt q rest).agreesBut hs (fun j _ hj => (hleaving j).mpr hj) fun hstays => ?_
  rw [hleaving] at hstays
  refine State.withdrawOne_faithful hs.table hs.partition (hs.faithful _ hstays) fun c hc hreleasing => ?_
  exact Bool.eq_true_of_not_eq_false fun hengine => hstays ⟨hq, ⟨c, hc, hreleasing⟩, hengine⟩

theorem State.withdrawEach_partition (l : List ChunkName) : ∀ s : State,
    s.pool.Partition → (s.withdrawEach l).pool.Partition := by
  induction l with
  | nil => exact fun _ p => p
  | cons q rest ih => exact fun s p => ih _ ((s.withdrawOne_onlyAt q rest).partition p)

theorem State.withdrawEach_agrees (l : List ChunkName) : ∀ {s : State}, (∀ q ∈ l, q.stream ∈ streams) →
    s.AgreesBut (s.Leaving streams) → (s.withdrawEach l).AgreesBut ((s.withdrawEach l).Leaving streams) := by
  induction l with
  | nil => exact fun _ hs => hs
  | cons q rest ih =>
    exact fun hl hs => ih (fun x hx => hl x (by simp [hx])) (State.withdrawOne_agrees (hl q (by simp)) rest hs)

/-- A RELEASING stream with nothing in flight returns to FREE at the end of the event. -/
theorem State.settle_leaves {i : StreamIndex} {c : Context} (hc : s.ctx? i = some c) (hreleasing : c.state = .releasing)
    (hflight : s.inFlight i = false) (hw : s.TableWF) (hp : s.pool.Partition) : (s.settle i).Faithful i := by
  have hset : s.modifyCtx i Context.testDrainFlags = s.setCtx i c.testDrainFlags := by rw [State.modifyCtx, hc]
  have hdone : c.testDrainFlags.salvageDone = false := by simp [Context.salvageDone, Context.testDrainFlags, hreleasing]
  have hfreed : s.settle i = (s.setCtx i c.testDrainFlags).toFree i c.testDrainFlags none := by
    rw [State.settle, hset, State.ctx?_setCtx_self]
    dsimp only
    rw [hdone, if_neg Bool.false_ne_true, State.testFree, State.ctx?_setCtx_self]
    exact if_pos ⟨hreleasing, hflight⟩
  rw [hfreed]
  exact ((State.toFree_frees _ i _ none).2 (State.setEntry_tableWF hw i _) hp).2

theorem State.settle_inFlight (s : State) (i j : StreamIndex) : (s.settle i).inFlight j = s.inFlight j := by
  rw [State.inFlight, (s.settle_op i).rest]
  rfl

theorem State.settleAll_agrees (l : List StreamIndex) : ∀ {s : State} {D : StreamIndex → Prop}, s.AgreesBut D →
    (∀ i, D i → i ∈ l ∧ (∃ c, s.ctx? i = some c ∧ c.state = .releasing) ∧ s.inFlight i = false) →
    (s.settleAll l).Agrees := by
  induction l with
  | nil =>
    exact fun hs hD => ⟨hs.table, hs.partition, fun i _ => hs.faithful i fun hi => List.not_mem_nil (hD i hi).1, hs.unready⟩
  | cons i rest ih =>
    intro s D hs hD
    have honly := (s.settle_tends i).toOnlyAt
    refine ih (D := fun j => D j ∧ j ≠ i) (honly.agreesBut hs (fun j hj hDj => ⟨hDj, hj⟩) fun hstays => ?_) fun j hj => ?_
    · by_cases hDi : D i
      · obtain ⟨-, ⟨c, hc, hreleasing⟩, hflight⟩ := hD i hDi
        exact State.settle_leaves hc hreleasing hflight hs.table hs.partition
      · exact (s.settle_tends i).faithful hs.table hs.partition (hs.faithful i hDi)
    · obtain ⟨hmem, hlive, hflight⟩ := hD j hj.1
      rw [honly.others hs.table j hj.2, State.settle_inFlight]
      exact ⟨(List.mem_cons.mp hmem).resolve_left hj.2, hlive, hflight⟩

theorem State.settleAll_partition (l : List StreamIndex) : ∀ s : State,
    s.pool.Partition → (s.settleAll l).pool.Partition := by
  induction l with
  | nil => exact fun _ p => p
  | cons i rest ih => exact fun s p => ih _ ((s.settle_tends i).partition p)

/-- Withdrawals from the drain map, or from the drain map and the offered list, with the tests each stream's event ends
with. -/
theorem Kept.withdrawals {names : List ChunkName} {offered : List Offer} (hnames : ∀ q ∈ names, q.stream ∈ streams) :
    Kept s ({ s.withdrawEach names with drainMap := [], offered := offered }.settleAll streams) := by
  refine ⟨fun p => State.settleAll_partition _ _ (State.withdrawEach_partition names s p), fun hs => ?_⟩
  have hbut : s.AgreesBut (s.Leaving streams) := ⟨hs.table, hs.partition, fun i _ => hs.faithful i id, hs.unready⟩
  have hwithdrawn := State.withdrawEach_agrees names hnames hbut
  generalize s.withdrawEach names = t at hwithdrawn
  refine State.settleAll_agrees streams (D := t.Leaving streams)
    ((t.setDrain_tends 0 [] offered).agreesBut hwithdrawn) fun i hi => ⟨hi.1, hi.2.1, ?_⟩
  rw [State.inFlight, hi.2.2]
  rfl

theorem State.handleAll_names (l : List StreamIndex) (s : State) :
    (s.handleAll l).mapNames = s.mapNames ∧ (s.handleAll l).offeredNames ⊆ s.offeredNames := by
  have h := State.handleAll_op l s
  exact ⟨by rw [State.mapNames, h.rest, State.mapNames], List.map_subset _ h.offered.subset⟩

theorem mem_streamsNamed {names : List ChunkName} {q : ChunkName} (h : q ∈ names) : q.stream ∈ streamsNamed names :=
  List.mem_filter.mpr ⟨List.mem_finRange _, List.any_eq_true.mpr ⟨q, h, by simp⟩⟩

/-- The withdrawals of an event name streams that the event names. -/
theorem State.withdrawals_named (s : State) {names named : List ChunkName} (h : names ⊆ named) :
    ∀ q ∈ s.withdrawals names, q.stream ∈ streamsNamed named := by
  intro q hq
  have hmem : q.stream ∈ (s.withdrawals names).map (·.stream) := List.mem_map_of_mem hq
  rw [s.withdrawals_streams] at hmem
  obtain ⟨r, hr, hstream⟩ := List.mem_map.mp hmem
  exact hstream ▸ mem_streamsNamed (h hr)

end

theorem State.withdrawMap_kept (s : State) : Kept s s.withdrawMap := by
  obtain ⟨hmap, -⟩ := State.handleAll_names (streamsNamed s.mapNames) s
  exact (State.handleAll_kept (streamsNamed s.mapNames) s).trans
    (Kept.withdrawals (State.withdrawals_named _ fun q hq => hmap ▸ hq))

theorem State.withdrawAll_kept (s : State) : Kept s s.withdrawAll := by
  obtain ⟨hmap, hoffered⟩ := State.handleAll_names (streamsNamed (s.mapNames ++ s.offeredNames)) s
  refine (State.handleAll_kept (streamsNamed (s.mapNames ++ s.offeredNames)) s).trans
    (Kept.withdrawals (State.withdrawals_named _ (List.append_subset.mpr ⟨?_, fun q hq => ?_⟩)))
  · rw [hmap]
    exact List.subset_append_left _ _
  · exact List.mem_append_right _ (hoffered hq)

end Sys2Proof.Machine
end

section
/-! # Every command keeps records and pool in agreement; the step keeps the partition (O41, O56) -/

namespace Sys2Proof.Machine

/-! ## The take of a host command -/

theorem State.takeWhen_kept {body : State → List Byte → State} (h : ∀ t record, Kept t (body t record))
    (s : State) (accepts : Nat → Bool) : Kept s (s.takeWhen accepts body) := by
  unfold State.takeWhen
  split
  · exact .refl s
  · rename_i record rest _
    split
    · exact Kept.trans (t := { s with commands := rest }) (.of_account (by rfl)) (h _ record)
    · exact .refl s

theorem State.respond_kept (s : State) (record : List Byte) (st : Status) (data : List Byte) :
    Kept s (s.respond record st data) := .of_account (by rfl)

theorem State.takeCommand_kept {body : State → List Byte → State}
    (h : ∀ t record, t.device = .ready → Kept t (body t record)) (s : State) (code : Nat) :
    Kept s (s.takeCommand code body) := by
  refine State.takeWhen_kept (fun t record => ?_) s _
  split
  · exact (h t record ‹_›).trans (State.poolTest_kept _)
  · exact t.respond_kept _ _ _

theorem State.onStream_kept {body : State → StreamIndex → Context → State}
    (h : ∀ t i c, t.ctx? i = some c → Kept t (body t i c)) (s : State) (record : List Byte) :
    Kept s (s.onStream record body) := by
  have hl := s.lookup_kept (commandTag record)
  unfold State.onStream
  dsimp only
  split
  · exact hl.trans (State.respond_kept _ _ _ _)
  · exact hl.trans (State.respond_kept _ _ _ _)
  · rename_i i c hfound
    exact hl.trans (h _ i c (State.ctx?_of_lookup hfound))

/-! ## The bodies of the stream commands -/

/-- A COMPLETE stream, which holds no slot, is closed (R26). -/
theorem State.freeEntry_tends {s : State} {i : StreamIndex} {c : Context} (hc : s.ctx? i = some c)
    (hcomplete : c.state = .complete) : Tends i s (s.freeEntry i) where
  toOnlyAt := State.setEntry_onlyAt _ i _ fun _ => rfl
  faithful w _ hf := by
    have hnone : (s.freeEntry i).ctx? i = none := by
      rw [State.ctx?, State.entry_freeEntry w, if_pos rfl]
      rfl
    obtain ⟨howns, -, -, -, hslots⟩ := (State.faithful_iff hc).mp hf
    refine (State.faithful_iff_of_free hnone).mpr fun slot pos huse => ?_
    obtain ⟨r, hr, hslot⟩ := Option.bind_eq_some_iff.mp ((howns slot pos).mp huse)
    exact absurd (hslot.symm.trans (hslots hcomplete r (List.mem_of_getElem? hr))) (by simp)

theorem State.closeBody_kept (s : State) (record : List Byte) : Kept s (s.closeBody record) := by
  refine State.onStream_kept (fun t i c hc => ?_) s record
  split
  · exact (State.freeEntry_tends hc ‹_›).kept.trans (State.respond_kept _ _ _ _)
  · exact t.respond_kept _ _ _

theorem State.abortBody_kept (s : State) (record : List Byte) : Kept s (s.abortBody record) := by
  refine State.onStream_kept (fun t i c _ => ?_) s record
  have habort : Kept t (((t.enterAborted i .hostAbort none).settle i).respond record .done []) :=
    ((t.enterAborted_tends i _ _).trans (State.settle_tends _ i)).kept.trans (State.respond_kept _ _ _ _)
  cases c.state with
  | opened => exact habort
  | hold => exact habort
  | aborted => exact t.respond_kept _ _ _
  | complete => exact t.respond_kept _ _ _
  | salvaging => exact t.respond_kept _ _ _
  | releasing => exact t.respond_kept _ _ _

theorem State.releaseBody_kept (s : State) (record : List Byte) : Kept s (s.releaseBody record) := by
  refine State.onStream_kept (fun t i c _ => ?_) s record
  have hrelease : Kept t (((t.enterReleasing i c.cause).settle i).respond record .done []) :=
    ((t.enterReleasing_tends i _).trans (State.settle_tends _ i)).kept.trans (State.respond_kept _ _ _ _)
  cases c.state with
  | aborted => exact hrelease
  | salvaging => exact hrelease
  | opened => exact t.respond_kept _ _ _
  | hold => exact t.respond_kept _ _ _
  | complete => exact t.respond_kept _ _ _
  | releasing => exact t.respond_kept _ _ _

theorem State.salvageBody_kept (s : State) (record : List Byte) : Kept s (s.salvageBody record) := by
  refine State.onStream_kept (fun t i c hc => ?_) s record
  split
  · exact ((State.setCtx_tends hc (.of_stopped (d := { c with state := .salvaging }) rfl (.inr (.inl rfl)))).trans (State.settle_tends _ i)).kept.trans
      (State.respond_kept _ _ _ _)
  · exact t.respond_kept _ _ _

theorem Context.extended_core (c : Context) (cap reserve : Nat) : (c.extended cap reserve).core = c.core := by
  unfold Context.extended
  dsimp only
  split <;> rfl

theorem State.extendBody_kept (s : State) (record : List Byte) : Kept s (s.extendBody record) := by
  refine State.onStream_kept (fun t i c hc => ?_) s record
  split
  · exact t.respond_kept _ _ _
  · split
    · exact t.respond_kept _ _ _
    · exact (State.setCtx_tends hc (.of_core (c.extended_core _ _))).kept.trans (State.respond_kept _ _ _ _)

theorem State.flushBody_kept (s : State) (record : List Byte) : Kept s (s.flushBody record) := by
  refine State.onStream_kept (fun t i c hc => ?_) s record
  split
  · exact ((State.setCtx_tends hc (.of_core (by rfl))).trans (State.settle_tends _ i)).kept.trans
      (State.respond_kept _ _ _ _)
  · exact t.respond_kept _ _ _

theorem State.queryBody_kept (s : State) (record : List Byte) : Kept s (s.queryBody record) :=
  State.onStream_kept (fun t _ _ _ => t.respond_kept _ _ _) s record

theorem State.endInterval_kept (s : State) : Kept s s.endInterval :=
  .of_account (by simp [State.endInterval, State.account])

theorem State.configureBody_kept (s : State) (record : List Byte) : Kept s (s.configureBody record) := by
  have hset : ∀ (t : State) (g : Settings), Kept t { t with settings := g } := fun _ _ => .of_account (by rfl)
  unfold State.configureBody
  dsimp only
  refine Kept.trans ?_ (hset _ _)
  have htail : ∀ t : State, Kept s t → Kept s
      (if ((parseConfigure record).intervalLength.isSome && t.intervalDue) = true then t.endInterval else t) := by
    intro t ht
    split
    · exact ht.trans t.endInterval_kept
    · exact ht
  refine htail _ ?_
  refine Kept.trans ?_ (State.respond_kept _ _ _ _)
  refine Kept.trans ?_ (State.poolTest_kept _)
  refine (hset s { s.settings.configure (parseConfigure record) with enables := s.settings.enables }).trans ?_
  split
  · exact State.idleTests_kept _ _
  · exact .refl _

theorem State.laneCommand_kept (s : State) (record : List Byte) (l : LaneId) (wanted : LaneState) :
    Kept s (s.laneCommand record l wanted) := by
  unfold State.laneCommand
  dsimp only
  split
  · exact s.respond_kept _ _ _
  · exact (s.laneQuiesced_kept l).trans (State.respond_kept _ _ _ _)
  · split
    · exact (s.laneActive_kept l _ _).trans (State.respond_kept _ _ _ _)
    · exact s.respond_kept _ _ _
  · exact s.respond_kept _ _ _
  · exact s.respond_kept _ _ _

/-! ## OPEN (R25) -/

/-- The context OPEN writes is sound: its records describe the window from its first chunk, without slots. -/
theorem OpenParams.context_sound (p : OpenParams) (time : Nat) (reply : Option LaneId)
    (hstart : p.start % 65536 = 0) : (p.context time reply).Sound := by
  have hrecord : ∀ r ∈ (p.context time reply).window, r.slot = none ∧ r.ranges = [] := by
    intro r hr
    obtain ⟨j, -, rfl⟩ := List.mem_map.mp hr
    exact ⟨rfl, rfl⟩
  refine ⟨by simp [OpenParams.context], fun r hr => by rw [(hrecord r hr).2]; exact rangesWF_nil, fun _ => ⟨hstart, ?_, ?_, ?_⟩,
    fun _ r hr => (hrecord r hr).1⟩
  · simp [OpenParams.context]
  · intro j hj
    have hw : j < p.w := hj
    exact ⟨_, p.context_window time reply (k := p.start / 65536 + j) (by omega) (by omega), rfl⟩
  · exact fun _ _ r hr _ => (hrecord r hr).1

/-- A sound stream without slots is written into an entry that was FREE. -/
theorem State.opened_agrees {s : State} {i : StreamIndex} {d : Context} (hfree : s.ctx? i = none) (hready : s.device = .ready)
    (hd : d.Sound) (hslots : ∀ p, d.slotAt p = none) (hs : s.Agrees) : (s.setCtx i d).Agrees where
  table := State.setEntry_tableWF hs.table i _
  partition := hs.partition
  faithful j hj := by
    by_cases hji : j = i
    · subst hji
      refine (State.faithful_iff (s.ctx?_setCtx_self j d)).mpr ⟨fun slot pos => ?_, hd⟩
      rw [hslots]
      exact iff_of_false ((State.faithful_iff_of_free hfree).mp (hs.faithful j hj) slot pos) (by simp)
    · have hother : (s.setCtx i d).ctx? j = s.ctx? j := by
        rw [State.ctx?, State.entry_setCtx hs.table, if_neg hji, State.ctx?]
      have hf := hs.faithful j hj
      rw [State.Faithful] at hf ⊢
      rw [hother]
      exact hf
  unready h := absurd hready h

theorem State.openBody_kept {s : State} (hready : s.device = .ready) (record : List Byte) : Kept s (s.openBody record) := by
  have hl := s.lookup_kept (parseOpen record).tag
  unfold State.openBody
  dsimp only
  split
  · exact s.respond_kept _ _ _
  · rename_i hbad
    split
    · exact hl.trans (State.respond_kept _ _ _ _)
    · exact hl.trans (State.respond_kept _ _ _ _)
    · rename_i hnone
      rw [State.lookup_of_notFound hnone]
      split
      · exact s.respond_kept _ _ _
      · rename_i i hi
        split
        · exact s.respond_kept _ _ _
        · have hstart : (parseOpen record).start % Config.chunkSize = 0 := by
            simp only [OpenParams.bad, decide_eq_true_eq, not_or, not_not] at hbad
            exact hbad.2.2.2.1
          refine Kept.trans (t := s.setCtx i ((parseOpen record).clamped.context s.time s.lowestActive)) ?_
            (.of_account (by rfl))
          refine ⟨id, State.opened_agrees (State.ctx?_of_freeWay hi) hready
            (OpenParams.context_sound _ _ _ hstart) fun p => ?_⟩
          simp [Context.slotAt, OpenParams.context, ChunkRecord.fresh]

/-! ## Resets and the self-test -/

/-- An empty table agrees with a pool in which no slot is ASSIGNED. -/
theorem State.agrees_of_emptyTable {s : State} (h : s.table = []) (hp : s.pool.Partition)
    (hslots : ∀ slot i pos, s.pool.use slot ≠ .assigned i pos) : s.Agrees := by
  have hnone : ∀ i, s.ctx? i = none := fun i => by rw [State.ctx?, State.entry, h]; rfl
  exact ⟨by rw [State.TableWF, h]; exact ⟨.nil, fun _ hc => absurd hc List.not_mem_nil⟩, hp,
    fun i _ => (State.faithful_iff_of_free (hnone i)).mpr fun slot pos => hslots slot i pos, fun _ => hnone⟩

theorem Pool.afterDeviceReset_use {p : Pool} (h : CellsWF .free p.uses) (slot : Slot) :
    p.afterDeviceReset.use slot = if p.use slot = .retired then .retired else .free := by
  have hkept : ∀ u, u ≠ .free → (p.afterDeviceReset.use slot = u ↔ p.use slot = u ∧ u = .retired) := fun u hu => by
    refine (mem_iff_cellGet (cellsWF_filter h _) slot u hu).symm.trans ?_
    rw [List.mem_filter, mem_iff_cellGet h slot u hu, decide_eq_true_eq]
    rfl
  split_ifs with hretired
  · exact (hkept .retired (by simp)).mpr ⟨hretired, rfl⟩
  · by_contra hlisted
    obtain ⟨hwas, hu⟩ := (hkept _ hlisted).mp rfl
    exact hretired (hwas.trans hu)

theorem Pool.afterDeviceReset_freeList (p : Pool) : p.afterDeviceReset.freeList.Nodup ∧
    ∀ slot, slot ∈ p.afterDeviceReset.freeList ↔ p.use slot ≠ .retired := by
  have hnodup := List.nodup_finRange 2048
  have hall : ∀ slot : Slot, slot ∈ List.finRange 2048 := List.mem_finRange
  unfold Pool.afterDeviceReset
  generalize List.finRange 2048 = l at hnodup hall
  exact ⟨hnodup.filter _, fun slot => by simp [hall]⟩

/-- A device reset leaves every slot FREE but the retired ones (R93). -/
theorem Pool.afterDeviceReset_partition {p : Pool} (h : p.Partition) : p.afterDeviceReset.Partition := by
  obtain ⟨-, -, hw, hcount⟩ := h
  refine ⟨p.afterDeviceReset_freeList.1, fun slot => ?_, cellsWF_filter hw _, ?_⟩
  · rw [p.afterDeviceReset_freeList.2, Pool.afterDeviceReset_use hw]
    split_ifs with hretired <;> simp [hretired]
  · show ((p.uses.filter fun c => decide (c.2 = .retired)).filter fun c => decide (c.2 = .retired)).length ≤ _
    rw [List.filter_filter]
    simpa [Pool.retiredCount] using hcount

theorem State.afterDeviceReset_kept (s : State) (sample : ResetSample) (counter : Word) :
    Kept s (s.restarted sample s.pool.afterDeviceReset counter) where
  partition := Pool.afterDeviceReset_partition
  agrees hs := State.agrees_of_emptyTable rfl (Pool.afterDeviceReset_partition hs.partition) fun slot i pos => by
    show s.pool.afterDeviceReset.use slot ≠ _
    rw [Pool.afterDeviceReset_use hs.partition.2.2.1]
    split_ifs <;> simp

theorem State.powerOnReset_kept (s : State) (sample : ResetSample) : Kept s (s.restarted sample .reset 0) where
  partition _ := Pool.reset_partition
  agrees _ := State.agrees_of_emptyTable rfl Pool.reset_partition fun _ _ _ => SlotUse.noConfusion

/-- The device enters READY, or moves from one state that is not READY to another. -/
theorem Kept.of_device {s t : State} {d : DeviceState} (h : t.account = (d, s.account.2))
    (hd : d = .ready ∨ s.device ≠ .ready) : Kept s t := by
  have hset : Kept s { s with device := d } := ⟨id, fun hs => ⟨hs.table, hs.partition, hs.faithful, fun hready =>
    hs.unready (hd.resolve_left hready)⟩⟩
  exact hset.trans (.of_account h)

/-- The test of the Stream Table leaves every entry FREE; none was live (R174). -/
theorem Kept.of_tableTest {s t : State} (htable : t.table = []) (hpool : t.pool = s.pool) (hd : s.device ≠ .ready) : Kept s t := by
  refine ⟨fun p => hpool ▸ p, fun hs => State.agrees_of_emptyTable htable (hpool ▸ hs.partition) fun slot i pos => ?_⟩
  rw [hpool]
  exact (State.faithful_iff_of_free (hs.unready hd i)).mp (hs.faithful i id) slot pos

theorem State.enterReady_kept (s : State) : Kept s s.enterReady := by
  have hlanes : ∀ (l : List LaneId) (t : State), Kept t (l.foldl State.laneAtReady t) := by
    intro l
    induction l with
    | nil => exact .refl
    | cons l rest ih =>
      intro t
      refine Kept.trans ?_ (ih _)
      unfold State.laneAtReady
      dsimp only
      split
      · exact t.laneActive_kept _ _ _
      · exact .refl t
  unfold State.enterReady
  dsimp only
  have hready : Kept s { s with device := .ready, intervalStart := s.time } := .of_device (d := .ready) rfl (.inl rfl)
  have h := hready.trans (hlanes laneIds _)
  split
  · exact h.trans (State.raise_kept _ _)
  · exact h

/-! ## Every command -/

/-- A command's outcome: the state it leaves, if any, keeps what every event keeps. -/
def KeptInto (s : State) (o : Host.Outcome State Fault Refusal) : Prop := ∀ t, o = .next t → Kept s t

theorem Kept.next {s t : State} (h : Kept s t) : KeptInto s (.next t) := fun _ hu => Host.Outcome.next.inj hu ▸ h

section
variable (s : State)

theorem execPushSegment_kept (l : LaneId) (record : List Byte) : KeptInto s (execPushSegment l record s) := by
  unfold execPushSegment
  dsimp only
  split
  · split
    · exact Kept.next (.of_account (by rfl))
    · exact (Kept.refl s).next
  · split
    · exact Kept.next (.of_account (by rfl))
    · exact Kept.next (.of_account (by rfl))

theorem execLinkUp_kept (l : LaneId) : KeptInto s (execLinkUp l s) := by
  unfold execLinkUp
  dsimp only
  split
  · exact ((s.laneActive_kept _ _ _).trans (State.poolTest_kept _)).next
  · exact Kept.next (.of_account (by rfl))

theorem execNoticeTake_kept (l : LaneId) : KeptInto s (execNoticeTake l s) := by
  unfold execNoticeTake
  split
  · exact Kept.next (.of_account (by rfl))
  · exact Kept.next (.of_account (by rfl))

theorem execSegmentTake_kept (l : LaneId) : KeptInto s (execSegmentTake l s) := by
  unfold execSegmentTake
  dsimp only
  split
  · exact (Kept.refl s).next
  · exact (Kept.refl s).next
  · refine Kept.next (Kept.trans (Kept.trans ?_ (State.handleSegment_kept _ _ _)) (State.poolTest_kept _))
    exact .of_account (by rfl)

theorem execNoticePlacement_kept (l : LaneId) : KeptInto s (execNoticePlacement l s) := by
  unfold execNoticePlacement
  dsimp only
  split
  · split
    · exact Kept.next (.of_account (by rfl))
    · split
      · exact ((s.placeStreamOrCredit_kept l).trans (State.poolTest_kept _)).next
      · exact (Kept.refl s).next
  · exact (Kept.refl s).next

theorem execTake_kept : KeptInto s (execTake s) := by
  unfold execTake
  split
  · exact Kept.next (.of_account (by rfl))
  · exact (s.takeHead_kept.trans (State.poolTest_kept _)).next

theorem execRead_kept (record : List Byte) : KeptInto s (execRead record s) := by
  unfold execRead
  dsimp only
  split
  · exact Kept.next (.of_account (by rfl))
  · exact (((s.checkParity_tends _).trans (State.readRecord_tends _ _ _ _)).kept.trans (State.poolTest_kept _)).next

theorem execComplete_kept (record : List Byte) : KeptInto s (execComplete record s) := by
  unfold execComplete
  dsimp only
  split
  · split
    · exact Kept.next (.of_account (by rfl))
    · exact (Kept.refl s).next
  · exact (s.endRecord_tends _ _ _).kept.next

theorem execDrainTimeout_kept (tag : Word) : KeptInto s (execDrainTimeout tag s) := by
  unfold execDrainTimeout
  split
  · exact (Kept.refl s).next
  · split
    · exact ((s.count_tends _ _ _).trans (State.endRecord_tends _ _ _ _)).kept.next
    · exact (Kept.refl s).next

theorem execWriterSignal_kept (signal : WriterSignal) : KeptInto s (execWriterSignal signal s) := by
  have hset : Kept s { s with signal := signal } := .of_account (by rfl)
  unfold execWriterSignal
  dsimp only
  split
  · exact (Kept.refl s).next
  · split
    · cases signal with
      | ready => exact (hset.trans (State.raise_kept _ _)).next
      | offline =>
        exact (((hset.trans (State.raise_kept _ _)).trans (State.withdrawMap_kept _)).trans (State.poolTest_kept _)).next
    · exact hset.next

theorem execPortReset_kept : KeptInto s (execPortReset s) := by
  have hset : Kept s { s with signal := .offline } := .of_account (by rfl)
  unfold execPortReset
  dsimp only
  refine Kept.next (Kept.trans (Kept.trans ?_ (State.withdrawAll_kept _)) (State.poolTest_kept _))
  split
  · exact hset.trans (State.raise_kept _ _)
  · exact hset

theorem execArbiterTurn_kept : KeptInto s (execArbiterTurn s) := by
  unfold execArbiterTurn
  split
  · exact ((s.serveFirst_kept _).trans (State.poolTest_kept _)).next
  · exact (Kept.refl s).next

theorem execEngineTake_kept : KeptInto s (execEngineTake s) := by
  unfold execEngineTake
  split
  · exact (Kept.refl s).next
  · split
    · split
      · exact (((s.setQueue_tends _ _).trans (State.startVerify_tends _ _)).kept.trans (State.poolTest_kept _)).next
      · exact (((s.checkParity_tends _).trans (State.setQueue_tends _ _ _)).kept.trans (State.poolTest_kept _)).next
    · exact (Kept.refl s).next

theorem execVerifyCompletion_kept : KeptInto s (execVerifyCompletion s) := by
  unfold execVerifyCompletion
  split
  · exact (Kept.refl s).next
  · rename_i o _
    have hidle : ∀ t : State, Tends o.stream t { t with engine := none } := fun _ => .of_account (by rfl)
    refine Kept.next (Kept.trans (Tends.kept (i := o.stream) ?_) (State.poolTest_kept _))
    refine Tends.trans ?_ (State.settle_tends _ _)
    refine Tends.trans ?_ (State.applyOutcome_tends _ _ _ _)
    refine Tends.trans ?_ (State.countVerification_tends _ _ _)
    refine Tends.trans ?_ (hidle _)
    exact (s.reportRead_tends _ _ _ _ _).trans (State.checkParity_tends _ _)

theorem execCommandWrite_kept (record : List Byte) : KeptInto s (execCommandWrite record s) := by
  unfold execCommandWrite
  dsimp only
  split
  · exact Kept.next (.of_account (by rfl))
  · split
    · exact Kept.next (.of_account (by rfl))
    · exact Kept.next (.of_account (by simp [State.account]))

theorem execResponseQueueRead_kept : KeptInto s (execResponseQueueRead s) := by
  unfold execResponseQueueRead
  split <;> exact Kept.next (.of_account (by rfl))

theorem execEventQueueRead_kept : KeptInto s (execEventQueueRead s) := by
  unfold execEventQueueRead
  split <;> exact Kept.next (.of_account (by rfl))

theorem execLane_kept : KeptInto s (execLane s) := by
  refine Kept.next (State.takeCommand_kept (fun t record _ => ?_) s 9)
  split
  · exact t.respond_kept _ _ _
  · split
    · exact t.laneCommand_kept _ _ _
    · exact t.respond_kept _ _ _

theorem execClearErrors_kept : KeptInto s (execClearErrors s) :=
  Kept.next (State.takeCommand_kept (fun _ _ _ => .of_account (by rfl)) s 12)

theorem execReset_kept (sample : ResetSample) : KeptInto s (execReset sample s) :=
  Kept.next (State.takeWhen_kept
    (fun t _ => (t.afterDeviceReset_kept sample _).trans (State.respond_kept _ _ _ _)) s _)

theorem execBufferWalk_kept (bad : List Nat) : KeptInto s (execBufferWalk bad s) := by
  unfold execBufferWalk
  split
  · rename_i hd
    exact Kept.next (.of_device (by rfl) (.inr (by rw [hd]; simp)))
  · exact (Kept.refl s).next

theorem execStreamTableTest_kept (bad : List Nat) : KeptInto s (execStreamTableTest bad s) := by
  unfold execStreamTableTest
  split
  · rename_i hd
    exact Kept.next (.of_tableTest (by rfl) (by rfl) (by rw [hd]; simp))
  · exact (Kept.refl s).next

theorem execKnownAnswer_kept (flips : Word) : KeptInto s (execKnownAnswer flips s) := by
  unfold execKnownAnswer
  split
  · rename_i hd
    split
    · exact (s.enterReady_kept.trans (State.poolTest_kept _)).next
    · exact Kept.next (.of_device (by rfl) (.inr (by rw [hd]; simp)))
  · exact (Kept.refl s).next

theorem execScrub_kept : KeptInto s (execScrub s) := by
  unfold execScrub
  split
  · have hset : ∀ (t : State) (i : StreamIndex), Kept t { t with scrubPosition := i } := fun _ _ => .of_account (by rfl)
    exact (((s.checkParity_tends _).kept.trans (hset _ _)).trans (State.poolTest_kept _)).next
  · exact (Kept.refl s).next

theorem execIdleExpiry_kept (i : StreamIndex) : KeptInto s (execIdleExpiry i s) := by
  unfold execIdleExpiry
  split
  · exact ((s.idleTest_kept i).trans (State.poolTest_kept _)).next
  · exact (Kept.refl s).next

theorem execIntervalExpiry_kept : KeptInto s (execIntervalExpiry s) := by
  unfold execIntervalExpiry
  split
  · exact s.endInterval_kept.next
  · exact (Kept.refl s).next

end

theorem exec_kept (x : Instr) (s : State) : KeptInto s (exec x s) := by
  have htake : ∀ {body : State → List Byte → State}, (∀ t record, Kept t (body t record)) → ∀ code,
      KeptInto s (.next (s.takeCommand code body)) := fun h code =>
    (State.takeCommand_kept (fun t record _ => h t record) s code).next
  cases x with
  | pushSegment l record => exact execPushSegment_kept s l record
  | linkUp l => exact execLinkUp_kept s l
  | linkDown l => exact ((s.linkLost_kept l _).trans (State.poolTest_kept _)).next
  | laneReset l => exact ((s.linkLost_kept l _).trans (State.poolTest_kept _)).next
  | noticeTake l => exact execNoticeTake_kept s l
  | segmentTake l => exact execSegmentTake_kept s l
  | noticePlacement l => exact execNoticePlacement_kept s l
  | take => exact execTake_kept s
  | read record => exact execRead_kept s record
  | complete record => exact execComplete_kept s record
  | writerSignal signal => exact execWriterSignal_kept s signal
  | portReset => exact execPortReset_kept s
  | arbiterTurn => exact execArbiterTurn_kept s
  | drainTimeout tag => exact execDrainTimeout_kept s tag
  | engineTake => exact execEngineTake_kept s
  | verifyCompletion => exact execVerifyCompletion_kept s
  | commandWrite record => exact execCommandWrite_kept s record
  | openCmd => exact (State.takeCommand_kept (fun _ record hready => State.openBody_kept hready record) s 1).next
  | closeCmd => exact htake State.closeBody_kept 2
  | abortCmd => exact htake State.abortBody_kept 3
  | releaseCmd => exact htake State.releaseBody_kept 4
  | salvageCmd => exact htake State.salvageBody_kept 5
  | extendCmd => exact htake State.extendBody_kept 6
  | flushCmd => exact htake State.flushBody_kept 7
  | queryCmd => exact htake State.queryBody_kept 8
  | laneCmd => exact execLane_kept s
  | configureCmd => exact htake State.configureBody_kept 10
  | countersCmd => exact htake (fun t _ => t.respond_kept _ _ _) 11
  | clearErrorsCmd => exact execClearErrors_kept s
  | statusCmd => exact (State.takeWhen_kept (fun t _ => t.respond_kept _ _ _) s _).next
  | resetCmd sample => exact execReset_kept s sample
  | unknownCommand => exact (State.takeWhen_kept (fun t _ => t.respond_kept _ _ _) s _).next
  | responseQueueRead => exact execResponseQueueRead_kept s
  | eventQueueRead => exact execEventQueueRead_kept s
  | powerOnReset sample => exact (s.powerOnReset_kept sample).next
  | bufferWalk bad => exact execBufferWalk_kept s bad
  | streamTableTest bad => exact execStreamTableTest_kept s bad
  | knownAnswer flips => exact execKnownAnswer_kept s flips
  | scrub => exact execScrub_kept s
  | idleExpiry i => exact execIdleExpiry_kept s i
  | intervalExpiry => exact execIntervalExpiry_kept s

/-- Settles O41: the records agree with the pool exactly when every stream does, and every command keeps that. -/
theorem commandsKeepRecordsSound : Obligations.CommandsKeepRecordsSound := by
  intro x s t hcanonical hpartition hsound h
  obtain ⟨-, htable, -⟩ := hcanonical
  obtain ⟨hfaithful, hunready⟩ := recordsSound_iff.mp hsound
  have hagrees := (exec_kept x s t h).agrees ⟨htable, hpartition, fun i _ => hfaithful i, hunready⟩
  exact recordsSound_iff.mpr ⟨fun i => hagrees.faithful i id, hagrees.unready⟩

/-- Settles O56: every command keeps the partition of the slots; an upset or a tick of the clock leaves the pool alone. -/
theorem stepKeepsSlotPartition : Obligations.StepKeepsSlotPartition := by
  intro s t hs h
  unfold step at h
  split at h
  · rename_i x rest _
    exact (exec_kept x { s with pending := rest } t h).partition hs
  · have hpool : s.idle.pool = s.pool := congrArg (fun g => g.2.2) s.idle_gauge
    rw [← Host.Outcome.next.inj h, hpool]
    exact hs

end Sys2Proof.Machine
end

section
/-! # The ECC of the words a placed piece touches (R88 to R90, R70; O18) -/

namespace Sys2Proof.Machine

/-! ## What a read reports (R89, R90) -/

section
variable (s : State) (slot : Slot) (ws : List Nat) (i : StreamIndex) (k : Nat)

/-- A read with an uncorrectable word, all that it sets before the event is raised. -/
def State.noted (bad : Nat) : State :=
  (({ s.count .correctedErrors (s.countWords slot ws .correctable) with pool := s.pool.setMark slot }).count
    .uncorrectableErrors bad).noteError .bufferUncorrected (some i) (some slot) (some k)

theorem State.reportRead_quiet (h : s.countWords slot ws .uncorrectable = 0) :
    s.reportRead slot ws i k = s.count .correctedErrors (s.countWords slot ws .correctable) := if_pos h

theorem State.reportRead_noted (h : s.countWords slot ws .uncorrectable ≠ 0) :
    s.reportRead slot ws i k = (s.noted slot ws i k (s.countWords slot ws .uncorrectable)).raise
      (.deviceError .bufferUncorrected (some i) none (some slot) (some k)) := if_neg h

theorem State.counter_noted (bad : Nat) (j : Counter) : (s.noted slot ws i k bad).counter j =
    if j = .uncorrectableErrors then (s.counter j).add bad
    else if j = .correctedErrors then (s.counter j).add (s.countWords slot ws .correctable) else s.counter j := by
  refine (State.counter_count _ .uncorrectableErrors j bad).trans ?_
  have hcounted := s.counter_count .correctedErrors j (s.countWords slot ws .correctable)
  split_ifs with hbad hcorrected
  · rw [if_neg (by rw [hbad]; decide)] at hcounted
    exact congrArg (Count.add · bad) hcounted
  · exact hcounted.trans (if_pos hcorrected)
  · exact hcounted.trans (if_neg hcorrected)

/-- What a read reports: the corrected words counted; of uncorrectable ones, the mark of the slot, the flag, the count, the
first-error record and one event. -/
structure Reported (s t : State) (slot : Slot) (i : StreamIndex) (k corrected bad : Nat) : Prop where
  corrected : t.counter .correctedErrors = (s.counter .correctedErrors).add corrected
  quiet : bad = 0 → t.pool = s.pool ∧ t.events = s.events ∧ t.errors = s.errors ∧
    t.counter .uncorrectableErrors = s.counter .uncorrectableErrors
  noted : bad ≠ 0 → t.pool.mark slot = true ∧ t.errors.bufferUncorrected = true ∧
    t.counter .uncorrectableErrors = (s.counter .uncorrectableErrors).add bad ∧
    t.errors.first = s.errors.first.or (some ⟨.bufferUncorrected, some i, some slot, some k⟩) ∧
    t.events = (s.raise (.deviceError .bufferUncorrected (some i) none (some slot) (some k))).events

theorem State.reportRead_reported (hmarks : CellsWF false s.pool.marks) : Reported s (s.reportRead slot ws i k) slot i k
    (s.countWords slot ws .correctable) (s.countWords slot ws .uncorrectable) := by
  by_cases hbad : s.countWords slot ws .uncorrectable = 0
  · rw [s.reportRead_quiet slot ws i k hbad]
    refine ⟨(s.counter_count _ _ _).trans (if_pos rfl), fun _ => ⟨rfl, rfl, rfl, ?_⟩, fun h => absurd hbad h⟩
    exact (s.counter_count _ _ _).trans (if_neg (by decide))
  · rw [s.reportRead_noted slot ws i k hbad]
    generalize hn : s.noted slot ws i k (s.countWords slot ws .uncorrectable) = n
    have hcounter := fun j => hn ▸ s.counter_noted slot ws i k (s.countWords slot ws .uncorrectable) j
    have hfirst : n.errors.first = s.errors.first.or (some ⟨.bufferUncorrected, some i, some slot, some k⟩) := by
      rw [← hn]; rfl
    have hkept := n.raise_errors_kept (.deviceError .bufferUncorrected (some i) none (some slot) (some k))
      (by rw [hfirst]; cases s.errors.first <;> rfl)
    refine ⟨?_, fun h => absurd h hbad, fun _ => ⟨?_, ?_, ?_, hkept.1.trans hfirst, ?_⟩⟩
    · rw [State.counter_raise _ _ (by decide), hcounter, if_neg (by decide), if_pos rfl]
    · rw [State.raise_pool, ← hn]
      exact (cellGet_cellPut hmarks slot slot true).trans (if_pos rfl)
    · rw [hkept.2, ← hn]; rfl
    · rw [State.counter_raise _ _ (by decide), hcounter, if_pos rfl]
    · exact State.raise_events_congr (by rw [← hn]; rfl) (by rw [← hn]; rfl) (by rw [← hn]; rfl) _

end

/-! ## The words a piece touches (R88) -/

section
variable {piece : Range} {held : List Range}

/-- A byte of the piece that the range list does not hold. -/
def newByte (piece : Range) (held : List Range) (y : Nat) : Bool :=
  decide (piece.start ≤ y ∧ y < piece.stop) && !holds held y

theorem newByte_iff {y : Nat} : newByte piece held y = true ↔ y ∈ newOffsets piece held := by
  simp only [newByte, mem_newOffsets, Bool.and_eq_true, decide_eq_true_eq, Bool.not_eq_true', and_assoc]

theorem mem_wordsOf {start n w : Nat} : w ∈ wordsOf start n ↔ 0 < n ∧ start / 8 ≤ w ∧ w ≤ (start + n - 1) / 8 := by
  unfold wordsOf Config.wordBytes
  split_ifs with hn
  · simp [hn]
  · have hle : start / 8 ≤ (start + n - 1) / 8 := Nat.div_le_div_right (by omega)
    rw [List.mem_map]
    constructor
    · rintro ⟨j, hj, rfl⟩
      rw [List.mem_range] at hj
      omega
    · rintro ⟨-, hlow, hhigh⟩
      exact ⟨w - start / 8, List.mem_range.mpr (by omega), by omega⟩

theorem wordsOf_nodup (start n : Nat) : (wordsOf start n).Nodup := by
  unfold wordsOf
  split_ifs
  · exact .nil
  · exact List.nodup_range.map fun a b h => Nat.add_left_cancel h

theorem touchedWords_nodup (piece : Range) (held : List Range) : (touchedWords piece held).Nodup :=
  (wordsOf_nodup _ _).filter _

/-- A word is touched when one of its 8 bytes is new. -/
theorem mem_touchedWords_iff {w : Nat} : w ∈ touchedWords piece held ↔
    ((List.range 8).any fun j => newByte piece held (8 * w + j)) = true := by
  rw [List.any_eq_true]
  constructor
  · intro h
    obtain ⟨y, hy, rfl⟩ := mem_touchedWords h
    exact ⟨y % 8, List.mem_range.mpr (Nat.mod_lt _ (by decide)), newByte_iff.mpr (by rwa [Nat.div_add_mod])⟩
  · rintro ⟨j, hj, hnew⟩
    rw [List.mem_range] at hj
    have hy := newByte_iff.mp hnew
    obtain ⟨hstart, hstop, -⟩ := mem_newOffsets.mp hy
    refine List.mem_filter.mpr ⟨mem_wordsOf.mpr ⟨by omega, by omega, by omega⟩, List.any_eq_true.mpr ⟨_, hy, ?_⟩⟩
    rw [decide_eq_true_eq, Config.wordBytes]
    omega

theorem wordAllNew_eq (w : Nat) : wordAllNew (newOffsets piece held) w =
    (List.range 8).all fun j => newByte piece held (8 * w + j) := by
  refine congrArg (List.all (List.range 8)) (funext fun j => ?_)
  rw [Bool.eq_iff_iff, newByte_iff, List.contains_iff_mem]
  rfl

/-- The words written in part that are in a condition, counted over the words of the slot. -/
theorem State.countWords_partWords (s : State) (slot : Slot) (hlimit : piece.stop ≤ 65536) (cond : WordCondition) :
    s.countWords slot (partWords piece held) cond = ((List.range 8192).filter fun w =>
      ((List.range 8).any fun j => newByte piece held (8 * w + j)) &&
        !((List.range 8).all fun j => newByte piece held (8 * w + j)) && decide (s.condition slot w = cond)).length := by
  refine List.Perm.length_eq ((List.perm_ext_iff_of_nodup ?_ (List.nodup_range.filter _)).mpr fun w => ?_)
  · exact ((touchedWords_nodup piece held).filter _).filter _
  · simp only [partWords, List.mem_filter, mem_touchedWords_iff, wordAllNew_eq, List.mem_range, Bool.and_eq_true]
    refine ⟨fun ⟨⟨htouched, hpart⟩, hcond⟩ => ⟨?_, ⟨htouched, hpart⟩, hcond⟩, fun ⟨_, h⟩ => h⟩
    obtain ⟨j, -, hnew⟩ := List.any_eq_true.mp htouched
    obtain ⟨-, hstop, -⟩ := mem_newOffsets.mp (newByte_iff.mp hnew)
    omega

end

/-! ## The conditions a piece's write leaves (R88) -/

theorem State.condition_setCondition {s : State} (h : CellsWF .sound s.words) (slot : Slot) (v w : Nat)
    (cond : WordCondition) :
    (s.setCondition slot v cond).condition slot w = if w = v then cond else s.condition slot w := by
  refine (cellGet_cellPut h _ _ _).trans ?_
  have hsame : bufferWord slot w = bufferWord slot v ↔ w = v := Nat.add_left_cancel_iff
  simp only [hsame, State.condition]

/-- Each word written takes its condition from the one it had. -/
theorem State.condition_setConditions (slot : Slot) (full : Nat → Bool) (ws : List Nat) : ∀ {s : State},
    CellsWF .sound s.words → ws.Nodup → ∀ w,
    (ws.foldl (fun t v => t.setCondition slot v (writtenCondition (full v) (t.condition slot v))) s).condition slot w =
      if w ∈ ws then writtenCondition (full w) (s.condition slot w) else s.condition slot w := by
  induction ws with
  | nil => exact fun _ _ _ => by simp
  | cons v ws ih =>
    intro s hs hnodup w
    obtain ⟨hv, hnodup⟩ := List.nodup_cons.mp hnodup
    rw [List.foldl_cons, ih (s := s.setCondition slot v _) (cellPut_wf hs _ _) hnodup w, State.condition_setCondition hs]
    by_cases hw : w = v
    · subst hw
      simp [hv]
    · simp [hw]

section
variable {X : State} {slot : Slot} {piece : Range} {held : List Range}

theorem State.writePiece_condition (hwf : CellsWF .sound X.words) (bytes : List Byte) (i : StreamIndex) (k w : Nat) :
    (X.writePiece slot piece held bytes i k).condition slot w =
      if ((List.range 8).any fun j => newByte piece held (8 * w + j)) = false then X.condition slot w
      else if ((List.range 8).all fun j => newByte piece held (8 * w + j)) = false ∧ X.condition slot w = .uncorrectable
        then .uncorrectable else .sound := by
  have hreport : (X.reportRead slot (partWords piece held) i k).words = X.words := by rw [State.reportRead_eq]
  have hcondition : (X.reportRead slot (partWords piece held) i k).condition slot w = X.condition slot w := by
    rw [State.condition, hreport, State.condition]
  rw [State.writePiece_stages, writeBytes_eq]
  refine (State.condition_setConditions slot (wordAllNew (newOffsets piece held)) _ (by rw [hreport]; exact hwf)
    (touchedWords_nodup piece held) w).trans ?_
  simp only [hcondition, mem_touchedWords_iff, wordAllNew_eq]
  cases (List.range 8).any fun j => newByte piece held (8 * w + j) with
  | false => simp
  | true =>
    cases (List.range 8).all fun j => newByte piece held (8 * w + j) <;> cases X.condition slot w <;> simp [writtenCondition]

/-- A piece's write reports what the read of the words it writes in part has shown. -/
theorem State.writePiece_reported (hmarks : CellsWF false X.pool.marks) (bytes : List Byte) (i : StreamIndex) (k : Nat) :
    Reported X (X.writePiece slot piece held bytes i k) slot i k (X.countWords slot (partWords piece held) .correctable)
      (X.countWords slot (partWords piece held) .uncorrectable) := by
  have h := X.reportRead_reported slot (partWords piece held) i k hmarks
  rw [State.writePiece_stages, writeBytes_eq,
    setConditions_eq fun t w => writtenCondition (wordAllNew (newOffsets piece held) w) (t.condition slot w)]
  exact ⟨h.corrected, h.quiet, h.noted⟩

end

/-! ## The segment -/

/-- After the early warning was issued, a segment with merged bytes ends without one. -/
theorem State.concluded_warned {d : Context} (hwarned : d.earlyWarningIssued = true) (Z : State) (i : StreamIndex) (y : Nat)
    (lost : List DropReason) : Z.concluded i d true y lost = Z := by
  rw [State.concluded, if_pos rfl, State.tellWarning, Context.warnsAt, hwarned, Bool.not_true, Bool.and_false,
    State.raiseWhen_false]

section
variable {s : State} {l : LaneId} {rest : List (List Byte)} {g : Segment} {i : StreamIndex} {c : Context} {r : ChunkRecord}
  {slot : Slot}

/-- A piece merged after the early warning was issued: the device takes the piece's write, and no event besides its own. -/
theorem OnePiece.merged (h : NextSegment s l rest g i c) (hs : Serving s) (hone : OnePiece g c r)
    (hslot : r.slot = some slot) (htakes : r.takesBytes = true) (hfits : (insertRange g.piece r.ranges).length ≤ 8)
    (hwarned : c.earlyWarningIssued = true) : ∃ names d, exec (.segmentTake l) s = .next
      ((((s.taken l rest).writePiece slot g.piece r.ranges g.payload i r.index).enqueue names).setCtx i d) := by
  obtain ⟨-, -, -, -, -, hr⟩ := id hone
  have hplaced := State.placePiece_merges (X := s.taken l rest) (i := i) (c := c.enters 0 false (g.offset + g.length))
    (y := g.offset + g.length) (bytes := g.payload) rfl hr (r.slotFor_of_held hslot _ _ _) htakes
    (by rw [← Segment.piece_eq]; exact hfits)
  rw [State.granting_held (by rw [hslot]; rfl), ← Segment.piece_eq] at hplaced
  have hall := hone.placeSegment_concluded (l := l) _ hplaced
  rw [Option.isNone_none, State.concluded_warned (by exact hwarned)] at hall
  refine ⟨_, _, (nextSegment_exec_receiving h hs hall rfl).trans (congrArg _ (hs.poolTest_quiet ?_ ?_ ?_))⟩ <;>
    rw [State.writePiece_eq] <;> rfl

end

/-- The slot of a word, read off its place in the buffer. -/
theorem bufferWord_div (slot : Slot) {w : Nat} (hw : w < 8192) : bufferWord slot w / 8192 = slot.val := by
  unfold bufferWord Config.chunkSize Config.wordBytes
  omega

/-- Settles O18: the segment's step is its one piece's write, whose read has reported before the words take their new
conditions. -/
theorem partialWriteChecksEcc : Obligations.PartialWriteChecksEcc := by
  intro s l rest g i c r slot h hs hcan hone hslot hstate hfits hwarned fresh some' all inPart bad
  have htakes : r.takesBytes = true := ChunkRecord.takesBytes_iff.mpr hstate
  obtain ⟨hbuffer, -, hwords, -, hmarks⟩ := hcan
  obtain ⟨names, d, hexec⟩ := hone.merged h hs hslot htakes hfits hwarned
  obtain ⟨-, -, -, -, -, hr⟩ := id hone
  have hlimit : g.piece.stop ≤ 65536 := by rw [Segment.piece_eq]; exact hone.inChunk.piece.2
  have hplaced := bytesPlaced_writePiece (X := s.taken l rest) (g := g) hbuffer hone.inChunk hr hslot htakes le_rfl i r.index
  rw [Nat.sub_self, List.drop_zero, ← Segment.piece_eq] at hplaced
  have hreported := State.writePiece_reported (X := s.taken l rest) (slot := slot) (piece := g.piece) (held := r.ranges)
    hmarks g.payload i r.index
  rw [State.countWords_partWords _ _ hlimit, State.countWords_partWords _ _ hlimit] at hreported
  obtain ⟨hcorrected, hquiet, hnoted⟩ := hreported
  refine ⟨_, hexec, hplaced.of_buffer rfl rfl, fun w _ => ?_, fun other w hother hw => ?_, hcorrected, hquiet,
    fun hbad => ?_⟩
  · exact State.writePiece_condition (X := s.taken l rest) hwords g.payload i r.index w
  · exact State.writePiece_words (X := s.taken l rest) hwords hlimit
      (by rw [bufferWord_div other hw]; exact Fin.val_ne_of_ne hother) g.payload i r.index
  · obtain ⟨hmark, hflag, hcount, hfirst, hevents⟩ := hnoted hbad
    exact ⟨hmark, hflag, hcount, hfirst,
      hevents.trans (State.raise_events_congr (s := s.taken l rest) (t := s) rfl rfl rfl _)⟩

end Sys2Proof.Machine
end
